-- ==== Sys2Proof/Word.lean ====
section
/-! DEFINITION. The word types of the block and the plainest arithmetic on them: fields of a
32-bit register word (00 R5: every BAR0 register is 32 bits wide). -/

namespace Sys2Proof

/-- One BAR0 register word (00 R5). -/
abbrev Word := BitVec 32

/-- One byte of memory (00 R8: multi-byte values are little-endian bytes). -/
abbrev Byte := BitVec 8

/-- The `n` bits of `x` from bit `lo` up, as a number. -/
def bits (x lo n : Nat) : Nat := x / 2 ^ lo % 2 ^ n

/-- `x` with the `n` bits from bit `lo` up replaced by those of `v`. -/
def putBits (x lo n v : Nat) : Nat := x - bits x lo n * 2 ^ lo + v % 2 ^ n * 2 ^ lo

end Sys2Proof
end

