-- ==== Sys2Proof/Syntax.lean ====
section
/-! DEFINITION. The commands of the block: one constructor per row of spec/opcode_table.json, with
the row's operands. An operand is what the sender chooses (a path, an offset, a value, bytes) or what
the environment decides at that instant (which bay, how many cycles, a sensor's reading). -/

namespace Sys2Proof

/-- The two paths that reach the BAR0 map: the host port and the management bus (02 R39, 19 R499). -/
inductive Path where
  | host
  | bus
deriving DecidableEq, Repr

/-- A source of event records: one pair of DIE and UNIT (02 R53). -/
structure Source where
  die  : Nat
  unit : Nat
deriving DecidableEq, Repr

/-- A logical bay of a Rafter die (01 R15, R16). -/
structure Bay where
  die  : Nat
  lbay : Nat
deriving DecidableEq, Repr

/-- A physical bay of a Rafter die (00 R3). -/
structure PBay where
  die  : Nat
  pbay : Nat
deriving DecidableEq, Repr

/-- The peg operations of 11 R307. -/
inductive PegOp where
  | set
  | add
  | sub
deriving DecidableEq, Repr

/-- A peg operation as it arrives at the peg unit over the ligger net (11 R307, R309). -/
structure PegMsg where
  op    : PegOp
  value : Word
  /-- The die that issued it (DETAIL of the foreign-peg event, 11 R321). -/
  die   : Nat
  /-- The context of the issuing task (11 R314). -/
  ctx   : Nat
deriving DecidableEq, Repr

/-- What the error code of a memory sector finds when the controller reads it (10 R288). -/
inductive Ecc where
  | clean
  | corrected
  | uncorrectable
deriving DecidableEq, Repr

/-- The kinds of media engine (13 R348, 09 R260: KIND 0x0 decode, 0x1 encode, 0x2 pre-process). -/
inductive EngKind where
  | decode
  | encode
  | preprocess
deriving DecidableEq, Repr

/-- A media engine of Gable die 28 + `gable`, or that die's pre-processor (13 R348). -/
structure Eng where
  gable : Nat
  kind  : EngKind
  idx   : Nat
deriving DecidableEq, Repr

/-- A request that a task issues at a requester input of a valley arbiter (11 R294, R295): its work queue, and the bay
that selected it. -/
structure TaskAsk where
  /-- The input, 0 to 15. -/
  input : Nat
  queue : Nat
  bay   : PBay
deriving DecidableEq, Repr

/-- A request that no task issues; a media engine issues its own for a session (13 R371). -/
structure UnitAsk where
  input   : Nat
  session : Option (Eng × Nat)
deriving DecidableEq, Repr

/-- A request at a requester input of a valley arbiter, of one kind or the other. -/
inductive Ask where
  | task (a : TaskAsk)
  | unit (a : UnitAsk)
deriving DecidableEq, Repr

/-- What the SECDED codes find in the words that a unit reads of its store (10 R286, R287). -/
structure Sram where
  /-- Words in which a single bit was corrected. -/
  corrected : Nat
  /-- The index of an uncorrectable word. -/
  bad       : Option Nat
deriving DecidableEq, Repr

/-- A task that runs at a logical bay, with what the SECDED codes find in the words that one of its bays reads. -/
structure TaskRun where
  bay    : Bay
  /-- Which of the bays that run it reads them: 0 the one that selected it, then the others of its group, ascending. -/
  member : Nat
  sram   : Sram
deriving DecidableEq, Repr

/-- What a fault of a Truss strikes (05 R140): 0 low half, 1 high half, 2 full array; the cycle; and the
index of an uncorrectable word, none for a parity error. -/
structure TrussUpset where
  half  : Nat
  cycle : Nat
  word  : Option Nat
deriving DecidableEq, Repr

/-- A gutter: the half of the array (0 low or full, 1 high), and its column. -/
structure GutterPort where
  half   : Nat
  column : Nat
deriving DecidableEq, Repr

/-- The requests that meet the gutters' at the banks of a bay's Lath in one core cycle, as byte addresses, each
requester's own in its order (10 R262 to R264). -/
structure LathAsks where
  station : List Nat
  feed    : List Nat
  fill    : List Nat
  purlin  : List Nat
deriving DecidableEq, Repr

/-- What a pass of an ATTN task forms (08 R195, R202, R206, R218). -/
inductive AttnStep where
  | score
  | value
  | final
  | dP
  | dV
  | dQ
  | dK
deriving DecidableEq, Repr

/-- What a pass of an ATTN task is: its step, the query row or group that it begins with, its key block, and the rows
that it streams where the firmware chooses them. -/
structure AttnPass where
  step  : AttnStep
  first : Nat
  blk   : Nat
  rows  : Nat
deriving DecidableEq, Repr

/-- A pass offered to a Truss (05 R126): what the firmware starts, and the cycles, counted from the bay's reset, at
which the fetch engine, the stationary path and the Lath banks do their parts. -/
structure PassArgs where
  bay        : PBay
  /-- 0 low half, 1 high half, 2 full array (05 R136). -/
  half       : Nat
  /-- ATTN: what the pass forms. -/
  step       : AttnStep
  /-- Score and dP passes: the first query row it streams; other passes of ATTN: the query group; element-wise steps: the
  first of its groups of 128 elements (05 R143, 08 R195). -/
  first      : Nat
  /-- ATTN: the key block. -/
  blk        : Nat
  /-- Output rows that a score or dP pass, or an element-wise step, streams (05 R121). -/
  rows       : Nat
  /-- Score, dP and value passes: the Lath address at which the firmware has their results drained (08 R195, R202). -/
  place      : Nat
  /-- First cycle in which the stationary path could write row 0 of the shadow bank (05 R128). -/
  loadFrom   : Nat
  /-- Cycles in which the stationary path writes no row, since other accesses hold its banks (05 R128). -/
  held       : List Nat
  /-- First cycle with row 0's first entry in its yealm (05 R126). -/
  entryReady : Nat
  /-- The passes of the bay, by number, whose results this one reads (05 R135). -/
  deps       : List Nat
  /-- Entries that reach their yealm later than they are due: array row of the pass, output row, and the first
  cycle in which it stands there (05 R132). -/
  late       : List (Nat × Nat × Nat)
  /-- Gutters whose Lath bank is taken by another in a cycle: gutter and cycle (05 R131). -/
  busy       : List (Nat × Nat)
  /-- Words of the bay's stores in which a single bit was corrected (10 R286). -/
  corrected  : Nat
deriving DecidableEq, Repr

/-- A message of the link layer: the header of 14 R385 and its data. -/
structure Msg where
  mtype   : Nat
  ctx     : Nat
  tag     : Nat
  dest    : Nat
  src     : Nat
  collseq : Nat
  offset  : Nat
  len     : Nat
  data    : List Byte
deriving DecidableEq, Repr

/-- When a beacon arrives, in units of 0.125 ns after the own boundary, and the time from the sender's boundary that it
carries in the same units (14 R401). -/
structure BeaconTime where
  arrived : Int
  carried : Nat
deriving DecidableEq, Repr

/-- What an identity exchange carries from the far end (14 R390). -/
structure Identity where
  /-- Coordinates in the layout of R385. -/
  coord : Nat
  port  : Nat
  /-- The four agreed feature words. -/
  feats : List Nat
  /-- Free buffer of each credit class: context pool, transit low, transit high. -/
  free  : List Nat
deriving DecidableEq, Repr

/-- Lanes of mesh and ligger links: die, link, whether it is the ligger's, lane (17 R453). -/
abbrev Lanes := List (Nat × Nat × Bool × Nat)

/-- The lanes that fail the test of a link training (17 R453). -/
structure MeshTest where
  failed : Lanes
deriving DecidableEq, Repr

/-- What the Flashing die finds at its pins when the input comes (18 R478, 19 R495, R503): the SLOTID contacts and the
current of the interlock loop. -/
structure PowerPins where
  slotId    : Nat
  microamps : Nat
deriving DecidableEq, Repr

/-- A rail that fails to come up (18 R478), and the pins, which a power-on has sampled by then. -/
structure RailFail where
  rail : Nat
  pins : PowerPins
deriving DecidableEq, Repr

/-- A value written to a register, and the one that the other path writes to the same register in the same cycle
(19 R501). -/
structure RegValue where
  value : BitVec 64
  other : Option (BitVec 64)
deriving DecidableEq, Repr

/-- A read of so many bytes of a register, and what the other path writes to it in the same cycle (19 R501). -/
structure RegRead where
  width : Nat
  other : Option (BitVec 64)
deriving DecidableEq, Repr

/-- What a start-up stage came to (16 R432, R433; 19 R506). -/
structure StageResult where
  ok      : Bool
  /-- ECODE when `ok` is false. -/
  ecode   : Nat
  /-- Stage 0x1: firmware slot 0 and slot 1 verify under 19 R505. -/
  slot0   : Bool
  slot1   : Bool
  /-- Stage 0x2: the training of the mesh and the ligger net. -/
  mesh    : MeshTest
deriving DecidableEq, Repr

/-- The monitor readings at an interval end (17 R466, R467, R472). -/
structure Readings where
  /-- Slack in ps of a physical bay at the planned clock and voltage. -/
  slack   : List (PBay × Int)
  /-- Slack in ps that one 5 mV step gives each die. -/
  gain    : List (Nat × Int)
  /-- Bias of a laser source unit: unit, and percentage of its end-of-life limit. -/
  laser   : List (Nat × Nat)
  /-- Worst receive power of a lane: port, lane, and tenths of a dBm. -/
  rx      : List (Nat × Nat × Int)
  /-- Eye of the worst pseudo-channel of a stack: stack, pseudo-channel, and width and height in percent of its factory
  width and height. -/
  eye     : List (Nat × Nat × Nat × Nat)
  /-- The two history copies were written. -/
  copy0   : Bool
  copy1   : Bool
deriving DecidableEq, Repr

/-- The commands: one constructor per row of the table of operations and events. -/
inductive Instr where
  | registerWrite (p : Path) (off width : Nat) (value : RegValue)
  | counterFieldWrite (p : Path) (off : Nat) (value : Word) (added : List Nat)
  | w1cClear (p : Path) (off : Nat) (value hwSet : Word)
  | courseLoRead (p : Path) (wide : Bool)
  | beaconOfsLoRead (p : Path) (wide : Bool)
  | clockSpreadWrite (p : Path) (value : Word)
  | apertureWrite (p : Path) (value : Word)
  | bar2Read (off len : Nat)
  | bar2Write (off : Nat) (data : List (Option Byte))
  | doorbell (off : Nat) (data : List (Option Byte))
  | pegCountWrite (p : Path) (peg : Nat) (value : Word) (ligger : Option PegMsg)
  | evtReadWrite (p : Path) (value : Word)
  | evtCreadWrite (p : Path) (value : Word)
  | evtRingEnable (p : Path) (cen : Bool)
  | evtRingDisable (p : Path) (cen : Bool)
  | evtCascadeEnable (p : Path) (en : Bool)
  | evtCascadeDisable (p : Path) (en : Bool)
  | eventRecord (src : Source)
  | eventBufferFlush
  | courseBoundary (deviant : List Nat)
  | taskOverrunAbort (b : Bay) (queue : Nat)
  | gemm (b : Bay) (member : Nat) (e : Sram)
  | conv (r : TaskRun)
  | dwconv (r : TaskRun)
  | attn (r : TaskRun)
  | elem (r : TaskRun)
  | sfu (r : TaskRun)
  | norm (r : TaskRun)
  | pool (r : TaskRun)
  | move (r : TaskRun)
  | kvappend (r : TaskRun)
  | allReduce (r : TaskRun)
  | reduceScatter (r : TaskRun)
  | allGather (r : TaskRun)
  | broadcast (r : TaskRun)
  | shiftForward (r : TaskRun)
  | shiftBackward (r : TaskRun)
  | pegSet (b : Bay)
  | pegAdd (b : Bay)
  | pegSub (b : Bay)
  | watchArrive (queue : Nat)
  | tieArrive (b : Bay)
  | tieReset (b : Bay)
  | mediaDecode (b : Bay)
  | mediaEncode (b : Bay)
  | mediaPreprocess (b : Bay)
  | taskComplete (b : Bay) (queue cycles past : Nat)
  | passStart (a : PassArgs)
  | gutterWrite (b : PBay) (port : GutterPort) (asks : LathAsks)
  | trussFault (b : PBay) (u : TrussUpset)
  | sparePrepared (die : Nat)
  | watchdogExpire (b : PBay)
  | swapComplete (r : TaskRun) (late : Nat)
  | beaconReceive (port count ridge : Nat) (time : BeaconTime)
  | beaconLock
  | beaconLost
  | arbiterGrant (blk : Nat) (ofTasks : List TaskAsk) (ofUnits : List UnitAsk)
  | quotaWindowEnd (blk : Nat)
  | slotBoundary
  | vlyCommit (p : Path) (blk : Nat) (same : Option (Nat × Word))
  | vlyShadowWrite (p : Path) (off : Nat) (value : Word)
  | vlyWaitmaxRead (p : Path) (blk : Nat)
  | bayWaitmaxRead (p : Path) (b : PBay)
  | undGroupWrite (p : Path) (die : Nat) (value : Word)
  | undCommit (p : Path) (die : Nat) (same : Option Word)
  | undStatRead (p : Path) (die : Nat)
  | loftRead (die addr sectors corrected : Nat) (bad : Option Nat)
  | underlayWrite (src : Source) (addr : Nat) (data : List (Option Byte))
  | underlayDrain (stack channel waited : Nat)
  | stackRead (src : Source) (addr : Nat) (ecc : Ecc)
  | refresh (stack : Nat)
  | refreshRateChange (stack degC : Nat)
  | jobStart (e : Eng) (slot : Nat)
  | pictureComplete (gable : Nat) (unit : EngKind × Nat) (slot : Nat)
  | liveDeadline (gable : Nat) (kind : EngKind) (idx slot : Nat)
  | decodeInputRecheck (e : Eng) (slot : Nat)
  | encodeRingSpace (gable : Nat) (unit : EngKind × Nat) (slot : Nat)
  | laneSpareRequest (port lane : Nat)
  | flitTransmit (port : Nat)
  | flitReceive (port : Nat) (flit : List Byte) (own others : List Nat)
  | nakReceive (port ack : Nat)
  | nullFlit (port : Nat)
  | voidedFlit (port seq : Nat)
  | piece (port : Nat) (m : Msg)
  | completion (port : Nat) (m : Msg)
  | streamWrite (port : Nat) (m : Msg)
  | streamCount (port : Nat) (m : Msg)
  | streamRead (port : Nat) (m : Msg)
  | eventMessage (port : Nat) (m : Msg)
  | transitForward (port : Nat) (m : Msg)
  | transitTimeout (port : Nat) (m : Msg)
  | portDark (port cause : Nat)
  | ackTimeout (port : Nat)
  | trainingStart (port lanes rtt : Nat)
  | identityExchange (port : Nat) (peer : Identity)
  | replayTimeout (port : Nat)
  | tagQuarantineEnd (port idx : Nat)
  | meshLaneMark (die link lane : Nat) (ligger : Bool)
  | fatalFault (die kind : Nat)
  | weatheringIntervalEnd (r : Readings)
  | bringupStageComplete (r : StageResult)
  | featAccWrite (p : Path) (word reg : Nat) (value : Word)
  | featureLock (p : Path) (same : Option (Nat × Word))
  | imageLoad (p : Path)
  | imageLoaded
  | imageUnload (p : Path)
  | imageUnloadComplete
  | powerOn (pins : PowerPins) (resetLow : Bool)
  | railTimeout (f : RailFail)
  | underVoltageShutoff
  | overVoltageShutoff
  | overPowerShutoff
  | powerExcursion (peak : Nat)
  | moduleReset (p : Path) (value : Word)
  | warmReset (p : Path) (value : Word)
  | warmResetComplete (mesh : MeshTest)
  | spanReset (p : Path) (value : Word)
  | spanResetComplete (span : Nat)
  | bayReset (p : Path) (value : Word)
  | resetPin (lowNs : Nat)
  | resetShortPulse (lowNs : Nat)
  | dormer1Request (p : Path)
  | dormer2Request (p : Path)
  | dormer3Request (p : Path)
  | dormerExit (p : Path)
  | operationDormer3Enter
  | operationDormer3Leave
  | clearFaults
  | statusWord
  | readVin (decivolts : Nat)
  | readIin (milliamps : Nat)
  | readVout (centivolts : Nat)
  | readTemperature1 (degC die : Nat)
  | readPout (watts : Nat)
  | readPin (watts : Nat)
  | pmbusRevision
  | flPinRead (p : Path) (watts peak : Nat)
  | eavCredRead (p : Path) (port : Nat)
  | setAccessPointer (offset : Nat) (pecOk : Bool)
  | readAtPointer (pecOk : Bool)
  | writeAtPointer (value : Word) (pecOk : Bool)
  | alertResponse
  | busClockTimeout (target : Nat)
  | interlockOpen (microamps : Nat)
  | interlockClose (microamps : Nat)
  | laserPresenceOpen (unit : Nat)
  | laserRelight (unit : Nat)
  | fwInstall (p : Path)
  | fwCommit (p : Path)
  | svcSet (p : Path) (key : Nat)
  | svcTry (p : Path) (key : Nat)
  | svcTryComplete
  | svcChallenge (p : Path) (key : Nat)
  | svcResponse (p : Path) (key : Nat)
  | svcClose (p : Path) (key : Nat)
  | registerRead (p : Path) (off : Nat) (r : RegRead)
  | laserPresenceClose (unit : Nat)
  | resetInputRelease
  | pcieHotReset
deriving DecidableEq, Repr

end Sys2Proof
end

