-- ==== Sys2Proof/WellFormed.lean ====
section
/-! DEFINITION. Well-formed commands: every operand lies in the range that the manual gives the thing it names. The
meanings are total and do not test it; an operand outside its range names nothing of the module (log entry 4). -/

namespace Sys2Proof

/-- Rafter dies are 0 to 23, and a die has logical bays 0 to 7 (00 R3, 01 R15). -/
def Bay.wf (b : Bay) : Bool := decide (b.die < 24 ∧ b.lbay < 8)

/-- Physical bays are 0 to 8 (00 R3). -/
def PBay.wf (b : PBay) : Bool := decide (b.die < 24 ∧ b.pbay ≤ 8)

/-- DIE and UNIT of an event source (02 R53). -/
def Source.wf (x : Source) : Bool := decide (x.die < 32 ∧ x.unit < 128)

/-- Two Gable dies, four engines of a kind, one pre-processor (13 R348). -/
def Eng.wf (e : Eng) : Bool :=
  decide (e.gable < 2) && (match e.kind with
    | .preprocess => decide (e.idx = 0)
    | _ => decide (e.idx < 4))

/-- A session slot of an engine (13 R348); a pre-processor has none. -/
def slotWf (e : Eng) (slot : Nat) : Bool :=
  e.wf && (match e.kind with
    | .preprocess => decide (slot = 0)
    | _ => decide (slot < 8))

/-- A port (14 R379). -/
def portWf (port : Nat) : Bool := decide (port < 32)

/-- A stack (01 R22). -/
def stackWf (stack : Nat) : Bool := decide (stack < 12)

/-- A BAR0 offset of 28 bits (19 R499). -/
def offWf (off : Nat) : Bool := decide (off < 2 ^ 28)

/-- The fields of a message header (14 R385). -/
def Msg.wf (m : Msg) : Bool :=
  decide (m.mtype < 16 ∧ m.ctx < 64 ∧ m.tag < 2 ^ 16 ∧ m.dest < 2 ^ 14 ∧ m.src < 2 ^ 14 ∧ m.collseq < 2 ^ 16 ∧
    m.offset < 2 ^ 32 ∧ m.len ≤ 16384)

/-- The mesh position of a die, as column and row of the floor map (01 R12); none for a number that is no die. -/
def meshPos (die : Nat) : Option (Nat × Nat) :=
  if die < 24 then some (1 + die % 6, 1 + die / 6)
  else match die with
    | 24 => some (0, 1)
    | 25 => some (0, 4)
    | 26 => some (7, 1)
    | 27 => some (7, 4)
    | 28 => some (0, 2)
    | 29 => some (7, 2)
    | 30 => some (0, 3)
    | 31 => some (7, 3)
    | _ => none

/-- The die at a place of the floor map (01 R12). -/
def dieAt (col row : Nat) : Option Nat := (List.range 32).find? fun d => decide (meshPos d = some (col, row))

/-- The die that a link of a die leads to: 0 north, 1 east, 2 south, 3 west (17 R473); each die links to the dies
directly beside it on the floor map (01 R12), and an edge die has no link outward. -/
def meshNeighbour (die link : Nat) : Option Nat :=
  match meshPos die with
  | none => none
  | some (c, r) =>
    match link with
    | 0 => dieAt c (r - 1)
    | 1 => dieAt (c + 1) r
    | 2 => dieAt c (r + 1)
    | 3 => if c = 0 then none else dieAt (c - 1) r
    | _ => none

/-- Requests at a Lath name bytes of it (10 R261). -/
def LathAsks.wf (q : LathAsks) : Bool :=
  (q.station ++ q.feed ++ q.fill ++ q.purlin).all fun a => decide (a < 2 ^ 22)

/-- Every operand of a command lies in its range. -/
def Instr.wf (i : Instr) : Bool :=
  match i with
  | .registerWrite _ off _ _ => offWf off
  | .counterFieldWrite _ off _ _ => offWf off
  | .w1cClear _ off _ _ => offWf off
  | .courseLoRead _ _ => true
  | .beaconOfsLoRead _ _ => true
  | .clockSpreadWrite _ _ => true
  | .apertureWrite _ _ => true
  | .bar2Read off len => decide (off + len ≤ 2 ^ 32)
  | .bar2Write off data => decide (off + data.length ≤ 2 ^ 32)
  | .doorbell off data => decide (off < 2 ^ 20 ∧ off % 0x40 + data.length ≤ 0x40)
  | .pegCountWrite _ peg _ m => decide (peg < 65536) && m.all fun x => decide (x.die < 32 ∧ x.ctx < 64)
  | .evtReadWrite _ _ => true
  | .evtCreadWrite _ _ => true
  | .evtRingEnable _ _ => true
  | .evtRingDisable _ _ => true
  | .evtCascadeEnable _ _ => true
  | .evtCascadeDisable _ _ => true
  | .eventRecord src => src.wf
  | .eventBufferFlush => true
  | .courseBoundary deviant => deviant.all fun d => decide (d < 32)
  | .taskOverrunAbort b queue => b.wf && decide (queue < 16384)
  | .gemm b _ _ => b.wf
  | .conv r => r.bay.wf
  | .dwconv r => r.bay.wf
  | .attn r => r.bay.wf
  | .elem r => r.bay.wf
  | .sfu r => r.bay.wf
  | .norm r => r.bay.wf
  | .pool r => r.bay.wf
  | .move r => r.bay.wf
  | .kvappend r => r.bay.wf
  | .allReduce r => r.bay.wf
  | .reduceScatter r => r.bay.wf
  | .allGather r => r.bay.wf
  | .broadcast r => r.bay.wf
  | .shiftForward r => r.bay.wf
  | .shiftBackward r => r.bay.wf
  | .pegSet b => b.wf
  | .pegAdd b => b.wf
  | .pegSub b => b.wf
  | .watchArrive queue => decide (queue < 16384)
  | .tieArrive b => b.wf
  | .tieReset b => b.wf
  | .mediaDecode b => b.wf
  | .mediaEncode b => b.wf
  | .mediaPreprocess b => b.wf
  | .taskComplete b queue _ _ => b.wf && decide (queue < 16384)
  | .passStart a => a.bay.wf && decide (a.half < 3)
  | .gutterWrite b port asks => b.wf && decide (port.half < 2 ∧ port.column < 128) && asks.wf
  | .trussFault b u => b.wf && decide (u.half < 3)
  | .sparePrepared die => decide (die < 24)
  | .watchdogExpire b => b.wf
  | .swapComplete r _ => r.bay.wf
  | .beaconReceive port count ridge _ => portWf port && decide (count < 2 ^ 48 ∧ ridge < 2 ^ 48)
  | .beaconLock => true
  | .beaconLost => true
  | .arbiterGrant blk ofTasks ofUnits => offWf blk && 
      (ofTasks.all fun a => a.bay.wf && decide (a.input < 16 ∧ a.queue < 16384)) &&
      ofUnits.all fun a => decide (a.input < 16) && (a.session.all fun x => slotWf x.1 x.2)
  | .quotaWindowEnd blk => offWf blk
  | .slotBoundary => true
  | .vlyCommit _ blk same => offWf blk && same.all fun x => decide (x.1 < 512)
  | .vlyShadowWrite _ off _ => offWf off
  | .vlyWaitmaxRead _ blk => offWf blk
  | .bayWaitmaxRead _ b => b.wf
  | .undGroupWrite _ die _ => decide (die < 24)
  | .undCommit _ die _ => decide (die < 24)
  | .undStatRead _ die => decide (die < 24)
  | .loftRead die addr sectors _ _ => decide (die < 24 ∧ addr < 2 ^ 40 ∧ sectors < 16)
  | .underlayWrite src addr _ => src.wf && decide (addr < 2 ^ 40)
  | .underlayDrain stack channel _ => stackWf stack && decide (channel < 64)
  | .stackRead src addr _ => src.wf && decide (addr < 2 ^ 40)
  | .refresh stack => stackWf stack
  | .refreshRateChange stack degC => stackWf stack && decide (degC < 256)
  | .jobStart e slot => slotWf e slot
  | .pictureComplete gable unit slot => slotWf ⟨gable, unit.1, unit.2⟩ slot
  | .liveDeadline gable kind idx slot => slotWf ⟨gable, kind, idx⟩ slot && decide (kind = .decode)
  | .decodeInputRecheck e slot => slotWf e slot && decide (e.kind = .decode)
  | .encodeRingSpace gable unit slot => slotWf ⟨gable, unit.1, unit.2⟩ slot && decide (unit.1 = .encode)
  | .laneSpareRequest port lane => portWf port && decide (lane < 9)
  | .flitTransmit port => portWf port
  | .flitReceive port flit _ _ => portWf port && decide (flit.length = 256)
  | .nakReceive port ack => portWf port && decide (ack < 4096)
  | .nullFlit port => portWf port
  | .voidedFlit port seq => portWf port && decide (seq < 4096)
  | .piece port m => portWf port && m.wf
  | .completion port m => portWf port && m.wf
  | .streamWrite port m => decide (port = 30 ∨ port = 31) && m.wf
  | .streamCount port m => decide (port = 30 ∨ port = 31) && m.wf
  | .streamRead port m => decide (port = 30 ∨ port = 31) && m.wf
  | .eventMessage port m => portWf port && m.wf
  | .transitForward port m => portWf port && m.wf
  | .transitTimeout port m => portWf port && m.wf
  | .portDark port cause => portWf port && decide (cause < 3)
  | .ackTimeout port => portWf port
  | .trainingStart port lanes rtt => portWf port && decide (lanes < 512 ∧ rtt < 2 ^ 16)
  | .identityExchange port peer => portWf port && decide (peer.feats.length = 4 ∧ peer.free.length = 3)
  | .replayTimeout port => portWf port
  | .tagQuarantineEnd port idx => portWf port && decide (idx < 4096)
  | .meshLaneMark die link _ _ => (meshNeighbour die link).isSome
  | .fatalFault die kind => decide (die < 32 ∧ kind < 3)
  | .weatheringIntervalEnd _ => true
  | .bringupStageComplete r => decide (r.ok = true ∨ (1 ≤ r.ecode ∧ r.ecode ≤ 6))
  | .featAccWrite _ word reg _ => decide (word < 4 ∧ reg < 4)
  | .featureLock _ same => same.all fun x => decide (x.1 < 16)
  | .imageLoad _ => true
  | .imageLoaded => true
  | .imageUnload _ => true
  | .imageUnloadComplete => true
  | .powerOn pins _ => decide (pins.slotId < 64)
  | .railTimeout f => decide (1 ≤ f.rail ∧ f.rail ≤ 6 ∧ f.pins.slotId < 64)
  | .underVoltageShutoff => true
  | .overVoltageShutoff => true
  | .overPowerShutoff => true
  | .powerExcursion _ => true
  | .moduleReset _ value => decide (value.toNat % 16 = 1)
  | .warmReset _ value => decide (value.toNat % 16 = 2)
  | .warmResetComplete _ => true
  | .spanReset _ value => decide (value.toNat % 16 = 4)
  | .spanResetComplete span => decide (span < 32)
  | .bayReset _ value => decide (value.toNat % 16 = 8)
  | .resetPin lowNs => decide (1000 ≤ lowNs)
  | .resetShortPulse lowNs => decide (50 ≤ lowNs ∧ lowNs < 1000)
  | .dormer1Request _ => true
  | .dormer2Request _ => true
  | .dormer3Request _ => true
  | .dormerExit _ => true
  | .operationDormer3Enter => true
  | .operationDormer3Leave => true
  | .clearFaults => true
  | .statusWord => true
  | .readVin _ => true
  | .readIin _ => true
  | .readVout _ => true
  | .readTemperature1 degC die => decide (degC < 256 ∧ die < 32)
  | .readPout _ => true
  | .readPin _ => true
  | .pmbusRevision => true
  | .flPinRead _ watts peak => decide (watts < 2 ^ 16 ∧ peak < 2 ^ 16)
  | .eavCredRead _ port => portWf port
  | .setAccessPointer _ _ => true
  | .readAtPointer _ => true
  | .writeAtPointer _ _ => true
  | .alertResponse => true
  | .busClockTimeout target => decide (target < 2)
  | .interlockOpen microamps => decide (microamps ≤ 1000)
  | .interlockClose microamps => decide (3000 ≤ microamps)
  | .laserPresenceOpen unit => decide (unit < 4)
  | .laserRelight unit => decide (unit < 4)
  | .fwInstall _ => true
  | .fwCommit _ => true
  | .svcSet _ key => decide (key < 256)
  | .svcTry _ key => decide (key < 256)
  | .svcTryComplete => true
  | .svcChallenge _ key => decide (key < 256)
  | .svcResponse _ key => decide (key < 256)
  | .svcClose _ key => decide (key < 256)
  | .registerRead _ off _ => offWf off
  | .laserPresenceClose unit => decide (unit < 4)
  | .resetInputRelease => true
  | .pcieHotReset => true

end Sys2Proof
end

