-- ==== Sys2Proof/Decode.lean ====
section
/-! DEFINITION. The table of commands gives no row a word of bits: no word spells a command. -/

namespace Sys2Proof

/-- The command that a table word spells: none, since no row of the table has bits (log entry 5). -/
def decodeTableWord (_nbits _w : Nat) : Option Instr := none

end Sys2Proof
end

