-- ==== Sys2Proof/Config.lean ====
section
/-! DEFINITION. What an implementation fixes and the manual leaves open: constants with no body, so
that nothing can be proved of their values. Each is named in notes/assumptions. -/

namespace Sys2Proof.Config

/-- A fresh open value: the n-th one taken (State.free counts them). Log entry 11. -/
opaque freeValue : Nat → Nat

/-- The coefficients c0, c1 and c2 of the segments of the built-in shingle tables, by function code, segment and
index, in units of 2^-96 (06 R149 to R151). Tables that break a rule of 06 R150 to R155 are not used
(Machine/Shingle.lean). Log entry 12. -/
opaque shingle : Nat → Nat → Nat → Int

/-- Bits that the Purlin unit carries beyond the 32 of a segment offset and the 40 of a significand, which 06 R149
gives as the least. Log entry 12. -/
opaque sfuExtraBits : Nat

/-- The Tally64 exponential, by the Tally64 code of its argument (06 R162). A function that breaks 06 R162 is not
used (Machine/Shingle.lean). Log entry 13. -/
opaque expTable : Nat → Nat

/-- The INT32 accumulator from which an INT8 convolution with a bias starts, by the bias's FP32 code: the
manual widens a bias to FP32 only (07 R178). Log entry 40. -/
opaque intBias : Nat → Nat

/-- The FP32 code of a pad value of an FP32 input, whose 16 bits the manual does not widen (07 R172). Log
entry 41. -/
opaque padValue32 : Nat → Nat

/-- The four reserved bytes of a partial record (09 R251), to which the manual gives no value. Log entry
45. -/
opaque partialPad : Nat

/-- FP32 coefficients of the pre-processor's built-in 8-tap filter, by phase and tap (13 R364).
Log entry 26. -/
opaque filterTap : Nat → Nat → Nat

/-- Tools and extensions of a coded picture on which 13 R357 has something to say. -/
inductive CodecTool where
  | otherRangeExtension    -- HEVC range-extension profiles that are not listed
  | extendedPrecision      -- extended_precision_processing_flag
  | multilayer             -- HEVC multilayer extensions
  | screenContent          -- HEVC SCC extensions
  | largeScaleTile         -- AV1
  | intraBlockCopy         -- AV1
  | palette                -- AV1
  | superResolution        -- AV1
deriving DecidableEq, Repr

/-- What the headers of a coded picture say (13 R359): the items of 13 R357, whether the picture is an IRAP picture or
key frame, or a RASL picture, its film-grain parameters when it is shown with some, its number in output order from the
first picture that is put out, its base_q_idx (AV1), and the codec's state after them. -/
structure Headers where
  profile : Nat
  level   : Nat
  chroma  : Nat
  depth   : Nat
  width   : Nat
  height  : Nat
  /-- Luma samples on a side of a CTB or superblock. -/
  block   : Nat
  /-- Those of its tools and extensions that 13 R357 names. -/
  tools   : List CodecTool
  rap     : Bool
  rasl    : Bool
  grain   : Option (List Byte)
  order   : Nat
  qp      : Nat
  error   : Bool
  codec   : List Nat
deriving DecidableEq, Repr, Inhabited

/-- What decoding a picture gives: a syntax or semantic error, the pictures it references, by their place among the
session's pictures in decoding order, its mean QP (HEVC), the samples of each plane, rows of columns, and the codec's
state after it. -/
structure Decoded where
  error  : Bool
  refs   : List Nat
  qp     : Nat
  planes : List (List Nat)
  codec  : List Nat
deriving DecidableEq, Repr, Inhabited

/-- What coding a picture gives: its entropy-coded data, its QP, and the codec's state after it. -/
structure Encoded where
  payload : List Byte
  qp      : Nat
  codec   : List Nat
deriving DecidableEq, Repr, Inhabited

/-- The codecs of HEVC and AV1 (13 R357, R359), which the manual does not teach: functions of the session's parameter
block, of the codec's state (reference pictures, entropy state and rate control; empty at OPEN) and of the input,
and of nothing else (13 R377). Log entry 15. Bytes that end with the last one needed to see that a picture's NAL units
or OBUs are complete: the bytes of that picture; none for others. -/
opaque pictureEnd : List Byte → List Nat → List Byte → Option Nat

/-- Bytes that end with the last one needed to see the start of a picture, an HEVC access unit delimiter or first slice,
an AV1 temporal delimiter (13 R375): the bytes before that start; none for others. Log entry 15. -/
opaque pictureStart : List Byte → List Nat → List Byte → Option Nat

/-- From the beginning of a picture, bytes that end with the last one of its first slice segment header, or of its AV1
temporal delimiter: the bytes up to there; none for others. Log entry 15. -/
opaque pictureBody : List Byte → List Nat → List Byte → Option Nat

/-- How many bytes at the end of some that hold no whole start of a picture may belong to one. Log entry 15. -/
opaque startHeld : List Byte → List Nat → List Byte → Nat

/-- From the beginning of a picture, bytes that end with the last one of the headers before its coded data: the bytes up
to there; none for others. Log entry 15. -/
opaque headersEnd : List Byte → List Nat → List Byte → Option Nat

/-- Parses the headers of a picture's bytes. Log entry 15. -/
opaque readHeaders : List Byte → List Nat → List Byte → Headers

/-- Decodes a picture's bytes after its headers. Log entry 15. -/
opaque decodeCoded : List Byte → List Nat → List Byte → Decoded

/-- The codec's state with planes as the reference picture in place of a lost one (13 R375). Log entry 15. -/
opaque concealRef : List Byte → List Nat → List (List Nat) → List Nat

/-- The film-grain synthesis process of the AV1 specification: parameters, planes (13 R360). Log entry 15. -/
opaque filmGrain : List Byte → List Byte → List (List Nat) → List (List Nat)

/-- The film-grain parameters that the firmware fits (13 R362), by their names in the AV1 specification: the points of the
scaling functions, the coefficients in the order of the syntax, and the multipliers of the chroma planes. -/
structure GrainFit where
  pointsY      : List (Nat × Nat)
  fromLuma     : Bool
  pointsCb     : List (Nat × Nat)
  pointsCr     : List (Nat × Nat)
  scalingShift : Nat
  coeffsY      : List Nat
  coeffsCb     : List Nat
  coeffsCr     : List Nat
  coeffShift   : Nat
  grainShift   : Nat
  multCb       : Nat × Nat × Nat
  multCr       : Nat × Nat × Nat
  overlap      : Bool
  clip         : Bool
deriving DecidableEq, Repr, Inhabited

/-- The fit, for an ar_coeff_lag: the counts, sums and sums of squares of each luma and chroma bin, and the
autocorrelations (13 R362). Log entry 15. -/
opaque grainFit : Nat → List (List (Nat × Int × Int)) → List (List Int) → GrainFit

/-- The tools of a coded picture (13 R352, R357). -/
structure Tools where
  av1      : Bool
  profile  : Nat
  level    : Nat
  tier     : Nat
  chroma   : Nat
  depth    : Nat
  /-- Luma samples on a side of a CTB or superblock. -/
  block    : Nat
  /-- References a picture may have. -/
  refs     : Nat
  /-- Depth of the hierarchy of B pictures or alternate references. -/
  bframes  : Nat
  /-- Every CU bypasses transform and quantisation, or base_q_idx and all deltas are 0. -/
  lossless : Bool
  /-- Intra block copy, palette and super-resolution. -/
  extra    : List CodecTool
  intra    : Bool
  /-- HEVC an IDR picture, AV1 a shown key frame: the first after OPEN (13 R372). -/
  first    : Bool
  /-- An Annex B byte stream, or else a low-overhead OBU stream. -/
  annexB   : Bool
  /-- HEVC QP or AV1 base_q_idx from which the picture is coded. -/
  qp       : Nat
deriving DecidableEq, Repr, Inhabited

/-- The QP of rate control: mode 1 CBR or 2 VBR, its initial QP, its target in kb/s, the codec's state, and the
picture's samples. Log entry 15. -/
opaque rateQp : Nat → Nat → Nat → List Nat → List (List Nat) → Nat

/-- Codes the samples of a picture with the tools given. Log entry 15. -/
opaque encodeCoded : Tools → List Nat → List (List Nat) → Encoded

/-- Writes the headers and the packaging of a coded picture: its tools, picture size and frame rate, its film-grain
parameters, and its entropy-coded data. Log entry 15. -/
opaque packPicture : Tools → Nat × Nat → Nat × Nat → List Nat → Option (List Byte) → List Byte → List Byte

/-- The payload of a control flit: 0 a request for the spare lane with its lane, 1 an identity exchange with the
module's coordinates, the port, the four feature words and the free buffer of each class, 2 a beacon with the sender's
course count, the ridge count and the time to its slot (14 R382, R390, R401 give no layout). Log entries 29, 123. -/
opaque controlPayload : Nat → List Nat → List Byte

/-- The flits of PCI Express 6.0 on the host ports (14 R413), whose layout the manual leaves to the standard: the TLP bytes
of a flit, for a fresh open value; the 250 bytes before the FEC bytes of the flit with a sequence number that
acknowledges another, asks or does not ask for all after it, and carries TLP bytes; and of the 250 bytes of an arriving
flit, whether they pass the CRC, its own sequence number, if it is sequenced, and what it acknowledges: a sequence
number, and whether all after it are asked for again. Log entry 142. -/
opaque hostTlps : Nat → List Byte
opaque hostFlit : Nat → Nat → Bool → List Byte → List Byte
opaque hostFlitGood : List Byte → Bool
opaque hostFlitSeq : List Byte → Option Nat
opaque hostFlitAck : List Byte → Option (Nat × Bool)

/-- The micro-batch count M of a Thatch image, and the virtual stages that it puts on its module, ascending: 15 R424 judges
them, and no section of 16 R441 has a field for them (log entry 99). -/
opaque microBatches : List Byte → Nat
opaque moduleStages : List Byte → List Nat

/-- The SHA-384 hash of a password under the device's fused salt (19 R509). Log entry 16. -/
opaque passwordHash : List Byte → Nat

/-- A 96-byte signature verifies over a challenge against the fused Grenso service key (19 R511).
Log entry 16. -/
opaque responseValid : List Byte → List Byte → Bool

/-- The security version of a firmware image whose signature verifies under 19 R505, by the bytes
from its module address on; none when it does not verify. Log entry 16. -/
opaque firmwareVersion : List Byte → Option Nat

/-- The fused device identity, 16 bytes (19 R511). Log entry 16. -/
opaque deviceIdentity : Nat

/-- The revision byte that PMBUS_REVISION returns (18 R493 names the command alone). Log entry 53. -/
opaque pmbusRevision : Nat

/-- The bytes of a firmware image that the boot ROM reads (19 R507 gives no length). Log entry 16. -/
opaque firmwareLength : Nat

end Sys2Proof.Config
end

