-- ==== Sys2Proof/Machine/State.lean ====
section
/-! DEFINITION. The state of the block as plain data: the register file, the stores, the engines'
own records, and the queue of waiting commands; and its value at power-on reset. -/

namespace Sys2Proof.Machine

/-- An event record of 02 R53 before it is laid out in 16 bytes. -/
structure EventRec where
  src    : Source
  seq    : Nat
  course : Nat
  cls    : Nat
  num    : Nat
  detail : Nat
deriving DecidableEq, Repr

/-- A context of a Thatch image (12 R323). -/
structure Context where
  pegBase  : Nat
  pegCount : Nat
  tieBase  : Nat
  tieCount : Nat
  span     : Nat
  lathSave : Nat
  lathLoad : Nat
  saveBase : Nat
  preBase  : Nat
  credits  : List Nat
deriving DecidableEq, Repr

/-- A queue entry of a Thatch image (16 R442). -/
structure QueueEntry where
  ring    : Nat
  log2    : Nat
  /-- CLASS 1: best-effort. -/
  be      : Bool
  prio    : Nat
  ctx     : Nat
  span    : Nat
  arith   : Nat
  headRep : Nat
  slot    : Option Nat
deriving DecidableEq, Repr

/-- A plan record of a Thatch image (16 R443). -/
structure Plan where
  opcode : Nat
  die    : Nat
  bays   : Nat
  forms  : Nat
  budget : Nat
  pair   : Option Nat
  /-- MAX1 to MAX6. -/
  maxs   : List Nat
  /-- CONV output tiles: depth, rows, columns. -/
  tiles  : List (Nat × Nat × Nat)
  be     : Bool
deriving DecidableEq, Repr

/-- A tie of a Thatch image (11 R315). -/
structure TieEntry where
  tie     : Nat
  members : Nat
  relpeg  : Nat
deriving DecidableEq, Repr

/-- A range of the MEMORY section (16 R441). -/
structure MemRange where
  /-- 0 keep window, 1 save, 2 preload, 3 ring, 4 task operand, 5 KV page, 6 stream window, 7 event ring. -/
  kind  : Nat
  base  : Nat
  limit : Nat
  ctx   : Nat
deriving DecidableEq, Repr

/-- A media session listed by a Thatch image (13 R353). -/
structure SessionEntry where
  eng   : Eng
  slot  : Nat
  ctx   : Nat
  block : List Byte
deriving DecidableEq, Repr

/-- A stream window of port 30 or 31 (14 R417). -/
structure StreamWindow where
  port  : Nat
  base  : Nat
  limit : Nat
  ctx   : Nat
deriving DecidableEq, Repr

/-- The CASCADE section (16 R441): KP_COORD, KP_CUT, beacon ports, ports in use, stream windows. -/
structure Cascade where
  coord    : Nat
  cut      : Nat
  upPort   : Nat
  downMask : Nat
  useMask  : Nat
  windows  : List StreamWindow
deriving DecidableEq, Repr

/-- The tables of a Thatch image, of which the Kingpost holds a copy (16 R440 to R443, 18 R483). -/
structure Image where
  excl     : Bool
  reqFeat  : List Nat
  contexts : List Context
  spans    : List Nat
  queues   : List QueueEntry
  plans    : List Plan
  /-- Initial ring contents: queue and its descriptors of 128 bytes. -/
  descs    : List (Nat × List (List Byte))
  frame    : Nat
  /-- Course in the frame and plan record. -/
  courses  : List (Nat × Nat)
  pegs     : List (Nat × Nat)
  ties     : List TieEntry
  /-- Arbiter block base and its RWS words: offset in the block and value. -/
  arbs     : List (Nat × List (Nat × Nat))
  ranges   : List MemRange
  /-- Custom shingle tables by slot (06 R157). -/
  tables   : List (Nat × List Byte)
  streams  : List (Nat × List Byte)
  sessions : List SessionEntry
  cascade  : Option Cascade
  swapMax  : Nat
  beq      : Nat
  lcHold   : Nat
  /-- UND_GROUP values: one for all controllers, or one for each in ascending die number. -/
  und      : List Nat
deriving DecidableEq, Repr

/-- A task as the bay sequencer reads it when it selects it (09 R224). -/
structure Task where
  queue : Nat
  /-- HEAD of its queue when its descriptor was read: its place in the ring. -/
  pos   : Nat
  /-- The 128 descriptor bytes. -/
  desc  : List Byte
  /-- The backward record of an ATTN task (09 R224, R252). -/
  bwd   : List Byte
  /-- Wait count of 12 R330. -/
  wait  : Nat
  /-- It was selected as its bay's guarded task (12 R328, R330). -/
  guard : Bool := false
  /-- What it performs outside the bay took effect before it was aborted (17 R463). -/
  acted : Bool := false
  /-- COLLSEQ of the run that was aborted, which its re-run carries too (15 R428). -/
  coll  : Option Nat := none
deriving DecidableEq, Repr

/-- Where an output of a task goes. -/
inductive Space where
  | mem                  -- module memory
  | lath (b : PBay)      -- a bay's Lath
deriving DecidableEq, Repr

/-- One output element (or block) a task has formed and not yet written. -/
structure OutWrite where
  /-- The bay that forms it. -/
  bay     : PBay
  /-- The gutters whose entries it waits for: one for an element, those of its columns for a block; none for a
  result of the Purlin unit (05 R130, R131). -/
  gutters : List Nat
  /-- The gutter entry it belongs to: output row, and first column of its tile (05 R130). -/
  entry   : Nat × Nat
  space   : Space
  addr    : Nat
  data    : List (Option Byte)
deriving DecidableEq, Repr

/-- A piece held in the context pool (14 R411), or kept for the re-run of a task that had taken it: its buffer is then
returned and its completion sent. -/
structure Held where
  port  : Nat
  msg   : Msg
  spent : Bool
deriving DecidableEq, Repr

/-- A task that has started on a bay and has not completed. -/
structure Running where
  task    : Task
  /-- 0 low half, 1 high half, 2 the whole bay (05 R137). -/
  half    : Nat
  /-- The course in which it started. -/
  course  : Nat
  /-- Outputs formed and not yet written. -/
  outs    : List OutWrite
  /-- RANGE, EMPTY, SUMSAT, VARNEG, QFULL and SFLAGS of its completion status (09 R226). -/
  flags   : Nat
  /-- IEEE flags by the bay that raised them (04 R116). -/
  sflags  : List (PBay × Nat)
  /-- Set when it ran past a boundary (02 R43). -/
  slipped : Bool
  /-- Set while a REDUCE still waits for pieces (14 R411). -/
  waiting : Bool
  /-- Progress: pieces of its own that a SCOPE 0x2 REDUCE has sent (14 R411); 1 once the operation of a
  PEG, TIE or MEDIA task has been performed. -/
  phase   : Nat
  /-- Pieces that a SCOPE 0x2 REDUCE has taken for its result (14 R410). -/
  got     : Nat
  /-- Transfers it started: port and tag (12 R341). -/
  tags    : List (Nat × Nat)
  /-- An output range overlaps an input range, page-table ranges included, as found when it started
  (17 R462). -/
  overlaps : Bool
  /-- COLLSEQ of a SCOPE 0x2 REDUCE, once it has one (14 R412). -/
  coll    : Option Nat
  /-- The pieces that a SCOPE 0x2 REDUCE has taken (15 R428). -/
  taken   : List Held := []
  /-- ATTN: the pages of its key blocks, keys and values, as it read their entries when it started (08 R212). -/
  pages   : List Nat × List Nat := ([], [])
deriving DecidableEq, Repr

/-- A context swap on a bay (12 R334). -/
structure Swap where
  out     : Option Nat
  into    : Nat
  /-- Boundaries passed while it runs (12 R335). -/
  overrun : Bool
  done    : Bool
deriving DecidableEq, Repr

/-- A pass in the array (05 R125 to R135). -/
structure Pass where
  /-- Its number among the passes that the bay has started. -/
  num      : Nat
  /-- Array rows it uses: 128, or 64 in a half (05 R136). -/
  depth    : Nat
  /-- Output rows it streams. -/
  rows     : Nat
  /-- Logical columns of a physical column (05 R120). -/
  l        : Nat
  /-- Core cycles for each step of the array: 2 under TALLY (05 R124). -/
  pace     : Nat
  /-- Operand class of BAY_TRUSS.CLASS: 0 16-bit, 1 8-bit, 2 4-bit, 3 element-wise (05 R145). -/
  cls      : Nat
  tally    : Bool
  /-- The pass is of its tile's last K-tile, whose accumulators leave for the gutters (05 R121). -/
  final    : Bool
  /-- Cycle in which it started. -/
  begun    : Nat
  /-- Cycles since then in which the array was not frozen (05 R133). -/
  prog     : Nat
  /-- Cycle in which its last entry left row 0. -/
  left     : Option Nat
  /-- Cycles in which its rows switched to its stationary bank, ascending from row 0 (05 R129). -/
  switches : List Nat
  /-- Cycle in which its last output row is complete (05 R134). -/
  done     : Option Nat
  /-- Entries that reach their yealm late: array row, output row, and the cycle from which it stands there. -/
  late     : List (Nat × Nat × Nat)
  /-- Gutters whose Lath bank is taken in a cycle (05 R131). -/
  busy     : List (Nat × Nat)
  /-- The gutter entry of its first output row. -/
  entry    : Nat × Nat
  /-- Its stationary operand by array row, 16 bits a cell (05 R119, R120). -/
  bank     : List (List Nat)
  /-- The stationary block scales by slate and logical column, loaded with row 32s (05 R120). -/
  scales   : List (List Nat)
  /-- The accumulators that it leaves, by output row and logical column (05 R121). -/
  sums     : List (List Nat)
deriving DecidableEq, Repr

/-- An entry of a gutter (05 R130): the pass that it comes from, its output row, and the first column of its tile.
Its values stand with the task, in `Running.outs`. -/
structure GEntry where
  num : Nat
  /-- Core cycles for each step of its pass: 2 under TALLY (05 R124). -/
  pace : Nat
  row : Nat
  col : Nat
deriving DecidableEq, Repr

/-- What one half of a Truss holds; the full array uses the low one (05 R136). -/
structure TrussHalf where
  /-- The passes in it, oldest first, with the latest one kept after it is done. -/
  passes  : List Pass
  /-- The entries of each of the 128 gutters, oldest first (05 R130). -/
  gutters : List (List GEntry)
  /-- K-tiles of the present output tile that have been passed (05 R121). -/
  ktile   : Nat
  /-- Passes begun for the running task (09 R240). -/
  begun   : Nat
  /-- The passes of an ATTN task that it has begun, one for each K-tile (08 R195, R218). -/
  walk    : List AttnPass
  /-- Sectors that the head entries of the gutters have been granted and have still to be written with: column and
  sector (05 R131, 10 R263). -/
  granted : List (Nat × Nat)
  /-- The stationary bank, its scales and the accumulators as the passes that are gone left them; `TrussHalf.live`,
  `TrussHalf.shadow` and `TrussHalf.acc` are what the array holds (05 R119 to R121, R129). -/
  bank    : List (List Nat)
  scales  : List (List Nat)
  accs    : List (List Nat)
deriving DecidableEq, Repr

/-- The Truss of a bay. -/
structure Truss where
  /-- The cycle that the array has reached, counted from the bay's reset. -/
  cycle : Nat
  /-- Passes that the bay has started. -/
  count : Nat
  /-- For a pass whose results have all been written: the cycle from which the last of them is readable in the Lath
  (05 R131). -/
  ends  : List (Nat × Nat)
  low   : TrussHalf
  high  : TrussHalf
deriving DecidableEq, Repr

/-- An aborted task (17 R461, R462): its cause, whether its ranges overlap, and for its status the bay that ran it and
whether it had slipped (09 R226). -/
structure Abort where
  task     : Task
  cause    : Nat
  overlaps : Bool
  ran      : PBay
  slipped  : Bool
deriving DecidableEq, Repr

/-- What a physical bay holds besides its registers and its Lath. -/
structure BayState where
  selected : List Task
  running  : List Running
  swap     : Option Swap
  /-- Cause of 17 R455 once the bay is found faulty, with the logical bay it served. -/
  faulty   : Option (Nat × Nat)
  /-- Aborted tasks waiting to return to their queues (17 R461, R462). -/
  aborted  : List Abort
  truss    : Truss
  /-- The requester that lost the last contest of slot P: true the Purlin unit (10 R264). -/
  purlinLost : Bool
  /-- Stale 64 KiB granules of the Lath (17 R460). -/
  stale    : List Nat
  /-- The bay is powered down after isolation (17 R458). -/
  off      : Bool
deriving DecidableEq, Repr

/-- Run-time state of a work queue (11 R317 to R320, 12 R326, R330). -/
structure QueueState where
  head     : Nat
  tail     : Nat
  /-- Tasks returned ahead of the ring, in order: aborted ones for their re-run, and selected ones
  that never started (17 R461). -/
  rerun    : List Task
  wait     : Nat
  /-- The task waits for a watch and the shortage has been recorded (11 R312). -/
  short    : Bool
deriving DecidableEq, Repr

/-- A watch of a bay sequencer (11 R311). -/
structure Watch where
  bay     : Bay
  queue   : Nat
  peg     : Nat
  thresh  : Nat
  ctx     : Nat
  /-- The watch has arrived at the peg unit. -/
  arrived : Bool
  woken   : Bool
deriving DecidableEq, Repr

/-- An Underlay entry: a 128-byte line, its mask and bytes (10 R277). -/
structure UEntry where
  line : Nat
  data : List (Option Byte)
deriving DecidableEq, Repr

/-- A Loft line (10 R265). -/
structure LoftLine where
  set     : Nat
  way     : Nat
  tag     : Nat
  /-- The four sectors: none invalid, else its 32 bytes. -/
  sectors : List (Option (List Byte))
deriving DecidableEq, Repr

/-- What an arbiter block counts (11 R296, R297). -/
structure ArbState where
  /-- Grants of each of the 32 lanes in the window. -/
  grants   : List Nat
  /-- Grant opportunities used of the window. -/
  pos      : Nat
  /-- The pointer of each level, 0 to 3. -/
  pointers : List Nat
  /-- Opportunities each lane has waited. -/
  waits    : List Nat
  /-- The lane whose transfer unit is on the resource (11 R303). -/
  holder   : Option Nat
deriving DecidableEq, Repr

/-- A flit of 14 R384 in a retry buffer or waiting to be sent. -/
structure Flit where
  seq     : Nat
  typ     : Nat
  /-- The work queue whose task sent it, if a task did. -/
  queue   : Option Nat
  payload : List Byte
deriving DecidableEq, Repr

/-- Bytes of a message that wait on a port, to be packed into flits (14 R384). -/
structure Wait where
  typ   : Nat
  /-- The work queue whose task sends it, if a task does. -/
  queue : Option Nat
  bytes : List Byte
  /-- A message in transit, and the port on which it arrived (14 R400). -/
  via   : Option (Nat × Msg)
deriving DecidableEq, Repr

/-- An index of a port's tag table (14 R404 to R406). -/
structure TagEntry where
  epoch  : Nat
  /-- The work queue of the live transfer. -/
  live   : Option Nat
  /-- Course before which the index is not allocated again. -/
  until_ : Nat
deriving DecidableEq, Repr

/-- A flit in a receiving buffer (14 R395): its number, its credit class, and the bytes in it that have not left. -/
structure InFlit where
  no   : Nat
  cls  : Nat
  left : Nat
deriving DecidableEq, Repr

/-- A message in a receiving buffer: its bytes, and how many of them each flit holds. -/
structure InMsg where
  bytes : List Byte
  parts : List (Nat × Nat)
deriving DecidableEq, Repr

/-- What a port holds besides its registers (14). -/
structure Port where
  nextSeq : Nat
  expect  : Nat
  unacked : List Flit
  waiting : List Wait
  /-- Credits held: context pool, transit low, transit high. -/
  credits : List Nat
  /-- Credits to return to the peer, by class. -/
  owed    : List Nat
  tags    : List (Nat × TagEntry)
  nextTag : Nat
  /-- The answer with NAK set is due. -/
  nak     : Bool
  /-- Bytes of a message received in part, and the flits that hold them. -/
  partMsg : List Byte
  partIn  : List (Nat × Nat)
  /-- The receiving buffer (14 R395): its flits, the messages that have come whole, and flits accepted so far. -/
  inFlits : List InFlit
  inMsgs  : List InMsg
  flitNo  : Nat
  /-- Flits put on the fibre, oldest first, 256 bytes each (the model's own field: what the far end
  sees; log entry 17), and the lane that each was dealt to (14 R381). -/
  sent    : List (List Byte)
  laneOf  : List Nat
  /-- The lane to which the next flit is dealt, counted among the lanes in use (14 R381). -/
  nextLane : Nat
  /-- Outstanding context-pool flits, oldest first: the work queue whose task sent it, from whose context's
  allotment its credit came (12 R340). -/
  out     : List (Option Nat)
  /-- Context-pool credits restored at an abort before the far end has returned them (12 R341). -/
  early   : Nat
  /-- The data-link layer of the endpoint reports the link of this port up (14 R416). -/
  linked  : Bool
  /-- EAV_STATE.STATE before the training that runs (14 R419). -/
  before  : Nat
  /-- Lanes lost until the next training (14 R382). -/
  bad     : Nat
deriving DecidableEq, Repr

/-- A picture job accepted by an engine or pre-processor (13 R349, R350). -/
structure Job where
  src     : Nat
  dst     : Nat
  open_   : Bool
  close   : Bool
  param   : Nat
  /-- The bay, the context and the overflow mode of the queue of the MEDIA task. -/
  bay     : PBay
  ctx     : Nat
  ovf     : Bool
  /-- Course and reference cycle at acceptance. -/
  course  : Nat
  ref     : Nat
deriving DecidableEq, Repr

/-- A session slot of an engine, or the queue of a pre-processor (13 R348). -/
structure Session where
  isOpen   : Bool
  error    : Bool
  block    : List Byte
  pic      : Nat
  jobs     : List Job
  coding   : Bool
  waiting  : Bool
  /-- A concealed picture is a reference until the next IRAP picture (13 R375). -/
  degraded : Bool
  /-- The first IRAP picture or key frame has been decoded (13 R373). -/
  started  : Bool
  /-- The previously output picture's planes. -/
  prev     : List (List Nat)
  /-- Produced (decode) or consumed (encode) count last read from RINGCNT. -/
  peerCount : Nat
  /-- The count the engine itself advances. -/
  ownCount  : Nat
  /-- Pictures coded since the last intra picture (13 R372). -/
  sinceIntra : Nat
  /-- Reference pictures, entropy state and rate-control state (13): empty at OPEN. -/
  codec      : List Nat
  /-- Pictures concealed or degraded since the last IRAP picture, by their place in decoding order (13 R375). -/
  tainted    : List Nat
  /-- Marks up to which what is left of concealed pictures is still to be discarded (13 R375): two for each, its first
  slice or temporal delimiter and the start of the picture after it. -/
  skipping   : Nat
  /-- The latest IRAP picture is the first (13 R373). -/
  firstRap   : Bool
deriving DecidableEq, Repr

/-- What the last read answered (the model's own field; log entry 17). -/
inductive Resp where
  | none
  | word (value : Nat)
  | memory (data : List Byte) (poisoned : Bool)
  | bytes (data : List Nat)
  /-- A command of the management bus was answered with a NACK (19 R500). -/
  | nack
deriving DecidableEq, Repr

/-- Rails, input and the release of module reset (18 R477 to R481). -/
structure Power where
  input    : Bool
  /-- Rails within 5 % of nominal, bit n for order n of 18 R477. -/
  rails    : Nat
  /-- RESET_N is held low. -/
  pinLow   : Bool
  /-- Module reset is released. -/
  released : Bool
  /-- A recovered-from-power-loss event is due at the first course (18 R494). -/
  lost     : Bool
  /-- PMBus fault bits of STATUS_WORD. -/
  status   : Nat
  /-- In Dormer-3. -/
  dormer3  : Bool
deriving DecidableEq, Repr

/-- The management interface and the access lock (19). -/
structure Mgmt where
  pointer   : Nat
  /-- Presence contact of unit k made: bit k. -/
  presence  : Nat
  /-- The hold of 100 ms runs for unit k: bit k (19 R503). -/
  hold      : Nat
  pwHash    : Option Nat
  /-- The service command that runs. -/
  svcCmd    : Nat
  challenge : Bool
  /-- Security version of each firmware slot. -/
  fwVer     : List Nat
  fwNext    : Nat
  /-- Security version of the running image. -/
  fwRun     : Nat
deriving DecidableEq, Repr

/-- A change of voltage or clock waiting for a boundary, and the lanes of the mesh (17). -/
structure Reliab where
  /-- KP_CLOCK.MHZ from the next boundary. -/
  mhz      : Option Nat
  /-- WTH_RAIL.VSTEP of a die from the next boundary. -/
  vsteps   : List (Nat × Nat)
  /-- Marked lanes waiting for repair: die, link, ligger, lane. -/
  marked   : Lanes
  /-- Lanes whose traffic a spare has taken: die, link, ligger, lane. -/
  repaired : Lanes
  fatal    : Bool
  /-- A die's spare is being prepared, or is ready, for a logical bay: die, logical bay, faulty physical bay, cause, ready. -/
  preparing : List (Nat × Nat × Nat × Nat × Bool)
  /-- Isolations at the next boundary that find no spare: die, the logical bay to be marked lost (none
  for a spare that stood idle), and the physical bays to retire (17 R463). -/
  losing   : List (Nat × Option Nat × List Nat)
  /-- Stale granules of a context's saved Lath of a logical bay: context, die, logical bay, granules
  (17 R460). -/
  lostSaves : List (Nat × Nat × Nat × List Nat)
  /-- Corrected sectors of each page in the interval: page number and count (10 R290). -/
  pageCorr : List (Nat × Nat)
  /-- Pending pages of the weathering history: 64 KiB page numbers. -/
  pagePend : List Nat
  /-- The sector that made a pending page pending: page number and address (10 R290). -/
  pageRow  : List (Nat × Nat)
  /-- Spare rows left by bank: stack, pseudo-channel, bank group and bank as one number, count. -/
  spareRows : List (Nat × Nat)
  /-- Interval records of the weathering history: the courses of their ends, and the readings (17 R465, R466). -/
  records  : List (Nat × Readings)
  /-- Spared lanes of the weathering history (17 R465): port and lane, and those of the mesh and ligger links. -/
  sparedPorts : List (Nat × Nat)
  sparedMesh  : Lanes
deriving DecidableEq, Repr

/-- Resets and dormer transitions in progress (18). -/
structure Transit where
  /-- Warm reset: 0 none, 1 requested, 2 dies reset, 3 stopped because the mesh has not trained. -/
  warm    : Nat
  /-- Span resets in progress. -/
  spans   : List Nat
  /-- Dormer-1 entry or exit waiting for a boundary. -/
  entering : Bool
  leaving  : Bool
  /-- Stacks are in self-refresh. -/
  selfRefresh : Bool
  /-- The Rafter and Gable dies are powered down (Dormer-2). -/
  diesOff : Bool
deriving DecidableEq, Repr

/-- The configuration space of the host-port endpoint (14 R414): the largest link speed in GT/s and width that it reports,
its settings for the largest payload and read request in bytes, for ECRC, and the addresses and data of its MSI-X
vectors. -/
structure HostCfg where
  maxSpeed    : Nat
  maxWidth    : Nat
  maxPayload  : Nat
  readRequest : Nat
  ecrc        : Bool
  vectors     : List (Nat × Nat)
deriving DecidableEq, Repr

/-- The course master's records (02). -/
structure Course where
  /-- The 48-bit course counter (00 R4). -/
  count     : BitVec 48
  /-- KP_COURSE_PHASE.REF. -/
  phase     : BitVec 10
  hostHi    : BitVec 16
  busHi     : BitVec 16
  /-- KP_BEACON_OFS. -/
  ofs       : BitVec 48
  hostOfsHi : BitVec 16
  busOfsHi  : BitVec 16
  /-- Steering of the reference in ppm (02 R48). -/
  trim      : Int
  /-- Consecutive courses within 20 ns (02 R49). -/
  good      : Nat
  /-- Consecutive missing beacons (02 R50). -/
  missing   : Nat
  /-- A beacon has arrived in the current course. -/
  heard     : Bool
  /-- Ports on which a beacon left at this boundary, with the count and the ridge count. -/
  beacons   : List (Nat × Nat × Nat)
deriving DecidableEq, Repr

/-- The state of the block. -/
structure State where
  /-- Commands waiting, first in first out (the block's queue). -/
  pending : List Instr
  /-- Open values taken so far (the model's own field; log entry 11). -/
  free    : Nat
  resp    : Resp
  /-- BAR0 register words by byte offset, where they differ from their after-reset value. -/
  regs    : List (Nat × Word)
  /-- Live words of RWS registers, where they differ from their after-reset value (00 R9). -/
  live    : List (Nat × Word)
  /-- The live words as they were before the latest boundary (11 R304). -/
  prev    : List (Nat × Word)
  /-- Pending sets: block or register base and its words (11 R300, 10 R284). -/
  commits : List (Nat × List (Nat × Word))
  course  : Course
  power   : Power
  mgmt    : Mgmt
  reliab  : Reliab
  transit : Transit
  /-- Next SEQ of each source, keyed 128 × DIE + UNIT (02 R54). -/
  seqs    : List (Nat × Nat)
  /-- Records raised and not yet at the event collector. -/
  raised  : List EventRec
  /-- The event collector's buffer (02 R61). -/
  evtBuf  : List EventRec
  /-- Module memory: the bytes that differ from what an unlisted byte reads as (log entry 6). -/
  mem     : List Host.Cell
  /-- Lath bytes, keyed (9 × die + physical bay) × 4 MiB + offset. -/
  lath    : List Host.Cell
  /-- Stream-slot bytes, keyed slot × 4 KiB + offset (12 R337). -/
  slots   : List Host.Cell
  /-- Poisoned sectors by address (10 R289). -/
  poison  : List Nat
  /-- Underlay entries of all stacks, oldest first (10 R277). -/
  under   : List UEntry
  loft    : List (Nat × LoftLine)
  /-- Tree pseudo-LRU bits, keyed die × 32768 + set (10 R265). -/
  plru    : List (Nat × Nat)
  arbs    : List (Nat × ArbState)
  watches : List Watch
  image   : Option Image
  queues  : List (Nat × QueueState)
  /-- Bay states keyed 9 × die + physical bay. -/
  bays    : List (Nat × BayState)
  ports   : List (Nat × Port)
  hostPort : Nat
  hostCfg  : HostCfg
  held    : List Held
  /-- COLLSEQ of each context and axis, keyed 4 × context + axis (14 R412). -/
  collseq : List (Nat × Nat)
  /-- Messages in transit: receiving port and message (14 R400). -/
  inTransit : List (Nat × Msg)
  /-- Session slots keyed 128 × gable + 64 (encode) or 0 (decode) + 8 × engine + slot; the
  pre-processors are keyed 256 + gable. -/
  media   : List (Nat × Session)
deriving DecidableEq, Repr

/-- Reasons to stop. No command of the block is raised to one: the manual gives every row an effect. -/
inductive Fault where
  /-- Never raised by any meaning (safe). It keeps the type inhabited. -/
  | unreachable
deriving DecidableEq, Repr

/-- Refusals. -/
inductive Refusal where
  /-- An arm of exec that has no meaning yet (safe). No arm raises it. -/
  | notModelled (mnemonic : String)
deriving DecidableEq, Repr

/-- A Truss half with nothing in it (05 R145). -/
def TrussHalf.empty : TrussHalf :=
  { passes := [], gutters := List.replicate 128 [], ktile := 0, begun := 0, walk := [], granted := [], bank := [], scales := [], accs := [] }

/-- A Truss with nothing in it (05 R145). -/
def Truss.empty : Truss := { cycle := 0, count := 0, ends := [], low := TrussHalf.empty, high := TrussHalf.empty }

/-- A bay with nothing in it (05 R145, 12 R325). -/
def BayState.empty : BayState :=
  { selected := [], running := [], swap := none, faulty := none, aborted := [],
    truss := Truss.empty, purlinLost := false, stale := [], off := false }

/-- A queue before any doorbell. -/
def QueueState.empty : QueueState :=
  { head := 0, tail := 0, rerun := [], wait := 0, short := false }

/-- An arbiter at the start of a window (11 R297). -/
def ArbState.empty : ArbState :=
  { grants := List.replicate 32 0, pos := 0, pointers := [0, 0, 0, 0], waits := List.replicate 32 0,
    holder := none }

/-- A port with empty buffers; it holds no credits before an identity exchange (14 R390, EAV_CRED). -/
def Port.empty : Port :=
  { nextSeq := 0, expect := 0, unacked := [], waiting := [], credits := [0, 0, 0],
    owed := [0, 0, 0], tags := [], nextTag := 0, nak := false, partMsg := [], partIn := [],
    inFlits := [], inMsgs := [], flitNo := 0, sent := [], laneOf := [], nextLane := 0, out := [], early := 0,
    linked := false, before := 0, bad := 0 }

/-- The endpoint's configuration space after reset: 64 GT/s and x16 (14 R414), and payloads of 128 bytes, read requests of 512, no ECRC, and 32 vectors
without an address (PRESUMED: PCI Express; log entry 61). -/
def HostCfg.reset : HostCfg :=
  { maxSpeed := 64, maxWidth := 16, maxPayload := 128, readRequest := 512, ecrc := false
    vectors := List.replicate 32 (0, 0) }

/-- A closed session slot (13 R378). -/
def Session.closed : Session :=
  { isOpen := false, error := false, block := [], pic := 0, jobs := [], coding := false,
    waiting := false, degraded := false, started := false, prev := [], peerCount := 0, ownCount := 0,
    sinceIntra := 0, codec := [], tainted := [], skipping := 0, firstRap := false }

/-- The course master at release of module reset (00 R4, 02). -/
def Course.reset : Course :=
  { count := 0, phase := 0, hostHi := 0, busHi := 0, ofs := 0, hostOfsHi := 0, busOfsHi := 0,
    trim := 0, good := 0, missing := 0, heard := false, beacons := [] }

/-- No reset or dormer transition in progress. -/
def Transit.idle : Transit :=
  { warm := 0, spans := [], entering := false, leaving := false, selfRefresh := false, diesOff := false }

/-- Before the input is applied: the standby rails alone (18 R477). Log entry 5. -/
def Power.reset : Power :=
  { input := false, rails := 1, pinLow := false, released := false, lost := false,
    status := 0, dormer3 := false }

/-- The management interface at first power-up (19). Log entries 9 and 10. -/
def Mgmt.reset : Mgmt :=
  { pointer := 0, presence := 0, hold := 0,
    pwHash := none, svcCmd := 0, challenge := false, fwVer := [0, 0], fwNext := 0, fwRun := 0 }

/-- No faults, no history but the factory record (17 R465). Log entry 8. -/
def Reliab.reset : Reliab :=
  { mhz := none, vsteps := [], marked := [], repaired := [], fatal := false, preparing := [],
    losing := [], lostSaves := [], pageCorr := [], pagePend := [], pageRow := [], spareRows := [], records := [], sparedPorts := [], sparedMesh := [] }

/-- The block at power-on reset: every register at its after-reset value, nothing listed in any
store, no command waiting (18 R481; log entry 5). -/
def State.reset : State :=
  { pending := [], free := 0, resp := .none, regs := [], live := [], prev := [], commits := [],
    course := Course.reset, power := Power.reset, mgmt := Mgmt.reset, reliab := Reliab.reset,
    transit := Transit.idle, seqs := [], raised := [], evtBuf := [], mem := [], lath := [], slots := [],
    poison := [], under := [], loft := [], plru := [], arbs := [], watches := [], image := none,
    queues := [], bays := [], ports := [], hostPort := 28, hostCfg := HostCfg.reset, held := [], collseq := [], inTransit := [],
    media := [] }

end Sys2Proof.Machine
end

