-- ==== Sys2Proof/Machine/Store.lean ====
section
/-! DEFINITION. Sparse stores: lists of (key, value) pairs in one canonical form, keys strictly rising
and no entry equal to what an unlisted key reads as, so that equal stores are equal lists. -/

namespace Sys2Proof.Machine.Store

variable {α : Type}

/-- The value at a key; `d` where the key is not listed. -/
def get (l : List (Nat × α)) (k : Nat) (d : α) : α :=
  match l with
  | [] => d
  | (k', v) :: t => if k' = k then v else get t k d

/-- The store without a key. -/
def erase (l : List (Nat × α)) (k : Nat) : List (Nat × α) :=
  match l with
  | [] => []
  | (k', v) :: t => if k' = k then erase t k else (k', v) :: erase t k

/-- Inserts a pair before the first greater key. -/
def insert (l : List (Nat × α)) (k : Nat) (v : α) : List (Nat × α) :=
  match l with
  | [] => [(k, v)]
  | (k', v') :: t => if k < k' then (k, v) :: (k', v') :: t else (k', v') :: insert t k v

/-- Writes a value; writing what an unlisted key reads as removes the entry. -/
def set [DecidableEq α] (l : List (Nat × α)) (k : Nat) (v d : α) : List (Nat × α) :=
  if v = d then erase l k else insert (erase l k) k v

/-- The keys rise strictly, each above `lo` when one is given. -/
def rising (l : List (Nat × α)) (lo : Option Nat) : Bool :=
  match l with
  | [] => true
  | (k, _) :: t =>
    (match lo with
     | none => true
     | some m => decide (m < k)) && rising t (some k)

/-- The canonical form: rising keys and no entry equal to `d`. -/
def wf [DecidableEq α] (l : List (Nat × α)) (d : α) : Bool :=
  rising l none && l.all fun e => decide (e.2 ≠ d)

end Sys2Proof.Machine.Store
end

