-- ==== Sys2Proof/Machine/RegMap.lean ====
section
/-! DEFINITION. The register map of BAR0: one row per register of the manual's register tables, with
its fields, access codes and after-reset values (00 R5 to R9, 01 R27 to R30 and R521), and a name for
each field. -/

namespace Sys2Proof.Machine

/-- The access codes of 00 R9. -/
inductive Acc where
  | ro | rw | rws | w1c | wo | rwl
deriving DecidableEq, Repr

/-- A field of a register: its place, access code and after-reset value; `cnt` marks the counting
fields whose host writes behave as 03 R90 states. -/
structure FieldSpec where
  lo    : Nat
  width : Nat
  acc   : Acc
  reset : Nat
  cnt   : Bool
deriving DecidableEq, Repr

/-- A register or an indexed run of registers: offset within its sub-block, distance and number. -/
structure RegSpec where
  base   : Nat
  stride : Nat
  count  : Nat
  fields : List FieldSpec
deriving DecidableEq, Repr

/-- A field of the register at a BAR0 offset. -/
structure Field where
  off   : Nat
  lo    : Nat
  width : Nat
deriving DecidableEq, Repr

/-- Kingpost window (01 R28). -/
def RegMap.kingpost : List RegSpec :=
  [
   -- KP_IDENT (00 R1)
   ⟨0x0, 4, 1, [⟨24, 8, .ro, 0x50, false⟩, ⟨12, 12, .ro, 0x32a, false⟩, ⟨4, 8, .ro, 0xa1, false⟩]⟩,
   -- KP_READY (16 R433)
   ⟨0x4, 4, 1, [⟨0, 4, .ro, 0x0, false⟩, ⟨4, 1, .ro, 0x0, false⟩, ⟨8, 8, .ro, 0x0, false⟩]⟩,
   -- KP_FEATDEV0_0 (16 R434)
   ⟨0x10, 4, 1, [⟨0, 32, .ro, 0x3f, false⟩]⟩,
   -- KP_FEATDEV0_j (16 R434 (j = 1-3))
   ⟨0x14, 4, 3, [⟨0, 32, .ro, 0x0, false⟩]⟩,
   -- KP_FEATDEV1_0 (16 R434)
   ⟨0x20, 4, 1, [⟨0, 32, .ro, 0x3, false⟩]⟩,
   -- KP_FEATDEV1_j (16 R434 (j = 1-3))
   ⟨0x24, 4, 3, [⟨0, 32, .ro, 0x0, false⟩]⟩,
   -- KP_FEATDEV2_0 (16 R434)
   ⟨0x30, 4, 1, [⟨0, 32, .ro, 0x1f, false⟩]⟩,
   -- KP_FEATDEV2_j (16 R434 (j = 1-3))
   ⟨0x34, 4, 3, [⟨0, 32, .ro, 0x0, false⟩]⟩,
   -- KP_FEATDEV3_0 (16 R434)
   ⟨0x40, 4, 1, [⟨0, 32, .ro, 0xf, false⟩]⟩,
   -- KP_FEATDEV3_j (16 R434 (j = 1-3))
   ⟨0x44, 4, 3, [⟨0, 32, .ro, 0x0, false⟩]⟩,
   -- KP_FEATACCw_j (16 R435)
   ⟨0x50, 4, 16, [⟨0, 32, .rw, 0x0, false⟩]⟩,
   -- KP_FEATCTL (16 R436)
   ⟨0x90, 4, 1, [⟨0, 1, .wo, 0x0, false⟩]⟩] ++
  [
   -- KP_FEATSTAT (16 R436)
   ⟨0x94, 4, 1, [⟨0, 1, .ro, 0x0, false⟩, ⟨1, 1, .ro, 0x0, false⟩]⟩,
   -- KP_RESET (18 R481)
   ⟨0xa0, 4, 1, [⟨0, 1, .wo, 0x0, false⟩, ⟨1, 1, .wo, 0x0, false⟩, ⟨2, 1, .wo, 0x0, false⟩, ⟨3, 1, .wo, 0x0, false⟩, ⟨4, 5, .wo, 0x0, false⟩, ⟨9, 5, .wo, 0x0, false⟩, ⟨14, 4, .wo, 0x0, false⟩, ⟨24, 8, .wo, 0x0, false⟩]⟩,
   -- KP_DORMER (18 R488)
   ⟨0xa4, 4, 1, [⟨0, 2, .wo, 0x0, false⟩, ⟨2, 2, .ro, 0x0, false⟩, ⟨4, 1, .ro, 0x0, false⟩]⟩,
   -- KP_APERTURE (01 R31)
   ⟨0x10000, 4, 1, [⟨0, 8, .rw, 0x0, false⟩]⟩,
   -- KP_IMGADDR (16 R445 (bits [31:0]))
   ⟨0x10010, 4, 1, [⟨0, 32, .rw, 0x0, false⟩]⟩,
   -- KP_IMGADDR_HI (16 R445 (bits [39:32]))
   ⟨0x10014, 4, 1, [⟨0, 8, .rw, 0x0, false⟩]⟩,
   -- KP_IMGCTL (16 R445 R451)
   ⟨0x10018, 4, 1, [⟨0, 1, .wo, 0x0, false⟩, ⟨1, 1, .wo, 0x0, false⟩]⟩,
   -- KP_IMGSTAT (16 R446)
   ⟨0x1001c, 4, 1, [⟨0, 3, .ro, 0x0, false⟩]⟩,
   -- KP_IMGERR (16 R446)
   ⟨0x10020, 4, 1, [⟨0, 8, .ro, 0x0, false⟩, ⟨8, 8, .ro, 0x0, false⟩]⟩,
   -- KP_IMGENT (16 R446)
   ⟨0x10024, 4, 1, [⟨0, 32, .ro, 0x0, false⟩]⟩,
   -- KP_SHGCHKs (06 R159)
   ⟨0x10040, 4, 4, [⟨0, 1, .ro, 0x0, false⟩, ⟨1, 1, .ro, 0x0, false⟩, ⟨2, 2, .ro, 0x0, false⟩, ⟨8, 8, .ro, 0x0, false⟩, ⟨16, 8, .ro, 0x0, false⟩, ⟨24, 1, .ro, 0x0, false⟩]⟩,
   -- KP_SCHED (12 R346)
   ⟨0x10080, 4, 1, [⟨0, 1, .ro, 0x0, false⟩, ⟨1, 7, .ro, 0x0, false⟩, ⟨8, 4, .ro, 0x0, false⟩, ⟨12, 8, .ro, 0x0, false⟩, ⟨20, 8, .ro, 0x0, false⟩]⟩] ++
  [
   -- KP_SLOTn (12 R346)
   ⟨0x10200, 4, 128, [⟨0, 6, .ro, 0x0, false⟩, ⟨6, 1, .ro, 0x0, false⟩, ⟨7, 1, .ro, 0x0, false⟩, ⟨8, 14, .ro, 0x0, false⟩]⟩,
   -- KP_COURSE_LO (02 R38)
   ⟨0x20000, 4, 1, [⟨0, 32, .ro, 0x0, false⟩]⟩,
   -- KP_COURSE_HI (02 R38 R39)
   ⟨0x20004, 4, 1, [⟨0, 16, .ro, 0x0, false⟩]⟩,
   -- KP_COURSE_PHASE (02 R40)
   ⟨0x20008, 4, 1, [⟨0, 10, .ro, 0x0, false⟩]⟩,
   -- KP_CLOCK (02 R37)
   ⟨0x2000c, 4, 1, [⟨0, 1, .rwl, 0x1, false⟩, ⟨16, 16, .ro, 0x640, false⟩]⟩,
   -- KP_BEACON (02 R49-R52)
   ⟨0x20010, 4, 1, [⟨0, 2, .ro, 0x0, false⟩, ⟨2, 1, .ro, 0x0, false⟩, ⟨3, 5, .ro, 0x0, false⟩, ⟨16, 16, .ro, 0x0, false⟩]⟩,
   -- KP_BEACON_OFS_LO (02 R52)
   ⟨0x20014, 4, 1, [⟨0, 32, .ro, 0x0, false⟩]⟩,
   -- KP_BEACON_OFS_HI (02 R39 R52)
   ⟨0x20018, 4, 1, [⟨0, 16, .ro, 0x0, false⟩]⟩,
   -- KP_COORD (14 R397)
   ⟨0x20020, 4, 1, [⟨0, 4, .ro, 0x0, false⟩, ⟨4, 4, .ro, 0x0, false⟩, ⟨8, 4, .ro, 0x0, false⟩, ⟨12, 2, .ro, 0x0, false⟩, ⟨16, 4, .ro, 0x0, false⟩, ⟨20, 4, .ro, 0x0, false⟩, ⟨24, 4, .ro, 0x0, false⟩, ⟨28, 2, .ro, 0x0, false⟩]⟩,
   -- KP_CUT (15 R421)
   ⟨0x20024, 4, 1, [⟨0, 2, .ro, 0x0, false⟩, ⟨2, 2, .ro, 0x0, false⟩, ⟨4, 2, .ro, 0x0, false⟩, ⟨6, 2, .ro, 0x0, false⟩, ⟨8, 4, .ro, 0x0, false⟩]⟩,
   -- EVT_BASE (02 R59 (bits [31:0]))
   ⟨0x30000, 4, 1, [⟨0, 32, .rw, 0x0, false⟩]⟩,
   -- EVT_BASE_HI (02 R59 (bits [39:32]))
   ⟨0x30004, 4, 1, [⟨0, 8, .rw, 0x0, false⟩]⟩] ++
  [
   -- EVT_SIZE (02 R59)
   ⟨0x30008, 4, 1, [⟨0, 5, .rw, 0x8, false⟩]⟩,
   -- EVT_WRITE (02 R57)
   ⟨0x3000c, 4, 1, [⟨0, 32, .ro, 0x0, false⟩]⟩,
   -- EVT_READ (02 R60)
   ⟨0x30010, 4, 1, [⟨0, 32, .rw, 0x0, false⟩]⟩,
   -- EVT_LOST (02 R57)
   ⟨0x30014, 4, 1, [⟨0, 32, .ro, 0x0, false⟩]⟩,
   -- EVT_CTL (02 R59)
   ⟨0x30018, 4, 1, [⟨0, 1, .rw, 0x0, false⟩, ⟨1, 1, .rw, 0x0, false⟩]⟩,
   -- EVT_CBASE (14 R403 (bits [31:0]))
   ⟨0x30020, 4, 1, [⟨0, 32, .rw, 0x0, false⟩]⟩,
   -- EVT_CBASE_HI (14 R403 (bits [39:32]))
   ⟨0x30024, 4, 1, [⟨0, 8, .rw, 0x0, false⟩]⟩,
   -- EVT_CSIZE (14 R403)
   ⟨0x30028, 4, 1, [⟨0, 5, .rw, 0x8, false⟩]⟩,
   -- EVT_CWRITE (14 R403)
   ⟨0x3002c, 4, 1, [⟨0, 32, .ro, 0x0, false⟩]⟩,
   -- EVT_CREAD (14 R403, 02 R60)
   ⟨0x30030, 4, 1, [⟨0, 32, .rw, 0x0, false⟩]⟩,
   -- EVT_CLOST (14 R403)
   ⟨0x30034, 4, 1, [⟨0, 32, .ro, 0x0, false⟩]⟩,
   -- PEG_COUNTn (11 R306)
   ⟨0x40000, 4, 65536, [⟨0, 32, .rw, 0x0, false⟩]⟩] ++
  [
   -- TIE_STATt (11 R315)
   ⟨0x80000, 4, 4096, [⟨0, 8, .ro, 0x0, false⟩, ⟨8, 8, .ro, 0x0, false⟩, ⟨16, 16, .ro, 0x0, false⟩]⟩,
   -- TIE_RELt (11 R315)
   ⟨0x84000, 4, 4096, [⟨0, 16, .ro, 0x0, false⟩]⟩]

/-- Flashing window (01 R28). -/
def RegMap.flashing : List RegSpec :=
  [
   -- FL_PSTAT (18 R478)
   ⟨0x0, 4, 1, [⟨0, 1, .ro, 0x0, false⟩, ⟨1, 3, .ro, 0x0, false⟩, ⟨4, 1, .ro, 0x0, false⟩, ⟨5, 1, .ro, 0x0, false⟩]⟩,
   -- FL_VIN (18 R493)
   ⟨0x4, 4, 1, [⟨0, 16, .ro, 0x0, false⟩, ⟨16, 16, .ro, 0x0, false⟩]⟩,
   -- FL_PIN (18 R494)
   ⟨0x8, 4, 1, [⟨0, 16, .ro, 0x0, false⟩, ⟨16, 16, .ro, 0x0, false⟩]⟩,
   -- FL_TEMP (18 R493)
   ⟨0xc, 4, 1, [⟨0, 8, .ro, 0x0, false⟩, ⟨8, 5, .ro, 0x0, false⟩]⟩,
   -- FL_GPIO (19 R502 (IN: pin levels, presumed 0 until sampled))
   ⟨0x100, 4, 1, [⟨0, 8, .rw, 0x0, false⟩, ⟨8, 8, .rw, 0x0, false⟩, ⟨16, 8, .ro, 0x0, false⟩]⟩,
   -- FL_ALERT (19 R502)
   ⟨0x104, 4, 1, [⟨0, 1, .w1c, 0x0, false⟩, ⟨1, 1, .w1c, 0x0, false⟩, ⟨2, 1, .w1c, 0x0, false⟩, ⟨3, 1, .w1c, 0x0, false⟩, ⟨4, 1, .w1c, 0x0, false⟩, ⟨5, 1, .w1c, 0x0, false⟩, ⟨6, 1, .w1c, 0x0, false⟩]⟩,
   -- FL_ALERTEN (19 R502)
   ⟨0x108, 4, 1, [⟨0, 7, .rw, 0x7f, false⟩]⟩,
   -- FL_SLOT (19 R495 (sampled; open contacts read 1))
   ⟨0x10c, 4, 1, [⟨0, 6, .ro, 0x3f, false⟩]⟩,
   -- FL_ILK (19 R503 (CLOSED: sensed))
   ⟨0x110, 4, 1, [⟨0, 1, .ro, 0x0, false⟩, ⟨1, 4, .ro, 0x0, false⟩, ⟨8, 8, .rw, 0x0, true⟩, ⟨16, 8, .rw, 0x0, true⟩]⟩,
   -- WTH_PLAN (17 R467-R471 (FSTEP, ENDMARGIN from history))
   ⟨0x40000, 4, 1, [⟨0, 5, .ro, 0x0, false⟩, ⟨5, 1, .ro, 0x0, false⟩, ⟨6, 1, .ro, 0x0, false⟩, ⟨7, 1, .ro, 0x1, false⟩]⟩,
   -- WTH_NEXT (17 R466)
   ⟨0x40004, 4, 1, [⟨0, 20, .ro, 0xfffff, false⟩]⟩,
   -- FL_SVCSTAT (19 R508-R512 (PWSET from store))
   ⟨0x80000, 4, 1, [⟨0, 1, .ro, 0x0, false⟩, ⟨1, 1, .ro, 0x0, false⟩, ⟨2, 1, .ro, 0x0, false⟩, ⟨3, 1, .ro, 0x0, false⟩, ⟨4, 3, .ro, 0x5, false⟩, ⟨7, 2, .ro, 0x0, false⟩, ⟨9, 1, .ro, 0x0, false⟩]⟩] ++
  [
   -- FL_SVCCMD (19 R512)
   ⟨0x80004, 4, 1, [⟨0, 4, .wo, 0x0, false⟩, ⟨4, 20, .wo, 0x0, false⟩, ⟨24, 8, .wo, 0x0, false⟩]⟩,
   -- FL_SVCLEN (19 R512)
   ⟨0x80008, 4, 1, [⟨0, 7, .rw, 0x0, false⟩]⟩,
   -- FL_FWSTAT (19 R505-R507 (from store, verified, fused))
   ⟨0x80040, 4, 1, [⟨0, 1, .ro, 0x0, false⟩, ⟨1, 1, .ro, 0x1, false⟩, ⟨2, 1, .ro, 0x1, false⟩, ⟨8, 8, .ro, 0x0, false⟩]⟩,
   -- FL_FWCTL (19 R507)
   ⟨0x80044, 4, 1, [⟨0, 1, .wo, 0x0, false⟩, ⟨1, 1, .wo, 0x0, false⟩]⟩,
   -- FL_FWADDR (19 R507 (bits [31:0]))
   ⟨0x80048, 4, 1, [⟨0, 32, .rw, 0x0, false⟩]⟩,
   -- FL_FWADDR_HI (19 R507 (bits [39:32]))
   ⟨0x8004c, 4, 1, [⟨0, 8, .rw, 0x0, false⟩]⟩,
   -- FL_SVCBUF (19 R509-R512)
   ⟨0x80100, 4, 24, [⟨0, 32, .rw, 0x0, false⟩]⟩,
   -- FL_CHAL (19 R511)
   ⟨0x80200, 4, 12, [⟨0, 32, .ro, 0x0, false⟩]⟩]

/-- Physical-bay sub-window of a Rafter die. -/
def RegMap.bay : List RegSpec :=
  [
   -- BAY_SLIP (02 R43)
   ⟨0xe000, 4, 1, [⟨0, 16, .ro, 0x0, false⟩, ⟨16, 16, .ro, 0x0, false⟩]⟩,
   -- BAY_CVT0 (03 R90)
   ⟨0xe010, 4, 1, [⟨0, 16, .rw, 0x0, true⟩, ⟨16, 16, .rw, 0x0, true⟩]⟩,
   -- BAY_CVT1 (03 R90)
   ⟨0xe014, 4, 1, [⟨0, 16, .rw, 0x0, true⟩]⟩,
   -- BAY_FAST0 (04 R117)
   ⟨0xe018, 4, 1, [⟨0, 16, .rw, 0x0, true⟩, ⟨16, 16, .rw, 0x0, true⟩]⟩,
   -- BAY_FAST1 (04 R117)
   ⟨0xe01c, 4, 1, [⟨0, 16, .rw, 0x0, true⟩, ⟨16, 16, .rw, 0x0, true⟩]⟩,
   -- BAY_SFLAGS (04 R117)
   ⟨0xe020, 4, 1, [⟨0, 1, .w1c, 0x0, false⟩, ⟨1, 1, .w1c, 0x0, false⟩, ⟨2, 1, .w1c, 0x0, false⟩, ⟨3, 1, .w1c, 0x0, false⟩, ⟨4, 1, .w1c, 0x0, false⟩]⟩,
   -- BAY_FRZDRY (05 R133)
   ⟨0xe030, 4, 1, [⟨0, 32, .rw, 0x0, true⟩]⟩,
   -- BAY_FRZFULL (05 R133)
   ⟨0xe034, 4, 1, [⟨0, 32, .rw, 0x0, true⟩]⟩,
   -- BAY_FRZTOT (05 R133)
   ⟨0xe038, 4, 1, [⟨0, 32, .rw, 0x0, true⟩]⟩,
   -- BAY_FRZWHO (05 R133)
   ⟨0xe03c, 4, 1, [⟨0, 7, .ro, 0x0, false⟩, ⟨7, 1, .ro, 0x0, false⟩, ⟨8, 7, .ro, 0x0, false⟩, ⟨15, 1, .ro, 0x0, false⟩]⟩,
   -- BAY_STWAIT (05 R133)
   ⟨0xe040, 4, 1, [⟨0, 32, .rw, 0x0, true⟩]⟩,
   -- BAY_TRUSS (05 R145)
   ⟨0xe044, 4, 1, [⟨0, 1, .ro, 0x0, false⟩, ⟨1, 1, .ro, 0x0, false⟩, ⟨2, 1, .ro, 0x0, false⟩, ⟨3, 1, .ro, 0x0, false⟩, ⟨4, 1, .ro, 0x0, false⟩, ⟨5, 1, .ro, 0x0, false⟩, ⟨6, 2, .ro, 0x0, false⟩]⟩] ++
  [
   -- BAY_ROWST0 (06 R170)
   ⟨0xe050, 4, 1, [⟨0, 16, .rw, 0x0, true⟩, ⟨16, 16, .rw, 0x0, true⟩]⟩,
   -- BAY_ROWST1 (06 R170)
   ⟨0xe054, 4, 1, [⟨0, 16, .rw, 0x0, true⟩, ⟨16, 16, .rw, 0x0, true⟩]⟩,
   -- BAY_ATTN0 (08 R219)
   ⟨0xe060, 4, 1, [⟨0, 32, .rw, 0x0, true⟩]⟩,
   -- BAY_ATTN1 (08 R219)
   ⟨0xe064, 4, 1, [⟨0, 32, .rw, 0x0, true⟩]⟩,
   -- BAY_LATHC0 (10 R264)
   ⟨0xe070, 4, 1, [⟨0, 16, .rw, 0x0, true⟩, ⟨16, 16, .rw, 0x0, true⟩]⟩,
   -- BAY_LATHC1 (10 R264)
   ⟨0xe074, 4, 1, [⟨0, 16, .rw, 0x0, true⟩, ⟨16, 16, .rw, 0x0, true⟩]⟩,
   -- BAY_ECC (10 R286)
   ⟨0xe078, 4, 1, [⟨0, 16, .rw, 0x0, true⟩, ⟨16, 16, .rw, 0x0, true⟩]⟩,
   -- BAY_SCHED (12 R346)
   ⟨0xe080, 4, 1, [⟨0, 6, .ro, 0x0, false⟩, ⟨6, 1, .ro, 0x0, false⟩, ⟨7, 1, .ro, 0x0, false⟩, ⟨8, 1, .ro, 0x0, false⟩, ⟨16, 16, .ro, 0x0, false⟩]⟩,
   -- BAY_SWAPS (12 R346)
   ⟨0xe084, 4, 1, [⟨0, 16, .rw, 0x0, true⟩, ⟨16, 16, .rw, 0x0, true⟩]⟩,
   -- BAY_WAITMAX (12 R346)
   ⟨0xe088, 4, 1, [⟨0, 16, .ro, 0x0, false⟩, ⟨16, 16, .ro, 0x0, false⟩]⟩]

/-- Loft sub-block of a Rafter die. -/
def RegMap.loft : List RegSpec :=
  [
   -- LOFT_HIT (10 R273)
   ⟨0x0, 4, 1, [⟨0, 32, .rw, 0x0, true⟩]⟩,
   -- LOFT_MISS (10 R273)
   ⟨0x4, 4, 1, [⟨0, 32, .rw, 0x0, true⟩]⟩,
   -- LOFT_KEEPCTL (10 R272)
   ⟨0x8, 4, 1, [⟨0, 4, .ro, 0x0, false⟩]⟩,
   -- LOFT_ECC (10 R286)
   ⟨0xc, 4, 1, [⟨0, 16, .rw, 0x0, true⟩, ⟨16, 16, .rw, 0x0, true⟩]⟩,
   -- LOFT_KEEPw.BASE (10 R272)
   ⟨0x10, 16, 4, [⟨0, 32, .ro, 0x0, false⟩]⟩,
   -- LOFT_KEEPw.BASE_HI (10 R272)
   ⟨0x14, 16, 4, [⟨0, 8, .ro, 0x0, false⟩]⟩,
   -- LOFT_KEEPw.LIMIT (10 R272)
   ⟨0x18, 16, 4, [⟨0, 32, .ro, 0x0, false⟩]⟩,
   -- LOFT_KEEPw.LIMIT_HI (10 R272)
   ⟨0x1c, 16, 4, [⟨0, 8, .ro, 0x0, false⟩]⟩]

/-- Memory-controller sub-block. -/
def RegMap.hbm : List RegSpec :=
  [
   -- HBM_TEMP (10 R276)
   ⟨0x0, 4, 1, [⟨0, 8, .ro, 0x0, false⟩, ⟨8, 1, .ro, 0x0, false⟩]⟩,
   -- HBM_ECC (10 R288)
   ⟨0x4, 4, 1, [⟨0, 16, .rw, 0x0, true⟩, ⟨16, 16, .rw, 0x0, true⟩]⟩,
   -- HBM_ERRADDR (10 R289)
   ⟨0x8, 4, 1, [⟨0, 32, .ro, 0x0, false⟩]⟩,
   -- HBM_ERRADDR_HI (10 R289)
   ⟨0xc, 4, 1, [⟨0, 4, .ro, 0x0, false⟩]⟩,
   -- HBM_KEEPw.BASE (10 R272)
   ⟨0x10, 16, 4, [⟨0, 32, .ro, 0x0, false⟩]⟩,
   -- HBM_KEEPw.BASE_HI (10 R272)
   ⟨0x14, 16, 4, [⟨0, 8, .ro, 0x0, false⟩]⟩,
   -- HBM_KEEPw.LIMIT (10 R272)
   ⟨0x18, 16, 4, [⟨0, 32, .ro, 0x0, false⟩]⟩,
   -- HBM_KEEPw.LIMIT_HI (10 R272)
   ⟨0x1c, 16, 4, [⟨0, 8, .ro, 0x0, false⟩]⟩,
   -- HBM_RETIRE (10 R290 (COUNT, SPARES, PENDING from history))
   ⟨0x80, 4, 1, [⟨0, 8, .rwl, 0x8, false⟩, ⟨8, 8, .ro, 0x0, false⟩, ⟨16, 8, .ro, 0x0, false⟩, ⟨24, 8, .ro, 0x0, false⟩]⟩,
   -- HBM_RLISTk (10 R290 (from history))
   ⟨0x100, 4, 64, [⟨0, 20, .ro, 0x0, false⟩, ⟨31, 1, .ro, 0x0, false⟩]⟩]

/-- Underlay sub-block. -/
def RegMap.und : List RegSpec :=
  [
   -- UND_GROUP (10 R284)
   ⟨0x0, 4, 1, [⟨0, 1, .rws, 0x1, false⟩, ⟨1, 7, .rws, 0x8, false⟩, ⟨8, 8, .rws, 0x20, false⟩, ⟨16, 9, .rws, 0xc0, false⟩]⟩,
   -- UND_COMMIT (10 R284)
   ⟨0x4, 4, 1, [⟨0, 1, .wo, 0x0, false⟩]⟩,
   -- UND_STAT (10 R284)
   ⟨0x8, 4, 1, [⟨0, 9, .ro, 0x0, false⟩, ⟨9, 9, .ro, 0x0, false⟩]⟩,
   -- UND_MERGE (10 R284)
   ⟨0xc, 4, 1, [⟨0, 32, .rw, 0x0, true⟩]⟩,
   -- UND_RMW (10 R280)
   ⟨0x10, 4, 1, [⟨0, 32, .rw, 0x0, true⟩]⟩,
   -- UND_FULL (10 R282)
   ⟨0x14, 4, 1, [⟨0, 32, .rw, 0x0, true⟩]⟩]

/-- Instance block of a valley arbiter (11 R294, R305). -/
def RegMap.vly : List RegSpec :=
  [
   -- VLY_PRIO_LC (11 R305)
   ⟨0x0, 4, 1, [⟨0, 32, .rws, 0xaaaaaaaa, false⟩]⟩,
   -- VLY_PRIO_BE (11 R305)
   ⟨0x4, 4, 1, [⟨0, 32, .rws, 0x0, false⟩]⟩,
   -- VLY_QUOTA (11 R305)
   ⟨0x8, 4, 1, [⟨0, 12, .rws, 0x100, false⟩]⟩,
   -- VLY_QLIM_LCk (11 R305)
   ⟨0x10, 4, 4, [⟨0, 32, .rws, 0xe0e0e0e, false⟩]⟩,
   -- VLY_QLIM_BEk (11 R305)
   ⟨0x20, 4, 4, [⟨0, 32, .rws, 0x0, false⟩]⟩,
   -- VLY_COMMIT (11 R305)
   ⟨0x30, 4, 1, [⟨0, 1, .wo, 0x0, false⟩]⟩,
   -- VLY_STAT (11 R305)
   ⟨0x34, 4, 1, [⟨0, 1, .ro, 0x0, false⟩, ⟨1, 1, .ro, 0x0, false⟩, ⟨2, 6, .ro, 0x0, false⟩]⟩,
   -- VLY_MASKED (11 R305)
   ⟨0x38, 4, 1, [⟨0, 16, .ro, 0x0, false⟩, ⟨16, 16, .ro, 0x0, false⟩]⟩,
   -- VLY_WAITMAX (11 R305)
   ⟨0x3c, 4, 1, [⟨0, 16, .ro, 0x0, false⟩, ⟨16, 16, .ro, 0x0, false⟩]⟩,
   -- VLY_SLOTCTL (11 R305)
   ⟨0x40, 4, 1, [⟨0, 1, .rws, 0x0, false⟩]⟩,
   -- VLY_SLOTs (11 R302)
   ⟨0x100, 4, 64, [⟨0, 16, .rws, 0xffff, false⟩, ⟨16, 1, .rws, 0x1, false⟩, ⟨17, 1, .rws, 0x1, false⟩]⟩]

/-- Weathering monitors of a Rafter die. -/
def RegMap.wth : List RegSpec :=
  [
   -- WTH_BAYb (17 R467)
   ⟨0x0, 4, 9, [⟨0, 12, .ro, 0x0, false⟩]⟩,
   -- WTH_RAIL (17 R467 (from history))
   ⟨0x40, 4, 1, [⟨0, 3, .ro, 0x0, false⟩]⟩]

/-- Die-common sub-block of a Rafter die. -/
def RegMap.die : List RegSpec :=
  [
   -- BAY_SPARE (01 R15 (from history; fused at first power-up))
   ⟨0x0, 4, 1, [⟨0, 4, .ro, 0x8, false⟩, ⟨4, 4, .ro, 0x8, false⟩, ⟨8, 9, .ro, 0x0, false⟩]⟩,
   -- BAY_FAULT (17 R473)
   ⟨0x4, 4, 1, [⟨0, 4, .ro, 0x0, false⟩, ⟨4, 3, .ro, 0x0, false⟩, ⟨7, 1, .ro, 0x0, false⟩, ⟨8, 24, .ro, 0x0, false⟩]⟩,
   -- BAY_MAP (01 R15 (eight 4-bit fields LOGb))
   ⟨0x8, 4, 1, [⟨0, 32, .ro, 0x76543210, false⟩]⟩]

/-- Port sub-window of an Eave die. -/
def RegMap.port : List RegSpec :=
  [
   -- EAV_STATE (14 R418)
   ⟨0x0, 4, 1, [⟨0, 3, .ro, 0x0, false⟩, ⟨3, 9, .ro, 0x0, false⟩, ⟨12, 4, .ro, 0xf, false⟩, ⟨16, 3, .ro, 0x7, false⟩, ⟨19, 1, .ro, 0x0, false⟩]⟩,
   -- EAV_RTT (14 R418)
   ⟨0x4, 4, 1, [⟨0, 16, .ro, 0x0, false⟩]⟩,
   -- EAV_PEER (14 R418)
   ⟨0x8, 4, 1, [⟨0, 14, .ro, 0x0, false⟩, ⟨14, 5, .ro, 0x0, false⟩, ⟨19, 1, .ro, 0x0, false⟩]⟩,
   -- EAV_FEC (14 R418)
   ⟨0xc, 4, 1, [⟨0, 16, .rw, 0x0, true⟩, ⟨16, 16, .rw, 0x0, true⟩]⟩,
   -- EAV_RETRY (14 R418)
   ⟨0x10, 4, 1, [⟨0, 16, .rw, 0x0, true⟩, ⟨16, 16, .rw, 0x0, true⟩]⟩,
   -- EAV_TAG (14 R418)
   ⟨0x14, 4, 1, [⟨0, 16, .rw, 0x0, true⟩, ⟨16, 16, .rw, 0x0, true⟩]⟩,
   -- EAV_CRED (14 R418)
   ⟨0x18, 4, 1, [⟨0, 11, .ro, 0x0, false⟩, ⟨11, 11, .ro, 0x0, false⟩]⟩]

/-- Block of a media engine. -/
def RegMap.engine : List RegSpec :=
  [
   -- GBL_ENG (13 R378)
   ⟨0x0, 4, 1, [⟨0, 1, .ro, 0x0, false⟩, ⟨4, 8, .ro, 0x0, false⟩]⟩,
   -- GBL_CNT0 (13 R378)
   ⟨0x4, 4, 1, [⟨0, 16, .rw, 0x0, true⟩, ⟨16, 16, .rw, 0x0, true⟩]⟩,
   -- GBL_CNT1 (13 R378)
   ⟨0x8, 4, 1, [⟨0, 16, .rw, 0x0, true⟩, ⟨16, 16, .rw, 0x0, true⟩]⟩,
   -- GBL_SESSn (13 R378)
   ⟨0x100, 4, 8, [⟨0, 3, .ro, 0x0, false⟩, ⟨3, 1, .ro, 0x0, false⟩, ⟨4, 1, .ro, 0x0, false⟩, ⟨5, 3, .ro, 0x0, false⟩, ⟨8, 24, .ro, 0x0, false⟩]⟩]

/-- The register of a table at an offset within its sub-block. -/
def RegMap.find (t : List RegSpec) (o : Nat) : Option RegSpec :=
  t.find? fun r => decide (r.base ≤ o ∧ o < r.base + r.stride * r.count ∧ (o - r.base) % r.stride = 0)

/-- The die whose window holds a BAR0 offset (01 R27). -/
def RegMap.dieOf (off : Nat) : Option Nat :=
  let w := off / 0x100000
  if w = 0 then some 30
  else if w = 1 then some 31
  else if 16 ≤ w ∧ w < 40 then some (w - 16)
  else if 48 ≤ w ∧ w < 52 then some (w - 48 + 24)
  else if 56 ≤ w ∧ w < 58 then some (w - 56 + 28)
  else none

/-- Rafter dies that hold a memory controller (01 R22). -/
def hasController (die : Nat) : Bool := decide (die < 6 ∨ (18 ≤ die ∧ die < 24))

/-- Arbiter instance i of a Rafter die exists (11 R294, 01 R521). -/
def RegMap.arbExists (die i : Nat) : Bool :=
  decide (i < 32 ∨ (96 ≤ i ∧ i ≤ 100)) || (decide (32 ≤ i ∧ i < 96) && hasController die)

/-- The base of the arbiter block that holds an offset, if one does (11 R294). -/
def RegMap.arbBlock (off : Nat) : Option Nat :=
  match RegMap.dieOf off with
  | none => none
  | some die =>
    let o := off % 0x100000
    if die < 24 then
      if o / 0x10000 = 0xD then
        let i := (o - 0xD0000) / 0x200
        if RegMap.arbExists die i then some (off - off % 0x200) else none
      else none
    else if die < 28 then
      if o < 0x80000 ∧ o % 0x10000 / 0x200 = 0x78 then some (off - off % 0x200) else none
    else if die < 30 then
      if o < 0x80000 ∧ o % 0x10000 / 0x200 = 0x78 then some (off - off % 0x200) else none
    else none

/-- The register at a BAR0 offset; none where the offset is unpopulated (01 R521). -/
def RegMap.at? (off : Nat) : Option RegSpec :=
  match RegMap.dieOf off with
  | none => none
  | some die =>
    let o := off % 0x100000
    let k := o / 0x10000
    let r := o % 0x10000
    if die = 30 then RegMap.find RegMap.kingpost o
    else if die = 31 then RegMap.find RegMap.flashing o
    else
      match RegMap.arbBlock off with
      | some blk => RegMap.find RegMap.vly (off - blk)
      | none =>
        if die < 24 then
          if k < 9 then RegMap.find RegMap.bay r
          else if k = 9 then RegMap.find RegMap.loft r
          else if k = 0xB then (if hasController die then RegMap.find RegMap.hbm r else none)
          else if k = 0xC then (if hasController die then RegMap.find RegMap.und r else none)
          else if k = 0xE then RegMap.find RegMap.wth r
          else if k = 0xF then RegMap.find RegMap.die r
          else none
        else if die < 28 then (if k < 8 then RegMap.find RegMap.port r else none)
        else (if k < 8 then RegMap.find RegMap.engine r else none)

/-- The word of a list of fields with each at its after-reset value (00 R7: reserved bits read 0). -/
def RegMap.resetOf (fs : List FieldSpec) : Nat :=
  fs.foldl (fun w f => w + f.reset % 2 ^ f.width * 2 ^ f.lo) 0

/-- The after-reset word of the register at a BAR0 offset. -/
def RegMap.resetWord (off : Nat) : Word :=
  match RegMap.at? off with
  | some r => BitVec.ofNat 32 (RegMap.resetOf r.fields)
  | none => 0

/-- First byte of a Rafter die's window (01 R27). -/
def rafterBase (die : Nat) : Nat := 0x1000000 + die * 0x100000

/-- First byte of a physical bay's sub-window (01 R28). -/
def bayBase (b : PBay) : Nat := rafterBase b.die + b.pbay * 0x10000

/-- First byte of a port's sub-window (01 R28: port 8 × (die − 24) + p). -/
def portBase (port : Nat) : Nat := 0x3000000 + port / 8 * 0x100000 + port % 8 * 0x10000

/-- First byte of an engine's block: encode engines then decode engines (13 R378). -/
def engineBase (e : Eng) : Nat :=
  0x3800000 + e.gable * 0x100000 + (match e.kind with | .decode => 0x40000 | _ => 0) + e.idx * 0x10000

/-- Base of arbiter instance i of a Rafter die (11 R294). -/
def arbBase (die i : Nat) : Nat := rafterBase die + 0xD0000 + i * 0x200

namespace Reg

/-- KP_IDENT.FAMILY (00 R1). -/
def kpIdentFamily : Field := ⟨0x0, 24, 8⟩
/-- KP_IDENT.PART (00 R1). -/
def kpIdentPart : Field := ⟨0x0, 12, 12⟩
/-- KP_IDENT.STEP (00 R1). -/
def kpIdentStep : Field := ⟨0x0, 4, 8⟩
/-- KP_READY.STAGE (16 R433). -/
def kpReadyStage : Field := ⟨0x4, 0, 4⟩
/-- KP_READY.ERROR (16 R433). -/
def kpReadyError : Field := ⟨0x4, 4, 1⟩
/-- KP_READY.ECODE (16 R433). -/
def kpReadyEcode : Field := ⟨0x4, 8, 8⟩
/-- KP_FEATDEV0_0.BITS (16 R434). -/
def kpFeatdev0Bits : Field := ⟨0x10, 0, 32⟩
/-- KP_FEATDEV1_0.BITS (16 R434). -/
def kpFeatdev1Bits : Field := ⟨0x20, 0, 32⟩
/-- KP_FEATDEV2_0.BITS (16 R434). -/
def kpFeatdev2Bits : Field := ⟨0x30, 0, 32⟩
/-- KP_FEATDEV3_0.BITS (16 R434). -/
def kpFeatdev3Bits : Field := ⟨0x40, 0, 32⟩
/-- KP_FEATACCw_j.BITS (16 R435). -/
def kpFeataccBits (i : Nat) : Field := ⟨0x50 + 4 * i, 0, 32⟩
/-- KP_FEATCTL.LOCK (16 R436). -/
def kpFeatctlLock : Field := ⟨0x90, 0, 1⟩
/-- KP_FEATSTAT.LOCKED (16 R436). -/
def kpFeatstatLocked : Field := ⟨0x94, 0, 1⟩
/-- KP_FEATSTAT.REJECTED (16 R436). -/
def kpFeatstatRejected : Field := ⟨0x94, 1, 1⟩
/-- KP_RESET.MODULE (18 R481). -/
def kpResetModule : Field := ⟨0xa0, 0, 1⟩
/-- KP_RESET.WARM (18 R481). -/
def kpResetWarm : Field := ⟨0xa0, 1, 1⟩
/-- KP_RESET.SPAN (18 R481). -/
def kpResetSpan : Field := ⟨0xa0, 2, 1⟩
/-- KP_RESET.BAY (18 R481). -/
def kpResetBay : Field := ⟨0xa0, 3, 1⟩
/-- KP_RESET.SPANIDX (18 R481). -/
def kpResetSpanidx : Field := ⟨0xa0, 4, 5⟩
/-- KP_RESET.DIE (18 R481). -/
def kpResetDie : Field := ⟨0xa0, 9, 5⟩
/-- KP_RESET.PBAY (18 R481). -/
def kpResetPbay : Field := ⟨0xa0, 14, 4⟩
/-- KP_RESET.KEY (18 R481). -/
def kpResetKey : Field := ⟨0xa0, 24, 8⟩
/-- KP_DORMER.REQ (18 R488). -/
def kpDormerReq : Field := ⟨0xa4, 0, 2⟩
/-- KP_DORMER.STATE (18 R488). -/
def kpDormerState : Field := ⟨0xa4, 2, 2⟩
/-- KP_DORMER.BUSY (18 R488). -/
def kpDormerBusy : Field := ⟨0xa4, 4, 1⟩
/-- KP_APERTURE.BASE (01 R31). -/
def kpApertureBase : Field := ⟨0x10000, 0, 8⟩
/-- KP_IMGADDR.ADDR_LO (16 R445). -/
def kpImgaddrAddrLo : Field := ⟨0x10010, 0, 32⟩
/-- KP_IMGADDR_HI.ADDR_HI (16 R445). -/
def kpImgaddrHiAddrHi : Field := ⟨0x10014, 0, 8⟩
/-- KP_IMGCTL.LOAD (16 R445 R451). -/
def kpImgctlLoad : Field := ⟨0x10018, 0, 1⟩
/-- KP_IMGCTL.UNLOAD (16 R445 R451). -/
def kpImgctlUnload : Field := ⟨0x10018, 1, 1⟩
/-- KP_IMGSTAT.STATE (16 R446). -/
def kpImgstatState : Field := ⟨0x1001c, 0, 3⟩
/-- KP_IMGERR.CODE (16 R446). -/
def kpImgerrCode : Field := ⟨0x10020, 0, 8⟩
/-- KP_IMGERR.SECTION (16 R446). -/
def kpImgerrSection : Field := ⟨0x10020, 8, 8⟩
/-- KP_IMGENT.ENTRY (16 R446). -/
def kpImgentEntry : Field := ⟨0x10024, 0, 32⟩
/-- KP_SHGCHKs.PRESENT (06 R159). -/
def kpShgchkPresent (i : Nat) : Field := ⟨0x10040 + 4 * i, 0, 1⟩
/-- KP_SHGCHKs.MONO (06 R159). -/
def kpShgchkMono (i : Nat) : Field := ⟨0x10040 + 4 * i, 1, 1⟩
/-- KP_SHGCHKs.DIR (06 R159). -/
def kpShgchkDir (i : Nat) : Field := ⟨0x10040 + 4 * i, 2, 2⟩
/-- KP_SHGCHKs.FAILS (06 R159). -/
def kpShgchkFails (i : Nat) : Field := ⟨0x10040 + 4 * i, 8, 8⟩
/-- KP_SHGCHKs.FIRST (06 R159). -/
def kpShgchkFirst (i : Nat) : Field := ⟨0x10040 + 4 * i, 16, 8⟩
/-- KP_SHGCHKs.FIRSTV (06 R159). -/
def kpShgchkFirstv (i : Nat) : Field := ⟨0x10040 + 4 * i, 24, 1⟩
/-- KP_SCHED.EXCL (12 R346). -/
def kpSchedExcl : Field := ⟨0x10080, 0, 1⟩
/-- KP_SCHED.NCTX (12 R346). -/
def kpSchedNctx : Field := ⟨0x10080, 1, 7⟩
/-- KP_SCHED.SWAPMAX (12 R346). -/
def kpSchedSwapmax : Field := ⟨0x10080, 8, 4⟩
/-- KP_SCHED.BEQ (12 R346). -/
def kpSchedBeq : Field := ⟨0x10080, 12, 8⟩
/-- KP_SCHED.LCHOLD (12 R346). -/
def kpSchedLchold : Field := ⟨0x10080, 20, 8⟩
/-- KP_SLOTn.CTX (12 R346). -/
def kpSlotCtx (i : Nat) : Field := ⟨0x10200 + 4 * i, 0, 6⟩
/-- KP_SLOTn.BOUND (12 R346). -/
def kpSlotBound (i : Nat) : Field := ⟨0x10200 + 4 * i, 6, 1⟩
/-- KP_SLOTn.ACTIVE (12 R346). -/
def kpSlotActive (i : Nat) : Field := ⟨0x10200 + 4 * i, 7, 1⟩
/-- KP_SLOTn.QUEUE (12 R346). -/
def kpSlotQueue (i : Nat) : Field := ⟨0x10200 + 4 * i, 8, 14⟩
/-- KP_COURSE_LO.COUNT (02 R38). -/
def kpCourseLoCount : Field := ⟨0x20000, 0, 32⟩
/-- KP_COURSE_HI.COUNT (02 R38 R39). -/
def kpCourseHiCount : Field := ⟨0x20004, 0, 16⟩
/-- KP_COURSE_PHASE.REF (02 R40). -/
def kpCoursePhaseRef : Field := ⟨0x20008, 0, 10⟩
/-- KP_CLOCK.SPREAD (02 R37). -/
def kpClockSpread : Field := ⟨0x2000c, 0, 1⟩
/-- KP_CLOCK.MHZ (02 R37). -/
def kpClockMhz : Field := ⟨0x2000c, 16, 16⟩
/-- KP_BEACON.ROLE (02 R49-R52). -/
def kpBeaconRole : Field := ⟨0x20010, 0, 2⟩
/-- KP_BEACON.LOCK (02 R49-R52). -/
def kpBeaconLock : Field := ⟨0x20010, 2, 1⟩
/-- KP_BEACON.UPPORT (02 R49-R52). -/
def kpBeaconUpport : Field := ⟨0x20010, 3, 5⟩
/-- KP_BEACON.ERROR (02 R49-R52). -/
def kpBeaconError : Field := ⟨0x20010, 16, 16⟩
/-- KP_BEACON_OFS_LO.OFS (02 R52). -/
def kpBeaconOfsLoOfs : Field := ⟨0x20014, 0, 32⟩
/-- KP_BEACON_OFS_HI.OFS (02 R39 R52). -/
def kpBeaconOfsHiOfs : Field := ⟨0x20018, 0, 16⟩
/-- KP_COORD.X (14 R397). -/
def kpCoordX : Field := ⟨0x20020, 0, 4⟩
/-- KP_COORD.Y (14 R397). -/
def kpCoordY : Field := ⟨0x20020, 4, 4⟩
/-- KP_COORD.Z (14 R397). -/
def kpCoordZ : Field := ⟨0x20020, 8, 4⟩
/-- KP_COORD.W (14 R397). -/
def kpCoordW : Field := ⟨0x20020, 12, 2⟩
/-- KP_COORD.XEXT (14 R397). -/
def kpCoordXext : Field := ⟨0x20020, 16, 4⟩
/-- KP_COORD.YEXT (14 R397). -/
def kpCoordYext : Field := ⟨0x20020, 20, 4⟩
/-- KP_COORD.ZEXT (14 R397). -/
def kpCoordZext : Field := ⟨0x20020, 24, 4⟩
/-- KP_COORD.WEXT (14 R397). -/
def kpCoordWext : Field := ⟨0x20020, 28, 2⟩
/-- KP_CUT.XROLE (15 R421). -/
def kpCutXrole : Field := ⟨0x20024, 0, 2⟩
/-- KP_CUT.YROLE (15 R421). -/
def kpCutYrole : Field := ⟨0x20024, 2, 2⟩
/-- KP_CUT.ZROLE (15 R421). -/
def kpCutZrole : Field := ⟨0x20024, 4, 2⟩
/-- KP_CUT.WROLE (15 R421). -/
def kpCutWrole : Field := ⟨0x20024, 6, 2⟩
/-- KP_CUT.VSTAGES (15 R421). -/
def kpCutVstages : Field := ⟨0x20024, 8, 4⟩
/-- EVT_BASE.ADDR_LO (02 R59). -/
def evtBaseAddrLo : Field := ⟨0x30000, 0, 32⟩
/-- EVT_BASE_HI.ADDR_HI (02 R59). -/
def evtBaseHiAddrHi : Field := ⟨0x30004, 0, 8⟩
/-- EVT_SIZE.LOG2 (02 R59). -/
def evtSizeLog2 : Field := ⟨0x30008, 0, 5⟩
/-- EVT_WRITE.INDEX (02 R57). -/
def evtWriteIndex : Field := ⟨0x3000c, 0, 32⟩
/-- EVT_READ.INDEX (02 R60). -/
def evtReadIndex : Field := ⟨0x30010, 0, 32⟩
/-- EVT_LOST.COUNT (02 R57). -/
def evtLostCount : Field := ⟨0x30014, 0, 32⟩
/-- EVT_CTL.EN (02 R59). -/
def evtCtlEn : Field := ⟨0x30018, 0, 1⟩
/-- EVT_CTL.CEN (02 R59). -/
def evtCtlCen : Field := ⟨0x30018, 1, 1⟩
/-- EVT_CBASE.ADDR_LO (14 R403). -/
def evtCbaseAddrLo : Field := ⟨0x30020, 0, 32⟩
/-- EVT_CBASE_HI.ADDR_HI (14 R403). -/
def evtCbaseHiAddrHi : Field := ⟨0x30024, 0, 8⟩
/-- EVT_CSIZE.LOG2 (14 R403). -/
def evtCsizeLog2 : Field := ⟨0x30028, 0, 5⟩
/-- EVT_CWRITE.INDEX (14 R403). -/
def evtCwriteIndex : Field := ⟨0x3002c, 0, 32⟩
/-- EVT_CREAD.INDEX (14 R403, 02 R60). -/
def evtCreadIndex : Field := ⟨0x30030, 0, 32⟩
/-- EVT_CLOST.COUNT (14 R403). -/
def evtClostCount : Field := ⟨0x30034, 0, 32⟩
/-- PEG_COUNTn.COUNT (11 R306). -/
def pegCountCount (i : Nat) : Field := ⟨0x40000 + 4 * i, 0, 32⟩
/-- TIE_STATt.ARRIVED (11 R315). -/
def tieStatArrived (i : Nat) : Field := ⟨0x80000 + 4 * i, 0, 8⟩
/-- TIE_STATt.MEMBERS (11 R315). -/
def tieStatMembers (i : Nat) : Field := ⟨0x80000 + 4 * i, 8, 8⟩
/-- TIE_STATt.GEN (11 R315). -/
def tieStatGen (i : Nat) : Field := ⟨0x80000 + 4 * i, 16, 16⟩
/-- TIE_RELt.PEG (11 R315). -/
def tieRelPeg (i : Nat) : Field := ⟨0x84000 + 4 * i, 0, 16⟩
/-- FL_PSTAT.PGOOD (18 R478). -/
def flPstatPgood : Field := ⟨0x100000, 0, 1⟩
/-- FL_PSTAT.FAILRAIL (18 R478). -/
def flPstatFailrail : Field := ⟨0x100000, 1, 3⟩
/-- FL_PSTAT.LASTUV (18 R478). -/
def flPstatLastuv : Field := ⟨0x100000, 4, 1⟩
/-- FL_PSTAT.LASTOP (18 R478). -/
def flPstatLastop : Field := ⟨0x100000, 5, 1⟩
/-- FL_VIN.DV (18 R493). -/
def flVinDv : Field := ⟨0x100004, 0, 16⟩
/-- FL_VIN.BUS (18 R493). -/
def flVinBus : Field := ⟨0x100004, 16, 16⟩
/-- FL_PIN.W (18 R494). -/
def flPinW : Field := ⟨0x100008, 0, 16⟩
/-- FL_PIN.PEAK (18 R494). -/
def flPinPeak : Field := ⟨0x100008, 16, 16⟩
/-- FL_TEMP.DIE (18 R493). -/
def flTempDie : Field := ⟨0x10000c, 0, 8⟩
/-- FL_TEMP.WHICH (18 R493). -/
def flTempWhich : Field := ⟨0x10000c, 8, 5⟩
/-- FL_GPIO.OUT (19 R502). -/
def flGpioOut : Field := ⟨0x100100, 0, 8⟩
/-- FL_GPIO.OE (19 R502). -/
def flGpioOe : Field := ⟨0x100100, 8, 8⟩
/-- FL_GPIO.IN (19 R502). -/
def flGpioIn : Field := ⟨0x100100, 16, 8⟩
/-- FL_ALERT.PWR (19 R502). -/
def flAlertPwr : Field := ⟨0x100104, 0, 1⟩
/-- FL_ALERT.FATAL (19 R502). -/
def flAlertFatal : Field := ⟨0x100104, 1, 1⟩
/-- FL_ALERT.BRINGUP (19 R502). -/
def flAlertBringup : Field := ⟨0x100104, 2, 1⟩
/-- FL_ALERT.ILK (19 R502). -/
def flAlertIlk : Field := ⟨0x100104, 3, 1⟩
/-- FL_ALERT.SVC (19 R502). -/
def flAlertSvc : Field := ⟨0x100104, 4, 1⟩
/-- FL_ALERT.FW (19 R502). -/
def flAlertFw : Field := ⟨0x100104, 5, 1⟩
/-- FL_ALERT.RSTPULSE (19 R502). -/
def flAlertRstpulse : Field := ⟨0x100104, 6, 1⟩
/-- FL_ALERTEN.EN (19 R502). -/
def flAlertenEn : Field := ⟨0x100108, 0, 7⟩
/-- FL_SLOT.SLOTID (19 R495). -/
def flSlotSlotid : Field := ⟨0x10010c, 0, 6⟩
/-- FL_ILK.CLOSED (19 R503). -/
def flIlkClosed : Field := ⟨0x100110, 0, 1⟩
/-- FL_ILK.LIT (19 R503). -/
def flIlkLit : Field := ⟨0x100110, 1, 4⟩
/-- FL_ILK.OPENS (19 R503). -/
def flIlkOpens : Field := ⟨0x100110, 8, 8⟩
/-- FL_ILK.SHORTRST (19 R503). -/
def flIlkShortrst : Field := ⟨0x100110, 16, 8⟩
/-- WTH_PLAN.FSTEP (17 R467-R471). -/
def wthPlanFstep : Field := ⟨0x140000, 0, 5⟩
/-- WTH_PLAN.REPLAN (17 R467-R471). -/
def wthPlanReplan : Field := ⟨0x140000, 5, 1⟩
/-- WTH_PLAN.ENDMARGIN (17 R467-R471). -/
def wthPlanEndmargin : Field := ⟨0x140000, 6, 1⟩
/-- WTH_PLAN.FACTORY (17 R467-R471). -/
def wthPlanFactory : Field := ⟨0x140000, 7, 1⟩
/-- WTH_NEXT.COURSES (17 R466). -/
def wthNextCourses : Field := ⟨0x140004, 0, 20⟩
/-- FL_SVCSTAT.OPEN (19 R508-R512). -/
def flSvcstatOpen : Field := ⟨0x180000, 0, 1⟩
/-- FL_SVCSTAT.PWSET (19 R508-R512). -/
def flSvcstatPwset : Field := ⟨0x180000, 1, 1⟩
/-- FL_SVCSTAT.BUSY (19 R508-R512). -/
def flSvcstatBusy : Field := ⟨0x180000, 2, 1⟩
/-- FL_SVCSTAT.LOCKOUT (19 R508-R512). -/
def flSvcstatLockout : Field := ⟨0x180000, 3, 1⟩
/-- FL_SVCSTAT.TRIES (19 R508-R512). -/
def flSvcstatTries : Field := ⟨0x180000, 4, 3⟩
/-- FL_SVCSTAT.HOW (19 R508-R512). -/
def flSvcstatHow : Field := ⟨0x180000, 7, 2⟩
/-- FL_SVCSTAT.LASTFAIL (19 R508-R512). -/
def flSvcstatLastfail : Field := ⟨0x180000, 9, 1⟩
/-- FL_SVCCMD.CMD (19 R512). -/
def flSvccmdCmd : Field := ⟨0x180004, 0, 4⟩
/-- FL_SVCCMD.RSV (19 R512). -/
def flSvccmdRsv : Field := ⟨0x180004, 4, 20⟩
/-- FL_SVCCMD.KEY (19 R512). -/
def flSvccmdKey : Field := ⟨0x180004, 24, 8⟩
/-- FL_SVCLEN.LEN (19 R512). -/
def flSvclenLen : Field := ⟨0x180008, 0, 7⟩
/-- FL_FWSTAT.SLOT (19 R505-R507). -/
def flFwstatSlot : Field := ⟨0x180040, 0, 1⟩
/-- FL_FWSTAT.AOK (19 R505-R507). -/
def flFwstatAok : Field := ⟨0x180040, 1, 1⟩
/-- FL_FWSTAT.BOK (19 R505-R507). -/
def flFwstatBok : Field := ⟨0x180040, 2, 1⟩
/-- FL_FWSTAT.SVN (19 R505-R507). -/
def flFwstatSvn : Field := ⟨0x180040, 8, 8⟩
/-- FL_FWCTL.INSTALL (19 R507). -/
def flFwctlInstall : Field := ⟨0x180044, 0, 1⟩
/-- FL_FWCTL.COMMIT (19 R507). -/
def flFwctlCommit : Field := ⟨0x180044, 1, 1⟩
/-- FL_FWADDR.ADDR_LO (19 R507). -/
def flFwaddrAddrLo : Field := ⟨0x180048, 0, 32⟩
/-- FL_FWADDR_HI.ADDR_HI (19 R507). -/
def flFwaddrHiAddrHi : Field := ⟨0x18004c, 0, 8⟩
/-- FL_SVCBUF.DATA (19 R509-R512). -/
def flSvcbufData (i : Nat) : Field := ⟨0x180100 + 4 * i, 0, 32⟩
/-- FL_CHAL.DATA (19 R511). -/
def flChalData (i : Nat) : Field := ⟨0x180200 + 4 * i, 0, 32⟩
/-- BAY_SLIP.COUNT (02 R43). -/
def baySlipCount (b : PBay) : Field := ⟨bayBase b + 0xe000, 0, 16⟩
/-- BAY_SLIP.LAST (02 R43). -/
def baySlipLast (b : PBay) : Field := ⟨bayBase b + 0xe000, 16, 16⟩
/-- BAY_CVT0.SAT (03 R90). -/
def bayCvt0Sat (b : PBay) : Field := ⟨bayBase b + 0xe010, 0, 16⟩
/-- BAY_CVT0.NANZ (03 R90). -/
def bayCvt0Nanz (b : PBay) : Field := ⟨bayBase b + 0xe010, 16, 16⟩
/-- BAY_CVT1.FLUSH (03 R90). -/
def bayCvt1Flush (b : PBay) : Field := ⟨bayBase b + 0xe014, 0, 16⟩
/-- BAY_FAST0.FLUSH (04 R117). -/
def bayFast0Flush (b : PBay) : Field := ⟨bayBase b + 0xe018, 0, 16⟩
/-- BAY_FAST0.SAT (04 R117). -/
def bayFast0Sat (b : PBay) : Field := ⟨bayBase b + 0xe018, 16, 16⟩
/-- BAY_FAST1.NAN (04 R117). -/
def bayFast1Nan (b : PBay) : Field := ⟨bayBase b + 0xe01c, 0, 16⟩
/-- BAY_FAST1.IOVF (04 R117). -/
def bayFast1Iovf (b : PBay) : Field := ⟨bayBase b + 0xe01c, 16, 16⟩
/-- BAY_SFLAGS.INEXACT (04 R117). -/
def baySflagsInexact (b : PBay) : Field := ⟨bayBase b + 0xe020, 0, 1⟩
/-- BAY_SFLAGS.UNDERFLOW (04 R117). -/
def baySflagsUnderflow (b : PBay) : Field := ⟨bayBase b + 0xe020, 1, 1⟩
/-- BAY_SFLAGS.OVERFLOW (04 R117). -/
def baySflagsOverflow (b : PBay) : Field := ⟨bayBase b + 0xe020, 2, 1⟩
/-- BAY_SFLAGS.DIVZERO (04 R117). -/
def baySflagsDivzero (b : PBay) : Field := ⟨bayBase b + 0xe020, 3, 1⟩
/-- BAY_SFLAGS.INVALID (04 R117). -/
def baySflagsInvalid (b : PBay) : Field := ⟨bayBase b + 0xe020, 4, 1⟩
/-- BAY_FRZDRY.COUNT (05 R133). -/
def bayFrzdryCount (b : PBay) : Field := ⟨bayBase b + 0xe030, 0, 32⟩
/-- BAY_FRZFULL.COUNT (05 R133). -/
def bayFrzfullCount (b : PBay) : Field := ⟨bayBase b + 0xe034, 0, 32⟩
/-- BAY_FRZTOT.COUNT (05 R133). -/
def bayFrztotCount (b : PBay) : Field := ⟨bayBase b + 0xe038, 0, 32⟩
/-- BAY_FRZWHO.ROW (05 R133). -/
def bayFrzwhoRow (b : PBay) : Field := ⟨bayBase b + 0xe03c, 0, 7⟩
/-- BAY_FRZWHO.ROWV (05 R133). -/
def bayFrzwhoRowv (b : PBay) : Field := ⟨bayBase b + 0xe03c, 7, 1⟩
/-- BAY_FRZWHO.COL (05 R133). -/
def bayFrzwhoCol (b : PBay) : Field := ⟨bayBase b + 0xe03c, 8, 7⟩
/-- BAY_FRZWHO.COLV (05 R133). -/
def bayFrzwhoColv (b : PBay) : Field := ⟨bayBase b + 0xe03c, 15, 1⟩
/-- BAY_STWAIT.COUNT (05 R133). -/
def bayStwaitCount (b : PBay) : Field := ⟨bayBase b + 0xe040, 0, 32⟩
/-- BAY_TRUSS.BUSY (05 R145). -/
def bayTrussBusy (b : PBay) : Field := ⟨bayBase b + 0xe044, 0, 1⟩
/-- BAY_TRUSS.SPLIT (05 R145). -/
def bayTrussSplit (b : PBay) : Field := ⟨bayBase b + 0xe044, 1, 1⟩
/-- BAY_TRUSS.FROZEN (05 R145). -/
def bayTrussFrozen (b : PBay) : Field := ⟨bayBase b + 0xe044, 2, 1⟩
/-- BAY_TRUSS.FAULTLO (05 R145). -/
def bayTrussFaultlo (b : PBay) : Field := ⟨bayBase b + 0xe044, 3, 1⟩
/-- BAY_TRUSS.FAULTHI (05 R145). -/
def bayTrussFaulthi (b : PBay) : Field := ⟨bayBase b + 0xe044, 4, 1⟩
/-- BAY_TRUSS.TALLY (05 R145). -/
def bayTrussTally (b : PBay) : Field := ⟨bayBase b + 0xe044, 5, 1⟩
/-- BAY_TRUSS.CLASS (05 R145). -/
def bayTrussClass (b : PBay) : Field := ⟨bayBase b + 0xe044, 6, 2⟩
/-- BAY_ROWST0.CLAMP (06 R170). -/
def bayRowst0Clamp (b : PBay) : Field := ⟨bayBase b + 0xe050, 0, 16⟩
/-- BAY_ROWST0.SUMSAT (06 R170). -/
def bayRowst0Sumsat (b : PBay) : Field := ⟨bayBase b + 0xe050, 16, 16⟩
/-- BAY_ROWST1.VARNEG (06 R170). -/
def bayRowst1Varneg (b : PBay) : Field := ⟨bayBase b + 0xe054, 0, 16⟩
/-- BAY_ROWST1.NANROW (06 R170). -/
def bayRowst1Nanrow (b : PBay) : Field := ⟨bayBase b + 0xe054, 16, 16⟩
/-- BAY_ATTN0.SKIP (08 R219). -/
def bayAttn0Skip (b : PBay) : Field := ⟨bayBase b + 0xe060, 0, 32⟩
/-- BAY_ATTN1.RUN (08 R219). -/
def bayAttn1Run (b : PBay) : Field := ⟨bayBase b + 0xe064, 0, 32⟩
/-- BAY_LATHC0.FEED (10 R264). -/
def bayLathc0Feed (b : PBay) : Field := ⟨bayBase b + 0xe070, 0, 16⟩
/-- BAY_LATHC0.GUT (10 R264). -/
def bayLathc0Gut (b : PBay) : Field := ⟨bayBase b + 0xe070, 16, 16⟩
/-- BAY_LATHC1.FILL (10 R264). -/
def bayLathc1Fill (b : PBay) : Field := ⟨bayBase b + 0xe074, 0, 16⟩
/-- BAY_LATHC1.PURL (10 R264). -/
def bayLathc1Purl (b : PBay) : Field := ⟨bayBase b + 0xe074, 16, 16⟩
/-- BAY_ECC.CORR (10 R286). -/
def bayEccCorr (b : PBay) : Field := ⟨bayBase b + 0xe078, 0, 16⟩
/-- BAY_ECC.UNCORR (10 R286). -/
def bayEccUncorr (b : PBay) : Field := ⟨bayBase b + 0xe078, 16, 16⟩
/-- BAY_SCHED.OCC (12 R346). -/
def baySchedOcc (b : PBay) : Field := ⟨bayBase b + 0xe080, 0, 6⟩
/-- BAY_SCHED.OCCV (12 R346). -/
def baySchedOccv (b : PBay) : Field := ⟨bayBase b + 0xe080, 6, 1⟩
/-- BAY_SCHED.SWAP (12 R346). -/
def baySchedSwap (b : PBay) : Field := ⟨bayBase b + 0xe080, 7, 1⟩
/-- BAY_SCHED.SLIP (12 R346). -/
def baySchedSlip (b : PBay) : Field := ⟨bayBase b + 0xe080, 8, 1⟩
/-- BAY_SCHED.SELECTED (12 R346). -/
def baySchedSelected (b : PBay) : Field := ⟨bayBase b + 0xe080, 16, 16⟩
/-- BAY_SWAPS.COUNT (12 R346). -/
def baySwapsCount (b : PBay) : Field := ⟨bayBase b + 0xe084, 0, 16⟩
/-- BAY_SWAPS.GUARD (12 R346). -/
def baySwapsGuard (b : PBay) : Field := ⟨bayBase b + 0xe084, 16, 16⟩
/-- BAY_WAITMAX.LC (12 R346). -/
def bayWaitmaxLc (b : PBay) : Field := ⟨bayBase b + 0xe088, 0, 16⟩
/-- BAY_WAITMAX.BE (12 R346). -/
def bayWaitmaxBe (b : PBay) : Field := ⟨bayBase b + 0xe088, 16, 16⟩
/-- LOFT_HIT.COUNT (10 R273). -/
def loftHitCount (die : Nat) : Field := ⟨rafterBase die + 0x90000 + 0x0, 0, 32⟩
/-- LOFT_MISS.COUNT (10 R273). -/
def loftMissCount (die : Nat) : Field := ⟨rafterBase die + 0x90000 + 0x4, 0, 32⟩
/-- LOFT_KEEPCTL.EN (10 R272). -/
def loftKeepctlEn (die : Nat) : Field := ⟨rafterBase die + 0x90000 + 0x8, 0, 4⟩
/-- LOFT_ECC.CORR (10 R286). -/
def loftEccCorr (die : Nat) : Field := ⟨rafterBase die + 0x90000 + 0xc, 0, 16⟩
/-- LOFT_ECC.UNCORR (10 R286). -/
def loftEccUncorr (die : Nat) : Field := ⟨rafterBase die + 0x90000 + 0xc, 16, 16⟩
/-- LOFT_KEEPw.BASE (10 R272). -/
def loftKeepBase (die : Nat) (i : Nat) : Field := ⟨rafterBase die + 0x90000 + 0x10 + 16 * i, 0, 32⟩
/-- LOFT_KEEPw.BASE_HI (10 R272). -/
def loftKeepBaseHi (die : Nat) (i : Nat) : Field := ⟨rafterBase die + 0x90000 + 0x14 + 16 * i, 0, 8⟩
/-- LOFT_KEEPw.LIMIT (10 R272). -/
def loftKeepLimit (die : Nat) (i : Nat) : Field := ⟨rafterBase die + 0x90000 + 0x18 + 16 * i, 0, 32⟩
/-- LOFT_KEEPw.LIMIT_HI (10 R272). -/
def loftKeepLimitHi (die : Nat) (i : Nat) : Field := ⟨rafterBase die + 0x90000 + 0x1c + 16 * i, 0, 8⟩
/-- WTH_BAYb.SLACK (17 R467). -/
def wthBaySlack (die : Nat) (i : Nat) : Field := ⟨rafterBase die + 0xE0000 + 0x0 + 4 * i, 0, 12⟩
/-- WTH_RAIL.VSTEP (17 R467). -/
def wthRailVstep (die : Nat) : Field := ⟨rafterBase die + 0xE0000 + 0x40, 0, 3⟩
/-- BAY_SPARE.SPARE (01 R15). -/
def baySpareSpare (die : Nat) : Field := ⟨rafterBase die + 0xF0000 + 0x0, 0, 4⟩
/-- BAY_SPARE.INSERVICE (01 R15). -/
def baySpareInservice (die : Nat) : Field := ⟨rafterBase die + 0xF0000 + 0x0, 4, 4⟩
/-- BAY_SPARE.RETIRED (01 R15). -/
def baySpareRetired (die : Nat) : Field := ⟨rafterBase die + 0xF0000 + 0x0, 8, 9⟩
/-- BAY_FAULT.PBAY (17 R473). -/
def bayFaultPbay (die : Nat) : Field := ⟨rafterBase die + 0xF0000 + 0x4, 0, 4⟩
/-- BAY_FAULT.CAUSE (17 R473). -/
def bayFaultCause (die : Nat) : Field := ⟨rafterBase die + 0xF0000 + 0x4, 4, 3⟩
/-- BAY_FAULT.VALID (17 R473). -/
def bayFaultValid (die : Nat) : Field := ⟨rafterBase die + 0xF0000 + 0x4, 7, 1⟩
/-- BAY_FAULT.COURSE (17 R473). -/
def bayFaultCourse (die : Nat) : Field := ⟨rafterBase die + 0xF0000 + 0x4, 8, 24⟩
/-- BAY_MAP.LOG (01 R15). -/
def bayMapLog (die : Nat) : Field := ⟨rafterBase die + 0xF0000 + 0x8, 0, 32⟩
/-- EAV_STATE.STATE (14 R418). -/
def eavStateState (port : Nat) : Field := ⟨portBase port + 0x0, 0, 3⟩
/-- EAV_STATE.LANES (14 R418). -/
def eavStateLanes (port : Nat) : Field := ⟨portBase port + 0x0, 3, 9⟩
/-- EAV_STATE.SPARED (14 R418). -/
def eavStateSpared (port : Nat) : Field := ⟨portBase port + 0x0, 12, 4⟩
/-- EAV_STATE.USE (14 R418). -/
def eavStateUse (port : Nat) : Field := ⟨portBase port + 0x0, 16, 3⟩
/-- EAV_STATE.DIR (14 R418). -/
def eavStateDir (port : Nat) : Field := ⟨portBase port + 0x0, 19, 1⟩
/-- EAV_RTT.NS (14 R418). -/
def eavRttNs (port : Nat) : Field := ⟨portBase port + 0x4, 0, 16⟩
/-- EAV_PEER.COORD (14 R418). -/
def eavPeerCoord (port : Nat) : Field := ⟨portBase port + 0x8, 0, 14⟩
/-- EAV_PEER.PORT (14 R418). -/
def eavPeerPort (port : Nat) : Field := ⟨portBase port + 0x8, 14, 5⟩
/-- EAV_PEER.VALID (14 R418). -/
def eavPeerValid (port : Nat) : Field := ⟨portBase port + 0x8, 19, 1⟩
/-- EAV_FEC.CORR (14 R418). -/
def eavFecCorr (port : Nat) : Field := ⟨portBase port + 0xc, 0, 16⟩
/-- EAV_FEC.UNCORR (14 R418). -/
def eavFecUncorr (port : Nat) : Field := ⟨portBase port + 0xc, 16, 16⟩
/-- EAV_RETRY.NAK (14 R418). -/
def eavRetryNak (port : Nat) : Field := ⟨portBase port + 0x10, 0, 16⟩
/-- EAV_RETRY.DARK (14 R418). -/
def eavRetryDark (port : Nat) : Field := ⟨portBase port + 0x10, 16, 16⟩
/-- EAV_TAG.LATE (14 R418). -/
def eavTagLate (port : Nat) : Field := ⟨portBase port + 0x14, 0, 16⟩
/-- EAV_TAG.VOID (14 R418). -/
def eavTagVoid (port : Nat) : Field := ⟨portBase port + 0x14, 16, 16⟩
/-- EAV_CRED.AVAIL (14 R418). -/
def eavCredAvail (port : Nat) : Field := ⟨portBase port + 0x18, 0, 11⟩
/-- EAV_CRED.MIN (14 R418). -/
def eavCredMin (port : Nat) : Field := ⟨portBase port + 0x18, 11, 11⟩
/-- GBL_ENG.BUSY (13 R378). -/
def gblEngBusy (e : Eng) : Field := ⟨engineBase e + 0x0, 0, 1⟩
/-- GBL_ENG.LIVELOAD (13 R378). -/
def gblEngLiveload (e : Eng) : Field := ⟨engineBase e + 0x0, 4, 8⟩
/-- GBL_CNT0.EVENT (13 R378). -/
def gblCnt0Event (e : Eng) : Field := ⟨engineBase e + 0x4, 0, 16⟩
/-- GBL_CNT0.CLIP (13 R378). -/
def gblCnt0Clip (e : Eng) : Field := ⟨engineBase e + 0x4, 16, 16⟩
/-- GBL_CNT1.PRERAP (13 R378). -/
def gblCnt1Prerap (e : Eng) : Field := ⟨engineBase e + 0x8, 0, 16⟩
/-- GBL_CNT1.DEGRADED (13 R378). -/
def gblCnt1Degraded (e : Eng) : Field := ⟨engineBase e + 0x8, 16, 16⟩
/-- GBL_SESSn.STATE (13 R378). -/
def gblSessState (e : Eng) (i : Nat) : Field := ⟨engineBase e + 0x100 + 4 * i, 0, 3⟩
/-- GBL_SESSn.LIVE (13 R378). -/
def gblSessLive (e : Eng) (i : Nat) : Field := ⟨engineBase e + 0x100 + 4 * i, 3, 1⟩
/-- GBL_SESSn.CODEC (13 R378). -/
def gblSessCodec (e : Eng) (i : Nat) : Field := ⟨engineBase e + 0x100 + 4 * i, 4, 1⟩
/-- GBL_SESSn.QDEPTH (13 R378). -/
def gblSessQdepth (e : Eng) (i : Nat) : Field := ⟨engineBase e + 0x100 + 4 * i, 5, 3⟩
/-- GBL_SESSn.PICS (13 R378). -/
def gblSessPics (e : Eng) (i : Nat) : Field := ⟨engineBase e + 0x100 + 4 * i, 8, 24⟩
/-- VLY_PRIO_LC.LEVEL (11 R305). -/
def vlyPrioLcLevel (blk : Nat) : Field := ⟨blk + 0x0, 0, 32⟩
/-- VLY_PRIO_BE.LEVEL (11 R305). -/
def vlyPrioBeLevel (blk : Nat) : Field := ⟨blk + 0x4, 0, 32⟩
/-- VLY_QUOTA.WINDOW (11 R305). -/
def vlyQuotaWindow (blk : Nat) : Field := ⟨blk + 0x8, 0, 12⟩
/-- VLY_QLIM_LCk.LIMIT (11 R305). -/
def vlyQlimLcLimit (blk : Nat) (i : Nat) : Field := ⟨blk + 0x10 + 4 * i, 0, 32⟩
/-- VLY_QLIM_BEk.LIMIT (11 R305). -/
def vlyQlimBeLimit (blk : Nat) (i : Nat) : Field := ⟨blk + 0x20 + 4 * i, 0, 32⟩
/-- VLY_COMMIT.GO (11 R305). -/
def vlyCommitGo (blk : Nat) : Field := ⟨blk + 0x30, 0, 1⟩
/-- VLY_STAT.PENDING (11 R305). -/
def vlyStatPending (blk : Nat) : Field := ⟨blk + 0x34, 0, 1⟩
/-- VLY_STAT.SLOTEN (11 R305). -/
def vlyStatSloten (blk : Nat) : Field := ⟨blk + 0x34, 1, 1⟩
/-- VLY_STAT.SLOT (11 R305). -/
def vlyStatSlot (blk : Nat) : Field := ⟨blk + 0x34, 2, 6⟩
/-- VLY_MASKED.LC (11 R305). -/
def vlyMaskedLc (blk : Nat) : Field := ⟨blk + 0x38, 0, 16⟩
/-- VLY_MASKED.BE (11 R305). -/
def vlyMaskedBe (blk : Nat) : Field := ⟨blk + 0x38, 16, 16⟩
/-- VLY_WAITMAX.OPP (11 R305). -/
def vlyWaitmaxOpp (blk : Nat) : Field := ⟨blk + 0x3c, 0, 16⟩
/-- VLY_WAITMAX.LANE (11 R305). -/
def vlyWaitmaxLane (blk : Nat) : Field := ⟨blk + 0x3c, 16, 16⟩
/-- VLY_SLOTCTL.EN (11 R305). -/
def vlySlotctlEn (blk : Nat) : Field := ⟨blk + 0x40, 0, 1⟩
/-- VLY_SLOTs.OWNERS (11 R302). -/
def vlySlotOwners (blk : Nat) (i : Nat) : Field := ⟨blk + 0x100 + 4 * i, 0, 16⟩
/-- VLY_SLOTs.LC (11 R302). -/
def vlySlotLc (blk : Nat) (i : Nat) : Field := ⟨blk + 0x100 + 4 * i, 16, 1⟩
/-- VLY_SLOTs.BE (11 R302). -/
def vlySlotBe (blk : Nat) (i : Nat) : Field := ⟨blk + 0x100 + 4 * i, 17, 1⟩
/-- HBM_TEMP.DEGC (10 R276). -/
def hbmTempDegc (die : Nat) : Field := ⟨rafterBase die + 0xB0000 + 0x0, 0, 8⟩
/-- HBM_TEMP.HOT (10 R276). -/
def hbmTempHot (die : Nat) : Field := ⟨rafterBase die + 0xB0000 + 0x0, 8, 1⟩
/-- HBM_ECC.CORR (10 R288). -/
def hbmEccCorr (die : Nat) : Field := ⟨rafterBase die + 0xB0000 + 0x4, 0, 16⟩
/-- HBM_ECC.UNCORR (10 R288). -/
def hbmEccUncorr (die : Nat) : Field := ⟨rafterBase die + 0xB0000 + 0x4, 16, 16⟩
/-- HBM_ERRADDR.OFS_LO (10 R289). -/
def hbmErraddrOfsLo (die : Nat) : Field := ⟨rafterBase die + 0xB0000 + 0x8, 0, 32⟩
/-- HBM_ERRADDR_HI.OFS_HI (10 R289). -/
def hbmErraddrHiOfsHi (die : Nat) : Field := ⟨rafterBase die + 0xB0000 + 0xc, 0, 4⟩
/-- HBM_KEEPw.BASE (10 R272). -/
def hbmKeepBase (die : Nat) (i : Nat) : Field := ⟨rafterBase die + 0xB0000 + 0x10 + 16 * i, 0, 32⟩
/-- HBM_KEEPw.BASE_HI (10 R272). -/
def hbmKeepBaseHi (die : Nat) (i : Nat) : Field := ⟨rafterBase die + 0xB0000 + 0x14 + 16 * i, 0, 8⟩
/-- HBM_KEEPw.LIMIT (10 R272). -/
def hbmKeepLimit (die : Nat) (i : Nat) : Field := ⟨rafterBase die + 0xB0000 + 0x18 + 16 * i, 0, 32⟩
/-- HBM_KEEPw.LIMIT_HI (10 R272). -/
def hbmKeepLimitHi (die : Nat) (i : Nat) : Field := ⟨rafterBase die + 0xB0000 + 0x1c + 16 * i, 0, 8⟩
/-- HBM_RETIRE.THRESH (10 R290). -/
def hbmRetireThresh (die : Nat) : Field := ⟨rafterBase die + 0xB0000 + 0x80, 0, 8⟩
/-- HBM_RETIRE.COUNT (10 R290). -/
def hbmRetireCount (die : Nat) : Field := ⟨rafterBase die + 0xB0000 + 0x80, 8, 8⟩
/-- HBM_RETIRE.SPARES (10 R290). -/
def hbmRetireSpares (die : Nat) : Field := ⟨rafterBase die + 0xB0000 + 0x80, 16, 8⟩
/-- HBM_RETIRE.PENDING (10 R290). -/
def hbmRetirePending (die : Nat) : Field := ⟨rafterBase die + 0xB0000 + 0x80, 24, 8⟩
/-- HBM_RLISTk.PAGE (10 R290). -/
def hbmRlistPage (die : Nat) (i : Nat) : Field := ⟨rafterBase die + 0xB0000 + 0x100 + 4 * i, 0, 20⟩
/-- HBM_RLISTk.VALID (10 R290). -/
def hbmRlistValid (die : Nat) (i : Nat) : Field := ⟨rafterBase die + 0xB0000 + 0x100 + 4 * i, 31, 1⟩
/-- UND_GROUP.EN (10 R284). -/
def undGroupEn (die : Nat) : Field := ⟨rafterBase die + 0xC0000 + 0x0, 0, 1⟩
/-- UND_GROUP.BATCH (10 R284). -/
def undGroupBatch (die : Nat) : Field := ⟨rafterBase die + 0xC0000 + 0x0, 1, 7⟩
/-- UND_GROUP.AGE (10 R284). -/
def undGroupAge (die : Nat) : Field := ⟨rafterBase die + 0xC0000 + 0x0, 8, 8⟩
/-- UND_GROUP.HIGH (10 R284). -/
def undGroupHigh (die : Nat) : Field := ⟨rafterBase die + 0xC0000 + 0x0, 16, 9⟩
/-- UND_COMMIT.GO (10 R284). -/
def undCommitGo (die : Nat) : Field := ⟨rafterBase die + 0xC0000 + 0x4, 0, 1⟩
/-- UND_STAT.OCC (10 R284). -/
def undStatOcc (die : Nat) : Field := ⟨rafterBase die + 0xC0000 + 0x8, 0, 9⟩
/-- UND_STAT.PEAK (10 R284). -/
def undStatPeak (die : Nat) : Field := ⟨rafterBase die + 0xC0000 + 0x8, 9, 9⟩
/-- UND_MERGE.COUNT (10 R284). -/
def undMergeCount (die : Nat) : Field := ⟨rafterBase die + 0xC0000 + 0xc, 0, 32⟩
/-- UND_RMW.COUNT (10 R280). -/
def undRmwCount (die : Nat) : Field := ⟨rafterBase die + 0xC0000 + 0x10, 0, 32⟩
/-- UND_FULL.COUNT (10 R282). -/
def undFullCount (die : Nat) : Field := ⟨rafterBase die + 0xC0000 + 0x14, 0, 32⟩

end Reg

end Sys2Proof.Machine
end

