-- ==== Sys2Proof/Machine/Ops.lean ====
section
/-! DEFINITION. The named operations over registers, event records, module memory, the Lath, stream
slots and pegs. Every meaning reads and writes the state through these. -/

namespace Sys2Proof.Machine

/-! ### Bytes -/

/-- The number that a list of bytes spells, little-endian (00 R8). -/
def ofLe (bs : List Byte) : Nat := bs.foldr (fun b n => b.toNat + 256 * n) 0

/-- The `n` bytes of a number, little-endian (00 R8). -/
def toLe (n v : Nat) : List Byte :=
  match n with
  | 0 => []
  | k + 1 => BitVec.ofNat 8 v :: toLe k (v / 256)

/-- `n` bytes of a list from position `i`, little-endian; bytes beyond its end count as 0. -/
def le (bs : List Byte) (i n : Nat) : Nat := ofLe ((bs.drop i).take n)

/-- Ceiling division. -/
def ceilDiv (a b : Nat) : Nat := (a + b - 1) / b

/-- A signed number in `w` bits, two's complement. -/
def toTwos (w : Nat) (x : Int) : Nat := (x % (2 ^ w : Nat)).toNat

/-- The signed value of `w` bits in two's complement. -/
def ofTwos (w x : Nat) : Int :=
  if x % 2 ^ w < 2 ^ (w - 1) then (x % 2 ^ w : Nat) else (x % 2 ^ w : Nat) - (2 ^ w : Nat)

/-- A number held at most at its limit (saturation). -/
def satTo (limit v : Nat) : Nat := min v limit

/-- Replaces the element at an index of a list. -/
def putAt {α : Type} (l : List α) (i : Nat) (v : α) : List α := l.set i v

/-! ### Registers -/

/-- The word stored for a register (00 R5). -/
def State.reg (s : State) (off : Nat) : Word := Store.get s.regs off (RegMap.resetWord off)

/-- Stores a register's word. -/
def State.setReg (s : State) (off : Nat) (w : Word) : State :=
  { s with regs := Store.set s.regs off w (RegMap.resetWord off) }

/-- A field of a stored register. -/
def State.fld (s : State) (f : Field) : Nat := bits (s.reg f.off).toNat f.lo f.width

/-- Sets a field of a stored register; the other bits keep their values. -/
def State.setFld (s : State) (f : Field) (v : Nat) : State :=
  s.setReg f.off (BitVec.ofNat 32 (putBits (s.reg f.off).toNat f.lo f.width v))

/-- Adds a count to a counting field, saturating at all ones (03 R90 and the register tables). -/
def State.bump (s : State) (f : Field) (n : Nat) : State :=
  s.setFld f (satTo (2 ^ f.width - 1) (s.fld f + n))

/-- Adds 1 to an indexing field, modulo its width. -/
def State.step1 (s : State) (f : Field) : State := s.setFld f (s.fld f + 1)

/-- Returns a register to its after-reset value. -/
def State.resetReg (s : State) (off : Nat) : State := { s with regs := Store.erase s.regs off }

/-- Returns to their after-reset values all registers whose offset meets a test. -/
def State.resetRegs (s : State) (p : Nat → Bool) : State :=
  { s with regs := s.regs.filter fun e => !p e.1 }

/-- The bits of a word that the fields of a register hold. -/
def keptBits (off v : Nat) : Nat :=
  match RegMap.at? off with
  | none => 0
  | some r => r.fields.foldl (fun n f => n + bits v f.lo f.width * 2 ^ f.lo) 0

/-- The live word of an RWS register (00 R9). -/
def State.liveReg (s : State) (off : Nat) : Word := Store.get s.live off (RegMap.resetWord off)

/-- Makes a word live. -/
def State.setLive (s : State) (off : Nat) (w : Word) : State :=
  { s with live := Store.set s.live off w (RegMap.resetWord off) }

/-- A field of a live RWS register. -/
def State.liveFld (s : State) (f : Field) : Nat := bits (s.liveReg f.off).toNat f.lo f.width

/-- The word of an arbiter register in the set before the last commit (11 R304). -/
def State.prevReg (s : State) (off : Nat) : Word := Store.get s.prev off (RegMap.resetWord off)

/-- Bit 0 of a field. -/
def State.flag (s : State) (f : Field) : Bool := s.fld f = 1

/-- Sets a one-bit field. -/
def State.setFlag (s : State) (f : Field) (b : Bool) : State := s.setFld f (if b then 1 else 0)

/-- An open value, and the state with the count of them advanced (log entry 11). -/
def State.takeFree (s : State) : Nat × State :=
  (Config.freeValue s.free, { s with free := s.free + 1 })

/-! ### Records of the parts -/

/-- Key of a physical bay. -/
def bayKey (b : PBay) : Nat := 9 * b.die + b.pbay

/-- The physical bays of a Rafter die (01 R12). -/
def dieBays (die : Nat) : List PBay := (List.range 9).map fun p => ⟨die, p⟩

/-- What a physical bay holds. -/
def State.bay (s : State) (b : PBay) : BayState := Store.get s.bays (bayKey b) BayState.empty

/-- Replaces what a physical bay holds. -/
def State.setBay (s : State) (b : PBay) (v : BayState) : State :=
  { s with bays := Store.set s.bays (bayKey b) v BayState.empty }

/-- The physical bay that serves a logical bay, by BAY_MAP (01 R15); none where the field is 0xF. -/
def State.physical (s : State) (b : Bay) : Option PBay :=
  let p := bits (s.fld (Reg.bayMapLog b.die)) (4 * b.lbay) 4
  if p = 0xF then none else some ⟨b.die, p⟩

/-- The logical bay that a physical bay serves, by BAY_MAP. -/
def State.logical (s : State) (b : PBay) : Option Bay :=
  ((List.range 8).find? fun l => bits (s.fld (Reg.bayMapLog b.die)) (4 * l) 4 = b.pbay).map
    fun l => ⟨b.die, l⟩

/-- Run-time state of a queue. -/
def State.queue (s : State) (q : Nat) : QueueState := Store.get s.queues q QueueState.empty

/-- Replaces the run-time state of a queue. -/
def State.setQueue (s : State) (q : Nat) (v : QueueState) : State :=
  { s with queues := Store.set s.queues q v QueueState.empty }

/-- What a port holds. -/
def State.port (s : State) (p : Nat) : Port := Store.get s.ports p Port.empty

/-- Replaces what a port holds. -/
def State.setPort (s : State) (p : Nat) (v : Port) : State :=
  { s with ports := Store.set s.ports p v Port.empty }

/-- The counts of an arbiter block. -/
def State.arb (s : State) (blk : Nat) : ArbState := Store.get s.arbs blk ArbState.empty

/-- Replaces the counts of an arbiter block. -/
def State.setArb (s : State) (blk : Nat) (v : ArbState) : State :=
  { s with arbs := Store.set s.arbs blk v ArbState.empty }

/-- Key of a session slot or pre-processor queue. -/
def engKey (e : Eng) (slot : Nat) : Nat :=
  match e.kind with
  | .decode => 128 * e.gable + 8 * e.idx + slot
  | .encode => 128 * e.gable + 64 + 8 * e.idx + slot
  | .preprocess => 256 + e.gable

/-- A session slot. -/
def State.session (s : State) (e : Eng) (slot : Nat) : Session :=
  Store.get s.media (engKey e slot) Session.closed

/-- Replaces a session slot. -/
def State.setSession (s : State) (e : Eng) (slot : Nat) (v : Session) : State :=
  { s with media := Store.set s.media (engKey e slot) v Session.closed }

/-- The queue entry of a work queue that the loaded image binds (16 R442). -/
def State.queueEntry (s : State) (q : Nat) : Option QueueEntry :=
  s.image.bind fun i => i.queues[q]?

/-- A context of the loaded image. -/
def State.context (s : State) (c : Nat) : Option Context :=
  s.image.bind fun i => i.contexts[c]?

/-- A plan record of the loaded image. -/
def State.plan (s : State) (p : Nat) : Option Plan := s.image.bind fun i => i.plans[p]?

/-- The physical bays that serve the bay group of a task's plan record, by ascending logical number
(09 R238, 12 R325). -/
def State.groupOf (s : State) (t : Task) : List PBay :=
  match s.plan (le t.desc 2 2) with
  | none => []
  | some p => ((List.range 8).filter fun l => bits p.bays l 1 = 1).filterMap fun l => s.physical ⟨p.die, l⟩

/-- The tasks that run on a physical bay: those it selected, and those of another bay whose group holds
it (12 R329). -/
def State.runningOn (s : State) (b : PBay) : List Running :=
  s.bays.flatMap fun e =>
    if e.1 / 9 = b.die then
      e.2.running.filter fun r => decide (e.1 = bayKey b) || (s.groupOf r.task).contains b
    else []

/-- A feature bit of the agreement (16 R434, R436): the agreed word holds only after the lock. -/
def State.agreed (s : State) (word bit : Nat) : Bool :=
  s.flag Reg.kpFeatstatLocked &&
    (bits (s.fld (Reg.kpFeataccBits (4 * word + bit / 32))) (bit % 32) 1 = 1)

/-- The expert level is open (16 R439). -/
def State.expert (s : State) : Bool := s.agreed 1 0

/-- Service access is open (19 R508). -/
def State.service (s : State) : Bool := s.flag Reg.flSvcstatOpen

/-- A die has power: its rails are on, and it is not off in Dormer-2 or Dormer-3 (18 R487, R477). -/
def State.powered (s : State) (die : Nat) : Bool :=
  if die = 31 then s.power.rails % 2 = 1
  else s.power.released && !s.power.dormer3 &&
    (if die < 24 then !s.transit.diesOff
     else if die < 27 then !s.transit.diesOff
     else if die = 28 ∨ die = 29 then !s.transit.diesOff
     else true)

/-- The clocks of the Rafter and Gable dies run: Dormer-1 gates them (18 R487). -/
def State.clocked (s : State) : Bool := decide (s.fld Reg.kpDormerState ≠ 1)

/-- A Rafter or Gable die works: it has power, and its clocks run (18 R487). -/
def State.dieRuns (s : State) (die : Nat) : Bool := s.powered die && s.clocked

/-- The Kingpost runs: its rails are on and module reset is released (16 R432). -/
def State.up (s : State) : Bool := s.powered 30

/-! ### Event records -/

/-- Key of a source. -/
def srcKey (src : Source) : Nat := 128 * src.die + src.unit

/-- The next SEQ of a source (02 R54). -/
def State.seq (s : State) (src : Source) : Nat := Store.get s.seqs (srcKey src) 0

/-- A record of a source, with its next SEQ and the course count (02 R53). -/
def State.record (s : State) (src : Source) (cls num detail : Nat) : EventRec :=
  { src := src, seq := s.seq src, course := s.course.count.toNat, cls := cls, num := num, detail := detail % 2 ^ 24 }

/-- Raises an event record: it takes the source's next SEQ and the course count, and waits for the
event collector (02 R53, R54). -/
def State.raise (s : State) (src : Source) (cls num detail : Nat) : State :=
  { s with
    raised := s.raised ++ [s.record src cls num detail]
    seqs := Store.set s.seqs (srcKey src) ((s.seq src + 1) % 2 ^ 32) 0 }

/-- The 16 bytes of a record (02 R53). -/
def EventRec.toBytes (r : EventRec) : List Byte :=
  toLe 16 (r.seq + r.course * 2 ^ 32 + r.src.unit * 2 ^ 80 + r.src.die * 2 ^ 87 + r.num * 2 ^ 92 +
    r.cls * 2 ^ 100 + r.detail * 2 ^ 104)

/-- Sources of 02 R53. -/
def srcBay (b : PBay) : Source := ⟨b.die, b.pbay⟩
/-- The die-common unit of a Rafter die. -/
def srcDie (die : Nat) : Source := ⟨die, 0xF⟩
/-- The memory controller of a stack: its Rafter die, unit 0x0B (01 R22). -/
def stackDie (stack : Nat) : Nat := if stack < 6 then stack else 12 + stack
/-- The stack whose controller sits on a Rafter die. -/
def dieStack (die : Nat) : Nat := if die < 6 then die else die - 12
/-- Source of a stack's controller. -/
def srcCtl (stack : Nat) : Source := ⟨stackDie stack, 0x0B⟩
/-- Source of a port. -/
def srcPort (port : Nat) : Source := ⟨24 + port / 8, port % 8⟩
/-- Source of an engine or pre-processor: encode 0x00 to 0x03, decode 0x04 to 0x07, 0x08. -/
def srcEng (e : Eng) : Source :=
  ⟨28 + e.gable, match e.kind with | .encode => e.idx | .decode => 4 + e.idx | .preprocess => 8⟩
/-- The event source of an access made through a path (19 R513). -/
def srcPath : Path → Source
  | .host => ⟨30, 0⟩
  | .bus => ⟨31, 3⟩

/-- An access event of class 0xC: 0x07 malformed, 0x08 unmapped, 0x09 die unpowered, 0x0A refused
(19 R513). -/
def State.accessEvent (s : State) (p : Path) (num off : Nat) : State :=
  s.raise (srcPath p) 0xC num (off / 16)

/-! ### Module memory -/

/-- The first address beyond the map (01 R23). -/
def memLimit : Nat := 0xC000000000

/-- The stack that holds an address (01 R22). -/
def stackOf (a : Nat) : Nat := a / 2 ^ 36

/-- What a byte of a stack, of a Lath or of a stream slot reads as while nothing is listed for it
(log entries 6 and 7). -/
def unlisted : Byte := 0

/-- Entry k of HBM_RLIST of a stack names the page of an address (10 R291). An entry of which no word is stored is
not valid, so that a stack without stored entries has no retired page. -/
def State.retired (s : State) (a : Nat) : Bool :=
  let d := stackDie (stackOf a)
  (s.regs.any fun e => decide ((Reg.hbmRlistPage d 0).off ≤ e.1 ∧ e.1 ≤ (Reg.hbmRlistPage d 63).off)) &&
    (List.range 64).any fun k =>
      s.flag (Reg.hbmRlistValid d k) && (s.fld (Reg.hbmRlistPage d k) = a % 2 ^ 36 / 2 ^ 16)

/-- The keep window of the memory controllers that holds an address (10 R273). LIMIT reads bits
[15:0] as ones in a defined window. -/
def State.keepWindow (s : State) (a : Nat) : Option Nat :=
  let d := stackDie (stackOf a)
  (List.range 4).find? fun w =>
    let base := s.fld (Reg.hbmKeepBase d w) + 2 ^ 32 * s.fld (Reg.hbmKeepBaseHi d w)
    let lim := s.fld (Reg.hbmKeepLimit d w) + 2 ^ 32 * s.fld (Reg.hbmKeepLimitHi d w)
    decide (lim ≠ 0 ∧ base ≤ a ∧ a ≤ lim)

/-- The Underlay entry of a line (10 R278). -/
def State.entry (s : State) (line : Nat) : Option UEntry := s.under.find? fun e => e.line = line

/-- A byte as the controller returns it: the Underlay's over memory's (10 R279); all ones beyond the
map or in a retired page (01 R23, 10 R291). -/
def State.peek (s : State) (a : Nat) : Byte :=
  if memLimit ≤ a ∨ s.retired a then 0xFF
  else match s.entry (a / 128) with
    | some e => (e.data.getD (a % 128) none).getD (Store.get s.mem a unlisted)
    | none => Store.get s.mem a unlisted

/-- `n` bytes from an address. -/
def State.peekN (s : State) (a n : Nat) : List Byte := (List.range n).map fun i => s.peek (a + i)

/-- A little-endian number of `n` bytes in memory. -/
def State.peekLe (s : State) (a n : Nat) : Nat := ofLe (s.peekN a n)

/-- The 32-byte sectors that a range touches. -/
def sectorsOf (a n : Nat) : List Nat :=
  if n = 0 then [] else (List.range ((a + n - 1) / 32 - a / 32 + 1)).map fun i => (a / 32 + i) * 32

/-- The page number of an address: 64 KiB pages (10 R290). -/
def pageOf (a : Nat) : Nat := a / 2 ^ 16

/-- Marks a page pending in the weathering history, once (10 R290). -/
def State.pendPage (s : State) (a : Nat) : State :=
  if pageOf a ∈ s.reliab.pagePend then s
  else
    let d := stackDie (stackOf a)
    let s := { s with reliab := { s.reliab with
      pagePend := s.reliab.pagePend ++ [pageOf a]
      pageRow := Store.set s.reliab.pageRow (pageOf a) a 0 } }
    (s.bump (Reg.hbmRetirePending d) 1).raise (srcCtl (stackOf a)) 0x3 0x04 (pageOf (a % 2 ^ 36))

/-- Notes the latest corrected or uncorrectable sector (10 HBM_ERRADDR). -/
def State.noteErr (s : State) (a : Nat) : State :=
  let d := stackDie (stackOf a)
  (s.setFld (Reg.hbmErraddrOfsLo d) (a % 2 ^ 36)).setFld (Reg.hbmErraddrHiOfsHi d) (a % 2 ^ 36 / 2 ^ 32)

/-- An uncorrectable sector is found (10 R289): counted, its page pending, the event recorded. -/
def State.uncorrectable (s : State) (a : Nat) : State :=
  let s := (s.bump (Reg.hbmEccUncorr (stackDie (stackOf a))) 1).noteErr a
  (s.raise (srcCtl (stackOf a)) 0x3 0x02 (pageOf (a % 2 ^ 36))).pendPage a

/-- The poisoned sectors among those that a range touches. -/
def State.poisonedIn (s : State) (a n : Nat) : List Nat :=
  (sectorsOf a n).filter fun x => decide (x ∈ s.poison)

/-- The first addresses of the pages that a range touches. -/
def pagesIn (a n : Nat) : List Nat :=
  if n = 0 then [] else (List.range ((a + n - 1) / 2 ^ 16 - a / 2 ^ 16 + 1)).map fun i => (a / 2 ^ 16 + i) * 2 ^ 16

/-- What reading a range records: an address-out-of-range event by the reader (01 R23), a retired-page
event for each retired page (10 R291), an uncorrectable-memory event for each poisoned sector
(10 R289); and whether the data are poisoned. -/
def State.noteRead (s : State) (src : Source) (a n : Nat) : State × Bool :=
  let inside := min n (memLimit - a)
  let s := if inside < n then s.raise src 0x3 0x01 (max a memLimit / 2 ^ 16) else s
  let s := (pagesIn a inside).foldl (fun (s : State) x =>
    if s.retired x then s.raise (srcCtl (stackOf x)) 0x3 0x06 (pageOf (x % 2 ^ 36)) else s) s
  let bad := (s.poisonedIn a inside).filter fun x => !s.retired x
  (bad.foldl State.uncorrectable s, !bad.isEmpty)

/-- Adds a sector to, or removes it from, the poisoned ones. -/
def State.setPoison (s : State) (a : Nat) (on : Bool) : State :=
  { s with poison := (s.poison.filter fun x => x ≠ a) ++ (if on then [a] else []) }

/-- Writes bytes straight into memory, past the Underlay. -/
def State.pokeN (s : State) (a : Nat) (data : List (Option Byte)) : State :=
  match data with
  | [] => s
  | none :: t => s.pokeN (a + 1) t
  | some b :: t => State.pokeN { s with mem := Store.set s.mem a b unlisted } (a + 1) t

/-- One sector of a draining entry (10 R280, R289): nothing without a masked byte; written whole when
all 32 are masked, which ends its poison; else read, merged and written whole, and counted. -/
def State.drainSector (s : State) (e : UEntry) (k : Nat) : State :=
  let d := (e.data.drop (32 * k)).take 32
  let a := e.line * 128 + 32 * k
  if d.all Option.isNone then s
  else if d.all Option.isSome then (s.pokeN a d).setPoison a false
  else
    let s := s.bump (Reg.undRmwCount (stackDie (stackOf a))) 1
    let s := if a ∈ s.poison then s.uncorrectable a else s
    s.pokeN a d

/-- Drains one entry (10 R280). -/
def State.drainEntry (s : State) (e : UEntry) : State :=
  let s := (List.range 4).foldl (fun (s : State) k => s.drainSector e k) s
  { s with under := s.under.filter fun x => x.line ≠ e.line }

/-- Entries of a stack in use. -/
def State.occupancy (s : State) (stack : Nat) : Nat :=
  (s.under.filter fun e => stackOf (e.line * 128) = stack).length

/-- The oldest entry of a stack. -/
def State.oldest (s : State) (stack : Nat) : Option UEntry :=
  s.under.find? fun e => stackOf (e.line * 128) = stack

/-- A new entry for a line, and the peak occupancy (10 R284). -/
def State.addEntry (s : State) (line : Nat) (data : List (Option Byte)) : State :=
  let stack := stackOf (line * 128)
  let s : State := { s with under := s.under ++ [{ line := line, data := data }] }
  let d := stackDie stack
  s.setFld (Reg.undStatPeak d) (max (s.fld (Reg.undStatPeak d)) (s.occupancy stack))

/-- Later bytes replace earlier ones (10 R278). -/
def mergeBytes (old new : List (Option Byte)) : List (Option Byte) :=
  List.zipWith (fun o n => match n with | some b => some b | none => o) old new

/-- A line's bytes enter the Underlay (10 R277, R278, R282): merged into its entry, or into a new
one; with all 256 in use the oldest entry drains first. The cycles a write waits are open, and
UND_FULL counts them (log entry 27). -/
def State.enterLine (s : State) (line : Nat) (data : List (Option Byte)) : State :=
  let stack := stackOf (line * 128)
  let d := stackDie stack
  match s.entry line with
  | some _ =>
    let merged := s.under.map fun (x : UEntry) =>
      if x.line = line then { x with data := mergeBytes x.data data } else x
    State.bump ({ s with under := merged } : State) (Reg.undMergeCount d) 1
  | none =>
    if s.occupancy stack < 256 then s.addEntry line data
    else
      let (wait, s) := s.takeFree
      let s := s.bump (Reg.undFullCount d) (wait % 2 ^ 32)
      let s := match s.oldest stack with
        | some e => s.drainEntry e
        | none => s
      s.addEntry line data

/-- The 128 bytes of a line that a write of `data` at `a` gives. -/
def lineBytes (a : Nat) (data : List (Option Byte)) (line : Nat) : List (Option Byte) :=
  (List.range 128).map fun j =>
    let x := line * 128 + j
    if a ≤ x then data.getD (x - a) none else none

/-- One line of a write: refused beyond the map (01 R23) or in a retired page (10 R291), discarded in
a keep window (10 R273), else into the Underlay. -/
def State.writeLine (s : State) (src : Source) (a : Nat) (data : List (Option Byte)) (line : Nat) : State :=
  let x := line * 128
  let bytes := lineBytes a data line
  if bytes.all Option.isNone then s
  else if memLimit ≤ x then s.raise src 0x3 0x01 (x / 2 ^ 16)
  else if s.retired x then s.raise (srcCtl (stackOf x)) 0x3 0x06 (pageOf (x % 2 ^ 36))
  else match s.keepWindow x with
    | some w => s.raise (srcCtl (stackOf x)) 0x3 0x08 (w + 4 * (x % 2 ^ 38 / 2 ^ 16))
    | none => s.enterLine line bytes

/-- Updates the written bytes of any valid sector of a die's Loft (10 R267). -/
def State.loftUpdate (s : State) (die : Nat) (a : Nat) (data : List (Option Byte)) : State :=
  { s with loft := s.loft.map fun (d, l) =>
      if d = die then
        (d, { l with sectors := (List.range 4).map fun k =>
          (l.sectors.getD k none).map fun bs =>
            (List.range 32).map fun j =>
              -- the line's address from its set and tag (10 R265)
              let lineNo := l.tag * 2 ^ 15 + (l.set ^^^ l.tag % 2 ^ 15)
              let x := lineNo * 128 + 32 * k + j
              if a ≤ x then ((data.getD (x - a) none).getD (bs.getD j 0)) else bs.getD j 0 })
      else (d, l) }

/-- A write to module memory from a unit: line by line into the Underlay (10 R277). Bytes given as
none are not written. -/
def State.memWrite (s : State) (src : Source) (a : Nat) (data : List (Option Byte)) : State :=
  if data.isEmpty then s
  else
    (List.range ((a + data.length - 1) / 128 - a / 128 + 1)).foldl
      (fun (s : State) i => s.writeLine src a data (a / 128 + i)) s

/-- A write of whole bytes. -/
def State.memPut (s : State) (src : Source) (a : Nat) (bs : List Byte) : State :=
  s.memWrite src a (bs.map some)

/-! ### The Lath and the stream slots -/

/-- Bytes of a Lath (01 R13). -/
def lathSize : Nat := 0x400000

/-- Key of a Lath byte. -/
def lathKey (b : PBay) (off : Nat) : Nat := (bayKey b) * lathSize + off

/-- A byte of a bay's Lath. -/
def State.lathPeek (s : State) (b : PBay) (off : Nat) : Byte := Store.get s.lath (lathKey b off) unlisted

/-- Writes bytes of a bay's Lath. -/
def State.lathWrite (s : State) (b : PBay) (off : Nat) (data : List (Option Byte)) : State :=
  match data with
  | [] => s
  | none :: t => s.lathWrite b (off + 1) t
  | some v :: t =>
    State.lathWrite { s with lath := Store.set s.lath (lathKey b off) v unlisted } b (off + 1) t

/-- Loses the whole contents of a Lath. -/
def State.lathClear (s : State) (b : PBay) : State :=
  { s with lath := s.lath.filter fun e => e.1 / lathSize ≠ (bayKey b) }

/-- Sets `n` bytes of a Lath to zero from an offset. -/
def State.lathZero (s : State) (b : PBay) (off n : Nat) : State :=
  { s with lath := s.lath.filter fun e =>
      !(decide (lathKey b off ≤ e.1 ∧ e.1 < lathKey b off + n)) }

/-- A byte of a stream slot (12 R337). -/
def State.slotPeek (s : State) (slot off : Nat) : Byte := Store.get s.slots (slot * 4096 + off) unlisted

/-- Writes bytes of a stream slot. -/
def State.slotWrite (s : State) (slot off : Nat) (data : List Byte) : State :=
  match data with
  | [] => s
  | v :: t =>
    State.slotWrite { s with slots := Store.set s.slots (slot * 4096 + off) v unlisted } slot (off + 1) t

/-! ### Pegs and ties -/

/-- The count of a peg (11 R306). -/
def State.peg (s : State) (n : Nat) : Nat := s.fld (Reg.pegCountCount n)

/-- A peg lies in a context's partition (11 R314, 12 R323, R344). -/
def State.pegIn (s : State) (ctx peg : Nat) : Bool :=
  match s.image with
  | none => false
  | some i =>
    i.excl || (match i.contexts[ctx]? with
      | some c => decide (c.pegBase ≤ peg ∧ peg < c.pegBase + c.pegCount)
      | none => false)

/-- A tie lies in a context's partition (11 R316, 12 R323, R344). -/
def State.tieIn (s : State) (ctx tie : Nat) : Bool :=
  match s.image with
  | none => false
  | some i =>
    i.excl || (match i.contexts[ctx]? with
      | some c => decide (c.tieBase ≤ tie ∧ tie < c.tieBase + c.tieCount)
      | none => false)

/-- Tests the watches on a peg: an arrived watch whose threshold the count meets wakes its task, which
stays ready when the count later falls (11 R311). A foreign watch is never satisfied (11 R314). -/
def State.testWatches (s : State) (peg : Nat) : State :=
  { s with watches := s.watches.map fun w =>
      if w.peg = peg ∧ w.arrived = true ∧ w.thresh ≤ s.peg peg ∧ s.pegIn w.ctx peg = true then
        { w with woken := true }
      else w }

/-- Sets a peg's count, and tests its watches (11 R306, R311). -/
def State.setPeg (s : State) (n v : Nat) : State := (s.setFld (Reg.pegCountCount n) v).testWatches n

/-- The result of a peg operation, and whether it saturated (11 R307, R310). -/
def pegResult (op : PegOp) (count value : Nat) : Nat × Bool :=
  match op with
  | .set => (value, false)
  | .add => if count + value < 2 ^ 32 then (count + value, false) else (2 ^ 32 - 1, true)
  | .sub => if value ≤ count then (count - value, false) else (0, true)

/-- The peg unit applies an operation (11 R307 to R311, R314): one on a peg outside the issuing
context's partition is discarded with a foreign-peg event; one that saturates records a peg-saturated
event. -/
def State.applyPeg (s : State) (peg : Nat) (m : PegMsg) : State :=
  if s.pegIn m.ctx peg then
    let (v, sat) := pegResult m.op (s.peg peg) m.value.toNat
    let s := s.setPeg peg v
    if sat then s.raise ⟨30, 8⟩ 0x4 0x01 (peg + (if v = 0 then 0 else 2 ^ 16)) else s
  else s.raise ⟨30, 8⟩ 0x4 0x02 (peg + m.die % 32 * 2 ^ 16)

/-- ADD on a peg in the name of a context. -/
def State.addPeg (s : State) (peg value die ctx : Nat) : State :=
  s.applyPeg peg { op := .add, value := BitVec.ofNat 32 value, die := die, ctx := ctx }

/-! ### The ligger net (01 R21, 11 R309) -/

/-- The traffic classes of the ligger net, in their fixed priority (01 R21). -/
inductive LiggerClass where
  | beacon
  | tie
  | peg
  | event
deriving DecidableEq, Repr

/-- The place of a class: a lower number is served first (01 R21). -/
def LiggerClass.rank (c : LiggerClass) : Nat :=
  match c with
  | .beacon => 0
  | .tie => 1
  | .peg => 2
  | .event => 3

/-- A watch reaches the peg unit, which tests it against the count that it finds; a foreign one is never satisfied
(11 R311, R314). -/
def State.watchIn (s : State) (w : Watch) : State :=
  let ok := s.pegIn w.ctx w.peg
  let now := { w with arrived := true, woken := ok && decide (w.thresh ≤ s.peg w.peg) }
  let s : State := { s with watches := s.watches.map fun x => if x = w then now else x }
  if ok then s else s.raise ⟨30, 8⟩ 0x4 0x02 (w.peg + w.bay.die % 32 * 2 ^ 16)

/-- The watches of a die that are on their way to the peg unit, in the order in which they were sent. -/
def State.underWay (s : State) (die : Nat) : List Watch :=
  s.watches.filter fun w => decide (w.bay.die = die) && !w.arrived

/-- A message of a class leaves a die: what waits there in the same class was sent before it (11 R309), and what
waits in a higher class is served first (01 R21). Watches, of the peg class, are the messages that wait: beacons, tie
operations and peg operations take effect as they are sent. -/
def State.liggerAhead (s : State) (die : Nat) (c : LiggerClass) : State :=
  if LiggerClass.peg.rank ≤ c.rank then (s.underWay die).foldl State.watchIn s else s

/-- A peg operation that a die sends in the peg class, behind the watches that it sent before (11 R309). -/
def State.sendPeg (s : State) (peg : Nat) (m : PegMsg) : State := (s.liggerAhead m.die .peg).applyPeg peg m

end Sys2Proof.Machine
end

