-- ==== Sys2Proof/Machine/Arb.lean ====
section
/-! DEFINITION. The valley arbiters: levels, quotas, slot entries, the decision of a grant
opportunity, quota windows and slots (11 R294 to R305). -/

namespace Sys2Proof.Machine

/-- A register block of an arbiter instance begins at this offset (11 R294). -/
def isArb (blk : Nat) : Bool := decide (RegMap.arbBlock blk = some blk)

/-- A mesh output of an Eave, Gable, Kingpost or Flashing die: an arbiter without registers, whose lanes all stand
at level 0 with no quota and no slot table (11 R294). The model numbers it by the place that a Rafter die's would
have in the window, where no register stands. -/
def isRouter (blk : Nat) : Bool :=
  match RegMap.dieOf blk with
  | some die => decide (24 ≤ die ∧ 0xD0000 + 96 * 0x200 ≤ blk % 0x100000 ∧
      blk % 0x100000 ≤ 0xD0000 + 100 * 0x200 ∧ blk % 0x200 = 0)
  | none => false

/-- The resources that valley arbiters share out (11 R294). -/
inductive Resource where
  | loftBank
  | channel
  | meshPort
  | eavePort
  | engine
deriving DecidableEq, Repr

/-- What one grant covers (11 R303). -/
inductive TransferUnit where
  | sector
  | burst
  | flit
  | codingUnit
deriving DecidableEq, Repr

/-- The resource of an arbiter (11 R294). -/
def resourceOf (blk : Nat) : Resource :=
  match RegMap.dieOf blk with
  | none => .meshPort
  | some die =>
    if isRouter blk then .meshPort
    else if die < 24 then
      (let i := (blk % 0x100000 - 0xD0000) / 0x200
       if i < 32 then .loftBank else if i < 96 then .channel else .meshPort)
    else if die < 28 then .eavePort
    else .engine

/-- The transfer unit of a resource (11 R303). -/
def unitOf (r : Resource) : TransferUnit :=
  match r with
  | .loftBank => .sector
  | .channel => .burst
  | .meshPort => .flit
  | .eavePort => .flit
  | .engine => .codingUnit

/-- The inputs of a resource that are used: 0 to one less than this (11 R294). -/
def inputsOf (r : Resource) : Nat :=
  match r with
  | .loftBank => 10
  | .channel => 6
  | .meshPort => 5
  | .eavePort => 6
  | .engine => 8

/-- The engine whose register block holds an arbiter block. -/
def engOfArb (blk : Nat) : Eng :=
  let o := blk % 0x100000
  { gable := (RegMap.dieOf blk).getD 28 - 28
    kind := if o < 0x40000 then .encode else .decode
    idx := o % 0x40000 / 0x10000 }

/-- A session slot asks its engine for coding units: its picture is being coded and does not wait for input or ring
space (13 R374, R376). -/
def State.slotCodes (s : State) (e : Eng) (slot : Nat) : Bool :=
  (s.session e slot).coding && !(s.session e slot).waiting

/-- LIVE of a session slot (13 R352). -/
def State.slotLive (s : State) (e : Eng) (slot : Nat) : Bool :=
  decide (bits (le (s.session e slot).block 0 1) 1 1 = 1)

/-- The input of a request. -/
def askInput (a : Ask) : Nat :=
  match a with
  | .task a => a.input
  | .unit a => a.input

/-- A request can stand at an arbiter's input: the input is used (11 R294); at a media engine, the slot of its number
codes (13 R348). -/
def State.mayAsk (s : State) (blk : Nat) (a : Ask) : Bool :=
  decide (askInput a < inputsOf (resourceOf blk)) &&
    (decide (resourceOf blk ≠ .engine) || s.slotCodes (engOfArb blk) (askInput a))

/-- A request is best-effort: the class of the work queue whose task issued it, latency-critical where no task did
(11 R295); a media engine's by its session's LIVE, at its own arbiter and at every other (13 R371). -/
def State.askBe (s : State) (blk : Nat) (a : Ask) : Bool :=
  if resourceOf blk = .engine then !s.slotLive (engOfArb blk) (askInput a)
  else match a with
    | .task a => (s.queueEntry a.queue).any QueueEntry.be
    | .unit a => a.session.any fun x => !s.slotLive x.1 x.2

/-- The lane of a request: its input together with its class. -/
def State.askLane (s : State) (blk : Nat) (a : Ask) : Nat := askInput a + (if s.askBe blk a then 16 else 0)

/-- The request is that of a task which runs across the latest boundary (02 R43): not that of another task of its queue,
which a bay outside the slip has started since. -/
def State.slips (s : State) (a : Ask) : Bool :=
  match a with
  | .task a => (s.bay a.bay).running.any fun r => r.slipped && decide (r.task.queue = a.queue)
  | .unit _ => false

/-- The lanes that request, as 32 bits, and those of them whose request is a task's that runs across the boundary: a
lane presents the first of its requests in the list. -/
def State.askWords (s : State) (blk : Nat) (asks : List Ask) : Word × Word :=
  let own := asks.filter (s.mayAsk blk)
  let lanes := (List.range 32).filterMap fun l => (own.find? fun a => decide (s.askLane blk a = l)).map fun a => (l, a)
  (BitVec.ofNat 32 (lanes.foldl (fun n x => n + 2 ^ x.1) 0),
   BitVec.ofNat 32 (lanes.foldl (fun n x => n + if s.slips x.2 then 2 ^ x.1 else 0) 0))

/-- A set of an arbiter's RWS words: the live set, or the one before the last commit (11 R304). -/
inductive ArbSet where
  | live
  | prev
deriving DecidableEq, Repr

/-- A word of an arbiter's set. An arbiter without registers has every field 0: level 0, no quota, no slot table
(11 R294). -/
def State.arbWord (s : State) (w : ArbSet) (off : Nat) : Nat :=
  if isRouter (off / 0x200 * 0x200) then 0
  else match w with
    | .live => (s.liveReg off).toNat
    | .prev => (s.prevReg off).toNat

/-- The level of a lane: LC lanes 0 to 15, then BE lanes 16 to 31 (11 R305). -/
def State.arbLevel (s : State) (w : ArbSet) (blk lane : Nat) : Nat :=
  if lane < 16 then bits (s.arbWord w (Reg.vlyPrioLcLevel blk).off) (2 * lane) 2
  else bits (s.arbWord w (Reg.vlyPrioBeLevel blk).off) (2 * (lane - 16)) 2

/-- The limit of a lane; 0 is unlimited (11 R297, R305). -/
def State.arbLimit (s : State) (w : ArbSet) (blk lane : Nat) : Nat :=
  if lane < 16 then bits (s.arbWord w (Reg.vlyQlimLcLimit blk (lane / 4)).off) (8 * (lane % 4)) 8
  else bits (s.arbWord w (Reg.vlyQlimBeLimit blk ((lane - 16) / 4)).off) (8 * (lane % 4)) 8

/-- The live window length in grant opportunities (11 R297). -/
def State.arbWindow (s : State) (blk : Nat) : Nat := s.liveFld (Reg.vlyQuotaWindow blk)

/-- The current slot: REF[9:4] (11 R301). -/
def State.slotNow (s : State) : Nat := s.course.phase.toNat / 16

/-- The slot entry admits a lane (11 R302). -/
def State.arbAdmits (s : State) (w : ArbSet) (blk lane : Nat) : Bool :=
  let e := s.arbWord w (Reg.vlySlotOwners blk s.slotNow).off
  bits (s.arbWord w (Reg.vlySlotctlEn blk).off) 0 1 = 0 ||
    (decide (bits e (lane % 16) 1 = 1) && decide (bits e (if lane < 16 then 16 else 17) 1 = 1))

/-- A lane is masked: its count has reached its nonzero limit in the window (11 R297). -/
def State.arbMasked (s : State) (w : ArbSet) (blk lane : Nat) : Bool :=
  let l := s.arbLimit w blk lane
  decide (l ≠ 0 ∧ l ≤ (s.arb blk).grants.getD lane 0)

/-- The lanes masked now, as the 32 bits of VLY_MASKED (11 R305). -/
def State.arbMaskedWord (s : State) (blk : Nat) : Nat :=
  (List.range 32).foldl (fun w lane => if s.arbMasked .live blk lane then w + 2 ^ lane else w) 0

/-- The first of the lanes at or after a pointer in lane order, wrapping (11 R296). -/
def firstFrom (ptr : Nat) (lanes : List Nat) : Option Nat :=
  match lanes.find? fun l => decide (ptr ≤ l) with
  | some l => some l
  | none => lanes.head?

/-- The set that judges each lane's request: the previous set for the requests of a task that runs
across the boundary, the live set for all others (11 R304). -/
def arbJudge (old : Word) (lane : Nat) : ArbSet :=
  if bits old.toNat lane 1 = 1 then .prev else .live

/-- The winner of a grant opportunity and its level (11 R296): the eligible requesting lanes, those
not masked in round 1, the masked in round 2; of them the highest level; of it the first at or after
the level's pointer. -/
def State.arbWinner (s : State) (blk : Nat) (requests old : Word) : Option (Nat × Nat) :=
  let asking := (List.range 32).filter fun l =>
    decide (bits requests.toNat l 1 = 1) && s.arbAdmits (arbJudge old l) blk l
  let round1 := asking.filter fun l => !s.arbMasked (arbJudge old l) blk l
  let lanes := if round1.isEmpty then asking else round1
  let top := lanes.foldl (fun m l => max m (s.arbLevel (arbJudge old l) blk l)) 0
  let best := lanes.filter fun l => decide (s.arbLevel (arbJudge old l) blk l = top)
  (firstFrom ((s.arb blk).pointers.getD top 0) best).map fun l => (l, top)

/-- A window ends: the grant counts, and with them the masks, are cleared (11 R297). -/
def State.arbWindowEnd (s : State) (blk : Nat) : State :=
  s.setArb blk { s.arb blk with grants := List.replicate 32 0, pos := 0 }

/-- The longest wait seen, with its lane, saturating (11 R305, VLY_WAITMAX). -/
def State.arbNoteWait (s : State) (blk lane wait : Nat) : State :=
  if isArb blk = true ∧ s.fld (Reg.vlyWaitmaxOpp blk) < satTo 0xFFFF wait then
    (s.setFld (Reg.vlyWaitmaxOpp blk) (satTo 0xFFFF wait)).setFld (Reg.vlyWaitmaxLane blk) lane
  else s

/-- One grant opportunity of an arbiter: the transfer unit granted before has left the resource, and the winner's
enters it, which no slot, window or boundary takes off it (11 R303). A lane that asks and is not granted waits one
opportunity more. `resp` tells the lane granted. The row that moves the unit comes after its grant (DESIGN CHOICE, log
entry 146). -/
def State.arbGrant (s : State) (blk : Nat) (requests old : Word) : State :=
  let s := if s.arbWindow blk ≤ (s.arb blk).pos then s.arbWindowEnd blk else s
  let winner := s.arbWinner blk requests old
  let a := s.arb blk
  let waits := (List.range 32).map fun l =>
    if bits requests.toNat l 1 = 0 ∨ winner.map Prod.fst = some l then 0 else a.waits.getD l 0 + 1
  let a := { a with pos := a.pos + 1, waits := waits, holder := winner.map Prod.fst }
  let s := (List.range 32).foldl
    (fun (s : State) l => s.arbNoteWait blk l (waits.getD l 0)) s
  match winner with
  | none => { s.setArb blk a with resp := .none }
  | some (lane, top) =>
    { s.setArb blk { a with
        grants := putAt a.grants lane (a.grants.getD lane 0 + 1)
        pointers := putAt a.pointers top ((lane + 1) % 32) } with
      resp := .word lane }

/-- The requests at an arbiter: those that tasks issued, and the others. -/
def askList (ofTasks : List TaskAsk) (ofUnits : List UnitAsk) : List Ask := ofTasks.map .task ++ ofUnits.map .unit

/-- An arbiter works: the routers of every die keep their power and clocks in Dormer-1 and Dormer-2 (01 R18), the banks of
a Loft and the engines their clocks outside Dormer-1 alone (18 R487); BAR2 accesses go on in Dormer-1 (R490). -/
def State.arbRuns (s : State) (blk : Nat) : Bool :=
  let die := (RegMap.dieOf blk).getD 0
  match resourceOf blk with
  | .meshPort => s.up
  | .loftBank => s.dieRuns die
  | .engine => s.dieRuns die
  | .channel => s.powered die
  | .eavePort => s.powered die

/-- ARBITER_GRANT (11 R294 to R297, R302 to R304): one grant opportunity, with the requests that stand at the inputs. -/
def execArbiterGrant (blk : Nat) (ofTasks : List TaskAsk) (ofUnits : List UnitAsk) (s : State) :
    Host.Outcome State Fault Refusal :=
  let asks := askList ofTasks ofUnits
  .next (if (isArb blk || isRouter blk) && s.arbRuns blk then
      s.arbGrant blk (s.askWords blk asks).1 (s.askWords blk asks).2
    else s)

/-- QUOTA_WINDOW_END (11 R297): after WINDOW grant opportunities the window ends. -/
def execQuotaWindowEnd (blk : Nat) (s : State) : Host.Outcome State Fault Refusal :=
  .next (if isArb blk && s.arbRuns blk && decide (s.arbWindow blk ≤ (s.arb blk).pos) then s.arbWindowEnd blk else s)

/-- SLOT_BOUNDARY (11 R301): every die enters the next slot of 16 reference cycles. The last slot of a
course ends at the course boundary. -/
def execSlotBoundary (s : State) : Host.Outcome State Fault Refusal :=
  .next (if s.up && decide (s.slotNow < 63) then
      { s with course := { s.course with phase := BitVec.ofNat 10 ((s.slotNow + 1) * 16) } }
    else s)

end Sys2Proof.Machine
end

