-- ==== Sys2Proof/Machine/Access.lean ====
section
/-! DEFINITION. Reaching BAR0 through either path: which accesses are answered by all ones, what a
read of each register returns, and what reading it changes (00 R5 to R9, 01 R29, R30, 19 R499). -/

namespace Sys2Proof.Machine

/-- All ones, the answer to a refused 32-bit read (00 R6, 01 R29, R30). -/
def allOnes : Nat := 0xFFFFFFFF

/-- A path carries accesses: the management bus while the standby rails are up, the host port while
the Kingpost runs (18 R477, 19 R501; log entry 24). -/
def State.reach (s : State) (p : Path) : Bool :=
  match p with
  | .host => s.up
  | .bus => s.powered 31

/-- Why a 32-bit access to an aligned offset is not carried out: the number of its class 0xC event,
0x09 in the window of a die that is powered down, 0x08 at an unpopulated offset (01 R29, R30, R521). -/
def State.refuses (s : State) (off : Nat) : Option Nat :=
  match RegMap.dieOf off with
  | none => some 0x08
  | some die =>
    if !s.powered die then some 0x09
    else if (RegMap.at? off).isNone then some 0x08
    else none

/-- Carries out a write that a path brings to a register: nothing where the path carries no access;
discarded with its event where the access is refused. -/
def State.access (s : State) (p : Path) (off : Nat) (effect : State → State) : State :=
  if s.reach p then
    match s.refuses off with
    | some num => s.accessEvent p num off
    | none => effect s
  else s

/-! ### Values that follow from other state -/

/-- The engine whose block holds a Gable window offset (13 R378). -/
def engAt (die o : Nat) : Eng :=
  { gable := die - 28
    kind := if o < 0x40000 then .encode else .decode
    idx := o % 0x40000 / 0x10000 }

/-- Session state of GBL_SESSn: 0 closed, 1 idle, 2 coding, 3 waiting, 4 error (13). -/
def Session.stateCode (v : Session) : Nat :=
  if v.error then 4 else if !v.isOpen then 0 else if v.waiting then 3 else if v.coding then 2 else 1

/-- GBL_SESSn of a slot (13). -/
def State.sessWord (s : State) (e : Eng) (slot : Nat) : Nat :=
  let v := s.session e slot
  v.stateCode + bits (le v.block 0 1) 1 1 * 2 ^ 3 + bits (le v.block 0 1) 0 1 * 2 ^ 4 +
    v.jobs.length % 8 * 2 ^ 5 + v.pic % 2 ^ 24 * 2 ^ 8

/-- Samples per second of an engine (13 R369). -/
def engineRate : Nat := 4246732800

/-- Samples per second of a session, as a fraction: numerator and denominator (13 R370). -/
def sessionRate (block : List Byte) : Nat × Nat :=
  let w := le block 4 2
  let h := le block 6 2
  let c := bits (le block 3 1) 1 2
  let twice := if c = 0 then 2 else if c = 1 then 3 else if c = 2 then 4 else 6
  (w * h * twice * le block 8 2, 2 * le block 10 2)

/-- The sum of fractions. -/
def sumRates (l : List (Nat × Nat)) : Nat × Nat :=
  l.foldl (fun a b => (a.1 * b.2 + b.1 * a.2, a.2 * b.2)) (0, 1)

/-- The live sessions that an image lists for an engine: their rates (13 R370). -/
def liveRates (i : Image) (e : Eng) : List (Nat × Nat) :=
  (i.sessions.filter fun x => decide (x.eng = e ∧ bits (le x.block 0 1) 1 1 = 1)).map
    fun x => sessionRate x.block

/-- GBL_ENG (13): BUSY while a slot codes, and the live load in units of 1/255, rounded down. -/
def State.engWord (s : State) (e : Eng) : Nat :=
  let busy := (List.range 8).any fun n => (s.session e n).coding
  let load := match s.image with
    | none => 0
    | some i =>
      let r := sumRates (liveRates i e)
      255 * r.1 / (r.2 * engineRate)
  (if busy then 1 else 0) + load % 256 * 2 ^ 4

/-- A stream slot is active: a task of its queue is selected or running (12 R346). -/
def State.slotActive (s : State) (slot : Nat) : Bool :=
  s.flag (Reg.kpSlotBound slot) && s.bays.any fun e =>
    (e.2.selected.any fun t => t.queue = s.fld (Reg.kpSlotQueue slot)) ||
    (e.2.running.any fun r => r.task.queue = s.fld (Reg.kpSlotQueue slot))

/-- BAY_SCHED with what follows from the bay's records (12 R346). -/
def State.schedWord (s : State) (b : PBay) (w : Nat) : Nat :=
  let swaps := match (s.bay b).swap with | some x => !x.done | none => false
  let w := putBits w 7 1 (if swaps then 1 else 0)
  putBits w 8 1 (if (s.runningOn b).any Running.slipped then 1 else 0)

/-- A set waits for a boundary (11 R300). -/
def State.commitPending (s : State) (blk : Nat) : Bool := s.commits.any fun e => e.1 = blk

/-- Levels of the GPIO lines: 0 where the module drives one low, else what the chassis gives it, an open value (19
FL_GPIO; log entry 97). -/
def State.gpioLevels (s : State) : Nat :=
  Config.freeValue s.free % 2 ^ 8 &&& (0xFF - (s.fld Reg.flGpioOe &&& (0xFF - s.fld Reg.flGpioOut)))

/-- What a populated register holds at the instant of a read through a path, where that follows from
other state; `w` is the stored word. -/
def State.computed (s : State) (p : Path) (off w : Nat) : Nat :=
  if off = 0x20000 then s.course.count.toNat % 2 ^ 32
  else if off = 0x20004 then
    (match p with | .host => s.course.hostHi.toNat | .bus => s.course.busHi.toNat)
  else if off = 0x20008 then s.course.phase.toNat
  else if off = 0x20014 then s.course.ofs.toNat % 2 ^ 32
  else if off = 0x20018 then
    (match p with | .host => s.course.hostOfsHi.toNat | .bus => s.course.busOfsHi.toNat)
  else if 0x10200 ≤ off ∧ off < 0x10400 then
    putBits w 7 1 (if s.slotActive ((off - 0x10200) / 4) then 1 else 0)
  else if off = Reg.wthNextCourses.off then 2 ^ 20 - 1 - s.course.count.toNat % 2 ^ 20
  else if off = Reg.flGpioIn.off then putBits w 16 8 s.gpioLevels
  else
    match RegMap.arbBlock off with
    | some blk =>
      if off - blk = 0x34 then
        (if s.commitPending blk then 1 else 0) + s.liveFld (Reg.vlySlotctlEn blk) * 2 + s.slotNow * 4
      else if off - blk = 0x38 then s.arbMaskedWord blk
      else w
    | none =>
      match RegMap.dieOf off with
      | none => w
      | some die =>
        let o := off % 0x100000
        if die < 24 then
          if o < 0x90000 ∧ o % 0x10000 = 0xE080 then s.schedWord ⟨die, o / 0x10000⟩ w
          else if o = 0xC0008 then putBits w 0 9 (s.occupancy (dieStack die))
          else w
        else if die < 28 then
          if o < 0x80000 ∧ o % 0x10000 = 0x18 then
            putBits w 0 11 ((s.port (8 * (die - 24) + o / 0x10000)).credits.getD 0 0)
          else w
        else if die < 30 then
          let e := engAt die o
          if o % 0x10000 = 0 then s.engWord e
          else if 0x100 ≤ o % 0x10000 ∧ o % 0x10000 < 0x120 then
            s.sessWord e ((o % 0x10000 - 0x100) / 4)
          else w
        else w

/-- A word as a read shows it: WO fields and reserved bits read 0, and RWL fields read 0 while
service access is closed (00 R7, R9). -/
def State.shown (s : State) (r : RegSpec) (w : Nat) : Nat :=
  r.fields.foldl (fun v f =>
    match f.acc with
    | .wo => v
    | .rwl => if s.service then v + bits w f.lo f.width * 2 ^ f.lo else v
    | _ => v + bits w f.lo f.width * 2 ^ f.lo) 0

/-- What a read of a populated register returns. -/
def State.view (s : State) (p : Path) (off : Nat) : Nat :=
  match RegMap.at? off with
  | none => allOnes
  | some r => s.shown r (s.computed p off (s.reg off).toNat)

/-! ### What reading changes -/

/-- A read of KP_COURSE_LO latches the high bits for its own path (02 R38, R39). -/
def State.latchCourse (s : State) (p : Path) : State :=
  let hi := BitVec.ofNat 16 (s.course.count.toNat / 2 ^ 32)
  match p with
  | .host => { s with course := { s.course with hostHi := hi } }
  | .bus => { s with course := { s.course with busHi := hi } }

/-- A read of KP_BEACON_OFS_LO latches the high bits for its own path (02 R39). -/
def State.latchOfs (s : State) (p : Path) : State :=
  let hi := BitVec.ofNat 16 (s.course.ofs.toNat / 2 ^ 32)
  match p with
  | .host => { s with course := { s.course with hostOfsHi := hi } }
  | .bus => { s with course := { s.course with busOfsHi := hi } }

/-- Restarts the longest wait of an arbiter (11 R305). -/
def State.restartArbWait (s : State) (blk : Nat) : State :=
  (s.setFld (Reg.vlyWaitmaxOpp blk) 0).setFld (Reg.vlyWaitmaxLane blk) 0

/-- Restarts the largest wait counts of a bay (12 R346). -/
def State.restartBayWait (s : State) (b : PBay) : State :=
  (s.setFld (Reg.bayWaitmaxLc b) 0).setFld (Reg.bayWaitmaxBe b) 0

/-- Restarts the Underlay's peak at the present occupancy (10 R284). -/
def State.restartPeak (s : State) (die : Nat) : State :=
  s.setFld (Reg.undStatPeak die) (s.occupancy (dieStack die))

/-- Restarts the fewest credits held, from those held now (14 R418). -/
def State.restartCredMin (s : State) (port : Nat) : State :=
  s.setFld (Reg.eavCredMin port) ((s.port port).credits.getD 0 0)

/-- Restarts the peak input power: no sample since the read (18, FL_PIN). -/
def State.restartPinPeak (s : State) : State := s.setFld Reg.flPinPeak 0

/-- What a read of a populated register changes, by its offset. -/
def State.readEffect (s : State) (p : Path) (off : Nat) : State :=
  if off = 0x20000 then s.latchCourse p
  else if off = 0x20014 then s.latchOfs p
  else if off = Reg.flPinW.off then s.restartPinPeak
  else if off = Reg.flGpioIn.off then { s with free := s.free + 1 }
  else
    match RegMap.arbBlock off with
    | some blk => if off - blk = 0x3C then s.restartArbWait blk else s
    | none =>
      match RegMap.dieOf off with
      | none => s
      | some die =>
        let o := off % 0x100000
        if die < 24 then
          if o < 0x90000 ∧ o % 0x10000 = 0xE088 then s.restartBayWait ⟨die, o / 0x10000⟩
          else if o = 0xC0008 then s.restartPeak die
          else s
        else if 24 ≤ die ∧ die < 28 ∧ o < 0x80000 ∧ o % 0x10000 = 0x18 then
          s.restartCredMin (8 * (die - 24) + o / 0x10000)
        else s

/-- A 32-bit read at an aligned offset: the value and the state after it (01 R29, R30). -/
def State.read32 (s : State) (p : Path) (off : Nat) : Nat × State :=
  match s.refuses off with
  | some num => (allOnes, s.accessEvent p num off)
  | none => (s.view p off, s.readEffect p off)

/-- A read of `width` bytes at an offset: malformed unless it is 4 or 8 bytes wide and aligned to its
width; an 8-byte read reads the lower half, then the upper half (00 R5, R6). -/
def State.readN (s : State) (p : Path) (off width : Nat) : Nat × State :=
  if width = 4 ∧ off % 4 = 0 then s.read32 p off
  else if width = 8 ∧ off % 8 = 0 then
    let (lo, s) := s.read32 p off
    let (hi, s) := s.read32 p (off + 4)
    (lo + hi * 2 ^ 32, s)
  else (2 ^ (8 * width) - 1, s.accessEvent p 0x07 off)

/-- A read through a path, with its answer in `resp`. -/
def State.readInto (s : State) (p : Path) (off width : Nat) : State :=
  if s.reach p then
    let (v, s) := s.readN p off width
    { s with resp := .word v }
  else s

/-- COURSE_LO_READ (02 R38): 32 bits, or 64 bits with the latch joining the halves. -/
def execCourseLoRead (p : Path) (wide : Bool) (s : State) : Host.Outcome State Fault Refusal :=
  .next (s.readInto p 0x20000 (if wide then 8 else 4))

/-- BEACON_OFS_LO_READ (02 R39). KP_BEACON_OFS_LO stands at an offset that is a multiple of 4 and not
of 8, so that a 64-bit read there is malformed (00 R5, R6). -/
def execBeaconOfsLoRead (p : Path) (wide : Bool) (s : State) : Host.Outcome State Fault Refusal :=
  .next (s.readInto p 0x20014 (if wide then 8 else 4))

/-- VLY_WAITMAX_READ (11 R305): the longest wait, and its measurement restarts. -/
def execVlyWaitmaxRead (p : Path) (blk : Nat) (s : State) : Host.Outcome State Fault Refusal :=
  .next (s.readInto p (Reg.vlyWaitmaxOpp blk).off 4)

/-- BAY_WAITMAX_READ (12 R346): the largest wait counts, and their measurement restarts. -/
def execBayWaitmaxRead (p : Path) (b : PBay) (s : State) : Host.Outcome State Fault Refusal :=
  .next (s.readInto p (Reg.bayWaitmaxLc b).off 4)

/-- UND_STAT_READ (10 R284): occupancy and peak, and the peak restarts. -/
def execUndStatRead (p : Path) (die : Nat) (s : State) : Host.Outcome State Fault Refusal :=
  .next (s.readInto p (Reg.undStatOcc die).off 4)

/-- EAV_CRED_READ (14 R418): credits held and the fewest held, and the minimum restarts. -/
def execEavCredRead (p : Path) (port : Nat) (s : State) : Host.Outcome State Fault Refusal :=
  .next (s.readInto p (Reg.eavCredAvail port).off 4)

/-- FL_PIN_READ (18, FL_PIN): the mean input power, and the largest sample since the last read, which
restarts. The two readings are the sensors' at that instant. -/
def execFlPinRead (p : Path) (watts peak : Nat) (s : State) : Host.Outcome State Fault Refusal :=
  .next
    (if s.reach p then
      ((s.setFld Reg.flPinW watts).setFld Reg.flPinPeak
        (max (s.fld Reg.flPinPeak) (peak % 2 ^ 16))).readInto p Reg.flPinW.off 4
    else s)

end Sys2Proof.Machine
end

