-- ==== Sys2Proof/Machine/Num.lean ====
section
/-! DEFINITION. Number formats: exact values, decoding, rounding, conversion, and the blocks of the
Microscaling and KV-cache forms (03). -/

namespace Sys2Proof.Machine

/-! ### Exact values -/

/-- An exact value: the sign, and a magnitude num / den × 2^exp; zero keeps its sign. -/
inductive Val where
  | nan
  | inf (neg : Bool)
  | fin (neg : Bool) (num den : Nat) (exp : Int)
deriving DecidableEq, Repr

namespace Val

/-- +0. -/
def zero : Val := .fin false 0 1 0

/-- A signed zero. -/
def szero (neg : Bool) : Val := .fin neg 0 1 0

/-- An integer times a power of two. -/
def dyadic (n : Int) (e : Int) : Val := .fin (decide (n < 0)) n.natAbs 1 e

/-- An integer. -/
def ofInt (n : Int) : Val := dyadic n 0

/-- The value is a zero of either sign. -/
def isZero : Val → Bool
  | .fin _ 0 _ _ => true
  | _ => false

/-- The value is NaN. -/
def isNan : Val → Bool
  | .nan => true
  | _ => false

/-- The value is finite. -/
def isFin : Val → Bool
  | .fin .. => true
  | _ => false

/-- The sign; NaN counts as positive (03 R67). -/
def sign : Val → Bool
  | .nan => false
  | .inf s => s
  | .fin s _ _ _ => s

/-- The negated value. -/
def neg : Val → Val
  | .nan => .nan
  | .inf s => .inf (!s)
  | .fin s n d e => .fin (!s) n d e

/-- The magnitude. -/
def abs : Val → Val
  | .nan => .nan
  | .inf _ => .inf false
  | .fin _ n d e => .fin false n d e

/-- Left shift by a signed count, in numerator and denominator. -/
def scale (n d : Nat) (k : Int) : Nat × Nat :=
  if 0 ≤ k then (n * 2 ^ k.toNat, d) else (n, d * 2 ^ (-k).toNat)

/-- The exact sum; `down` gives an exact zero sum of opposite signs the sign −, as roundTowardNegative
does (04 R101, R110, R114). -/
def add (x y : Val) (down : Bool := false) : Val :=
  match x, y with
  | .nan, _ => .nan
  | _, .nan => .nan
  | .inf a, .inf b => if a = b then .inf a else .nan
  | .inf a, .fin .. => .inf a
  | .fin .., .inf b => .inf b
  | .fin a n d e, .fin b m c f =>
    let k := min e f
    let i : Int := (n * c * 2 ^ (e - k).toNat : Nat)
    let j : Int := (m * d * 2 ^ (f - k).toNat : Nat)
    let t := (if a then -i else i) + (if b then -j else j)
    if t = 0 then .fin (if a = b then a else down) 0 1 0
    else .fin (decide (t < 0)) t.natAbs (d * c) k

/-- The exact product (04 R108): NaN for NaN, and for an infinity times a zero. A zero product takes the XOR of
the two signs, of MXINT8 integers too (04 R99 gives them none; log entry 107). -/
def mul (x y : Val) : Val :=
  match x, y with
  | .nan, _ => .nan
  | _, .nan => .nan
  | .inf a, .inf b => .inf (a != b)
  | .inf a, .fin b m _ _ => if m = 0 then .nan else .inf (a != b)
  | .fin a n _ _, .inf b => if n = 0 then .nan else .inf (a != b)
  | .fin a n d e, .fin b m c f => .fin (a != b) (n * m) (d * c) (e + f)

/-- The exact quotient by a nonzero finite value. -/
def div (x y : Val) : Val :=
  match x, y with
  | .fin a n d e, .fin b m c f => .fin (a != b) (n * c) (d * m) (e - f)
  | x, _ => x

/-- The signed numerator over a common denominator and exponent, to compare finite values. -/
def less (x y : Val) : Bool :=
  match x, y with
  | .nan, _ => false
  | _, .nan => false
  | .inf a, .inf b => a && !b
  | .inf a, .fin .. => a
  | .fin .., .inf b => !b
  | .fin a n d e, .fin b m c f =>
    let k := min e f
    let i : Int := (n * c * 2 ^ (e - k).toNat : Nat)
    let j : Int := (m * d * 2 ^ (f - k).toNat : Nat)
    decide ((if a then -i else i) < (if b then -j else j))

/-- floor(log2) of a nonzero magnitude. -/
def log2 (num den : Nat) (e : Int) : Int :=
  let l : Int := (Nat.log2 num : Int) - (Nat.log2 den : Int)
  let (n, d) := scale num den (-l)
  if d ≤ n then l + e else l - 1 + e

/-- The exponent of a finite nonzero value (04 R95); 0 for others. -/
def expo : Val → Int
  | .fin _ n d e => if n = 0 then 0 else log2 n d e
  | _ => 0

end Val

/-! ### Rounding -/

/-- Rounding attributes: RND of 04 R92. -/
inductive Rnd where
  | even
  | away
  | up
  | down
  | trunc
deriving DecidableEq, Repr

/-- The attribute that RND names. -/
def rndOf (n : Nat) : Rnd :=
  if n = 1 then .away else if n = 2 then .up else if n = 3 then .down else if n = 4 then .trunc else .even

/-- A magnitude num / den × 2^e rounded to a multiple of 2^q: the multiple, and whether it is inexact. -/
def roundUnits (r : Rnd) (neg : Bool) (num den : Nat) (e q : Int) : Nat × Bool :=
  let (n, d) := Val.scale num den (e - q)
  let k := n / d
  let m := n % d
  let inc := match r with
    | .even => decide (d < 2 * m ∨ (2 * m = d ∧ k % 2 = 1))
    | .away => decide (d ≤ 2 * m)
    | .up => !neg && decide (m ≠ 0)
    | .down => neg && decide (m ≠ 0)
    | .trunc => false
  (if inc then k + 1 else k, decide (m ≠ 0))

/-- A binary format: exponent and fraction bits, bias, and its special codes. -/
inductive Specials where
  | ieee       -- infinities and NaN (03 R64, R68, R80)
  | e4m3       -- NaN in the all-ones code only (03 R68)
  | none       -- neither (03 R71)
deriving DecidableEq, Repr

/-- A binary floating-point format. -/
structure FFmt where
  ebits : Nat
  fbits : Nat
  bias  : Nat
  spec  : Specials
deriving DecidableEq, Repr

/-- Format codes of 03 R63. -/
def fFP32 : Nat := 0x0
def fBF16 : Nat := 0x1
def fFP16 : Nat := 0x2
def fE4M3 : Nat := 0x3
def fE5M2 : Nat := 0x4
def fMXINT8 : Nat := 0xA
def fINT8 : Nat := 0xB
def fINT32 : Nat := 0xC
def fKV4 : Nat := 0xD
def fTally : Nat := 0xE

/-- The element format of a floating-point format code (03 R64, R68, R71, R80). -/
def floatOf (fmt : Nat) : Option FFmt :=
  match fmt with
  | 0x0 => some ⟨8, 23, 127, .ieee⟩
  | 0x1 => some ⟨8, 7, 127, .ieee⟩
  | 0x2 => some ⟨5, 10, 15, .ieee⟩
  | 0x3 => some ⟨4, 3, 7, .e4m3⟩
  | 0x4 => some ⟨5, 2, 15, .ieee⟩
  | 0x5 => some ⟨4, 3, 7, .e4m3⟩
  | 0x6 => some ⟨5, 2, 15, .ieee⟩
  | 0x7 => some ⟨3, 2, 3, .none⟩
  | 0x8 => some ⟨2, 3, 1, .none⟩
  | 0x9 => some ⟨2, 1, 1, .none⟩
  | 0xE => some ⟨16, 47, 32767, .ieee⟩
  | _ => none

/-- Bits per element (03 R63). -/
def fmtBits (fmt : Nat) : Nat :=
  match fmt with
  | 0x0 => 32 | 0x1 => 16 | 0x2 => 16 | 0x3 => 8 | 0x4 => 8 | 0x5 => 8 | 0x6 => 8 | 0x7 => 6 | 0x8 => 6
  | 0x9 => 4 | 0xA => 8 | 0xB => 8 | 0xC => 32 | 0xD => 4 | 0xE => 64 | _ => 0

/-- A Microscaling format (03 R63). -/
def isMx (fmt : Nat) : Bool := decide (5 ≤ fmt ∧ fmt ≤ 0xA)

/-- A format with block scales in memory on its own code: Microscaling or KV4. -/
def isBlock (fmt : Nat) : Bool := isMx fmt || decide (fmt = fKV4)

/-- The smallest quantum of a format: that of its subnormals. -/
def FFmt.qmin (f : FFmt) : Int := 1 - (f.bias : Int) - (f.fbits : Int)

/-- The largest finite magnitude, as a multiple of a power of two. -/
def FFmt.largest (f : FFmt) : Nat × Int :=
  match f.spec with
  | .ieee => (2 ^ (f.fbits + 1) - 1, (2 ^ f.ebits - 2 : Int) - f.bias - f.fbits)
  | .e4m3 => (2 ^ (f.fbits + 1) - 2, (2 ^ f.ebits - 1 : Int) - f.bias - f.fbits)
  | .none => (2 ^ (f.fbits + 1) - 1, (2 ^ f.ebits - 1 : Int) - f.bias - f.fbits)

/-- n × 2^q lies beyond m × 2^p. -/
def beyond (n : Nat) (q : Int) (m : Nat) (p : Int) : Bool :=
  let k := min q p
  decide (m * 2 ^ (p - k).toNat < n * 2 ^ (q - k).toNat)

/-- The code of a magnitude n × 2^q that the format holds. -/
def FFmt.pack (f : FFmt) (neg : Bool) (n : Nat) (q : Int) : Nat :=
  let s := if neg then 2 ^ (f.ebits + f.fbits) else 0
  if n = 0 then s
  else
    let l : Int := (Nat.log2 n : Int) + q
    if l < 1 - (f.bias : Int) then
      s + (Val.scale n 1 (q - f.qmin)).1 / (Val.scale n 1 (q - f.qmin)).2
    else
      let e := (l + f.bias).toNat
      let x := Val.scale n 1 (q - (l - f.fbits))
      s + e * 2 ^ f.fbits + (x.1 / x.2) % 2 ^ f.fbits

/-- The infinity of a format that has one; the largest finite code of one that has none. -/
def FFmt.infinity (f : FFmt) (neg : Bool) : Nat :=
  match f.spec with
  | .ieee => (if neg then 2 ^ (f.ebits + f.fbits) else 0) + (2 ^ f.ebits - 1) * 2 ^ f.fbits
  | _ => f.pack neg f.largest.1 f.largest.2

/-- The code of the largest finite value of a sign. -/
def FFmt.max (f : FFmt) (neg : Bool) : Nat := f.pack neg f.largest.1 f.largest.2

/-- The canonical NaN of a format (03 R64, R68, R81): 0x7E of FP8-E5M2 has fraction 0b10. -/
def FFmt.canonical (f : FFmt) : Nat :=
  match f.spec with
  | .ieee => (2 ^ f.ebits - 1) * 2 ^ f.fbits + 2 ^ (f.fbits - 1)
  | .e4m3 => 2 ^ (f.ebits + f.fbits) - 1
  | .none => 0

/-- The value of an element code, without a block scale (03 R64 to R81). -/
def decodeElem (fmt code : Nat) : Val :=
  match floatOf fmt with
  | some f =>
    let neg := decide (bits code (f.ebits + f.fbits) 1 = 1)
    let e := bits code f.fbits f.ebits
    let m := bits code 0 f.fbits
    if e = 0 then .fin neg m 1 f.qmin
    else
      let v : Val := .fin neg (2 ^ f.fbits + m) 1 ((e : Int) - f.bias - f.fbits)
      match f.spec with
      | .ieee => if e = 2 ^ f.ebits - 1 then (if m = 0 then .inf neg else .nan) else v
      | .e4m3 => if e = 2 ^ f.ebits - 1 ∧ m = 2 ^ f.fbits - 1 then .nan else v
      | .none => v
  | none =>
    let w := fmtBits fmt
    Val.dyadic (ofTwos w code) (if fmt = fMXINT8 then -6 else 0)

/-! ### Arithmetic words and counts -/

/-- The arithmetic word of a queue (04 R92). -/
structure Arith where
  strict  : Bool
  ovf     : Bool
  rnd     : Rnd
  tally   : Bool
  flushIn : Bool
deriving DecidableEq, Repr

/-- The fields of an arithmetic word (04 R92). -/
def arithOf (w : Nat) : Arith :=
  { strict := decide (bits w 0 1 = 1), ovf := decide (bits w 1 1 = 1), rnd := rndOf (bits w 2 3),
    tally := decide (bits w 5 1 = 1), flushIn := decide (bits w 6 1 = 1) }

/-- What a task adds to the counters of its bay and to its completion status. -/
structure Cnt where
  cvtSat   : Nat
  cvtNanz  : Nat
  cvtFlush : Nat
  fflush   : Nat
  fsat     : Nat
  fnan     : Nat
  iovf     : Nat
  clamp    : Nat
  sumsat   : Nat
  varneg   : Nat
  nanrow   : Nat
  skip     : Nat
  run      : Nat
  /-- IEEE flags in the order of BAY_SFLAGS. -/
  flags    : Nat
  /-- Bits RANGE, EMPTY, SUMSAT and VARNEG of the completion status, in their places. -/
  status   : Nat
deriving DecidableEq, Repr

/-- Nothing counted. -/
def Cnt.none : Cnt :=
  { cvtSat := 0, cvtNanz := 0, cvtFlush := 0, fflush := 0, fsat := 0, fnan := 0, iovf := 0, clamp := 0,
    sumsat := 0, varneg := 0, nanrow := 0, skip := 0, run := 0, flags := 0, status := 0 }

/-- Two counts together. -/
def Cnt.plus (a b : Cnt) : Cnt :=
  { cvtSat := a.cvtSat + b.cvtSat, cvtNanz := a.cvtNanz + b.cvtNanz, cvtFlush := a.cvtFlush + b.cvtFlush,
    fflush := a.fflush + b.fflush, fsat := a.fsat + b.fsat, fnan := a.fnan + b.fnan,
    iovf := a.iovf + b.iovf, clamp := a.clamp + b.clamp, sumsat := a.sumsat + b.sumsat,
    varneg := a.varneg + b.varneg, nanrow := a.nanrow + b.nanrow, skip := a.skip + b.skip,
    run := a.run + b.run, flags := a.flags ||| b.flags, status := a.status ||| b.status }

/-- Runs a counting function over a list, in order. -/
def mapCnt {α β : Type} (l : List α) (f : α → β × Cnt) : List β × Cnt :=
  l.foldr (fun x acc => let (y, c) := f x; (y :: acc.1, c.plus acc.2)) ([], Cnt.none)

/-- The IEEE flags of a strict rounding (04 R114, BAY_SFLAGS): inexact bit 0, underflow bit 1, overflow
bit 2, divide-by-zero bit 3, invalid bit 4. -/
def ieeeFlags (inexact tiny over_ : Bool) : Nat :=
  (if inexact then 1 else 0) + (if tiny && inexact then 2 else 0) + (if over_ then 4 else 0)

/-! ### Roundings of arithmetic -/

/-- Overflow of a finite magnitude under a rounding attribute (04 R114). -/
def strictOverflow (f : FFmt) (r : Rnd) (neg : Bool) : Nat :=
  match r with
  | .even => f.infinity neg
  | .away => f.infinity neg
  | .up => if neg then f.max neg else f.infinity neg
  | .down => if neg then f.infinity neg else f.max neg
  | .trunc => f.max neg

/-- A strict rounding to FP32, BF16 or FP16 (04 R114): the code and the flags. Tininess is judged after
rounding, as if the exponent were unbounded. -/
def roundStrict (f : FFmt) (r : Rnd) (v : Val) : Nat × Cnt :=
  match v with
  | .nan => (f.canonical, Cnt.none)
  | .inf s => (f.infinity s, Cnt.none)
  | .fin s n d e =>
    if n = 0 then (f.pack s 0 0, Cnt.none)
    else
      let l := Val.log2 n d e
      let (k, inexact) := roundUnits r s n d e (max (l - f.fbits) f.qmin)
      let (ku, _) := roundUnits r s n d e (l - f.fbits)
      let tiny := beyond (2 ^ f.fbits) f.qmin ku (l - f.fbits)
      let q := max (l - f.fbits) f.qmin
      if beyond k q f.largest.1 f.largest.2 then
        (strictOverflow f r s, { Cnt.none with flags := ieeeFlags true false true })
      else (f.pack s k q, { Cnt.none with flags := ieeeFlags inexact tiny false })

/-- A fast rounding of an arithmetic result (04 R100, R105): once by round-to-nearest-even as if the
exponent were unbounded, then the range rules, counted in BAY_FAST0. Tally64 keeps its subnormals, and a result of it
that rounds to zero counts in no field (DESIGN CHOICE, log entry 132). -/
def roundFast (f : FFmt) (ovf : Bool) (v : Val) : Nat × Cnt :=
  match v with
  | .nan => (f.canonical, Cnt.none)
  | .inf s => (f.infinity s, Cnt.none)
  | .fin s n d e =>
    if n = 0 then (f.pack s 0 0, Cnt.none)
    else
      let l := Val.log2 n d e
      let q := if f.fbits = 47 then max (l - f.fbits) f.qmin else l - f.fbits
      let (k, _) := roundUnits .even s n d e q
      if beyond k q f.largest.1 f.largest.2 then
        (if ovf then f.infinity s else f.max s, { Cnt.none with fsat := 1 })
      else if f.fbits ≠ 47 ∧ beyond (2 ^ f.fbits) f.qmin k q = true then
        (f.pack s 0 0, { Cnt.none with fflush := 1 })
      else (f.pack s k q, Cnt.none)

/-- FP32. -/
def fp32 : FFmt := ⟨8, 23, 127, .ieee⟩
/-- Tally64. -/
def tally64 : FFmt := ⟨16, 47, 32767, .ieee⟩

/-! ### Conversions -/

/-- An integer target (03 R85): rounded to nearest even; NaN gives 0, and what lies beyond gives the
most positive or most negative integer. -/
def toInteger (w : Nat) (v : Val) : Nat × Cnt :=
  let extreme (s : Bool) : Nat := if s then 2 ^ (w - 1) else 2 ^ (w - 1) - 1
  match v with
  | .nan => (0, { Cnt.none with cvtNanz := 1 })
  | .inf s => (extreme s, { Cnt.none with cvtSat := 1 })
  | .fin s n d e =>
    let (k, _) := roundUnits .even s n d e 0
    if (if s then 2 ^ (w - 1) else 2 ^ (w - 1) - 1) < k then (extreme s, { Cnt.none with cvtSat := 1 })
    else (toTwos w (if s then -(k : Int) else k), Cnt.none)

/-- FP32, BF16 and FP16. -/
def isIeee3 (fmt : Nat) : Bool := decide (fmt < 3)

/-- A fast conversion into a floating-point format (03 R84 to R86): rounded on the target's own grid;
what would be subnormal in FP32, BF16 and FP16 becomes signed zero. Whether a value lies beyond the target is
judged after the rounding too (DEDUCED, log entry 104). -/
def convertFast (fmt : Nat) (f : FFmt) (ovf : Bool) (v : Val) : Nat × Cnt :=
  match v with
  | .nan => (f.canonical, Cnt.none)
  | .inf s =>
    if f.spec = .ieee then (f.infinity s, Cnt.none) else (f.max s, { Cnt.none with cvtSat := 1 })
  | .fin s n d e =>
    if n = 0 then (f.pack s 0 0, Cnt.none)
    else
      let q := max (Val.log2 n d e - f.fbits) f.qmin
      let (k, _) := roundUnits .even s n d e q
      if beyond k q f.largest.1 f.largest.2 then
        (if ovf then (if f.spec = .ieee then f.infinity s else f.canonical) else f.max s,
         { Cnt.none with cvtSat := 1 })
      else if isIeee3 fmt = true ∧ k ≠ 0 ∧ beyond (2 ^ f.fbits) f.qmin k q = true then
        (f.pack s 0 0, { Cnt.none with cvtFlush := 1 })
      else if isIeee3 fmt = true ∧ k = 0 then (f.pack s 0 0, { Cnt.none with cvtFlush := 1 })
      else (f.pack s k q, Cnt.none)

/-- A conversion of one value into a format without block scales (03 R84 to R87). -/
def convert (a : Arith) (fmt : Nat) (v : Val) : Nat × Cnt :=
  match floatOf fmt with
  | some f =>
    if a.strict && isIeee3 fmt then roundStrict f a.rnd v else convertFast fmt f a.ovf v
  | none => toInteger (fmtBits fmt) v

/-! ### Block forms -/

/-- The value of an E8M0 scale: none for NaN (03 R70). -/
def e8m0 (x : Nat) : Option Int := if x = 0xFF then none else some ((x : Int) - 127)

/-- A Microscaling element times its block's scale (03 R71, R72). -/
def mxValue (fmt code x : Nat) : Val :=
  match e8m0 x with
  | none => .nan
  | some k => (decodeElem fmt code).mul (.fin false 1 1 k)

/-- The element format of a KV-cache form: INT8, FP8-E4M3 or KV4 (03 R77 to R79). -/
def kvValue (fmt code scale : Nat) : Val :=
  match decodeElem fBF16 scale with
  | .nan => .nan
  | .inf _ => .nan
  | .fin s n d e =>
    let v := decodeElem fmt code
    if n = 0 then Val.zero
    else if fmt = fE4M3 then v.mul (.fin s n d e)
    else if v.isZero then Val.zero
    else v.mul (.fin s n d e)

/-- The largest finite magnitude of a list; none when every value is zero or not finite. -/
def amax (vs : List Val) : Option Val :=
  vs.foldl (fun m v =>
    if v.isFin && !v.isZero then
      (match m with
       | none => some v.abs
       | some w => if w.less v.abs then some v.abs else m)
    else m) none

/-- emax of a Microscaling format for scale selection (03 R71). -/
def mxEmax (fmt : Nat) : Int :=
  match fmt with
  | 0x5 => 8 | 0x6 => 15 | 0x7 => 4 | 0x8 => 2 | 0x9 => 2 | _ => 0

/-- The largest element of a block format's target: magnitude and exponent (03 R71, R73, R89). -/
def elemLargest (fmt qmax : Nat) : Nat × Int :=
  match floatOf fmt with
  | some f => f.largest
  | none => if fmt = fMXINT8 then (127, -6) else (qmax, 0)

/-- A code of the element format for a multiple of a power of two that it holds. -/
def elemCode (fmt : Nat) (neg : Bool) (n : Nat) (q : Int) : Nat :=
  match floatOf fmt with
  | some f => f.pack neg n q
  | none => toTwos (fmtBits fmt) (if neg then -(n : Int) else n)

/-- A quotient to the nearest element of a format, to even; one beyond the largest element saturates
(03 R88, R89). An infinity keeps itself only in MXFP8-E5M2. -/
def nearestElem (fmt : Nat) (qmax : Nat) (v : Val) : Nat × Cnt :=
  let (big, bigQ) := elemLargest fmt qmax
  match v with
  | .nan => (0, Cnt.none)
  | .inf s =>
    if fmt = 0x6 then ((if s then 0xFC else 0x7C), Cnt.none)
    else (elemCode fmt s big bigQ, { Cnt.none with cvtSat := 1 })
  | .fin s n d e =>
    if n = 0 then (elemCode fmt (s && (floatOf fmt).isSome) 0 0, Cnt.none)
    else if (Val.fin false big 1 bigQ).less (.fin false n d e) then
      (elemCode fmt s big bigQ, { Cnt.none with cvtSat := 1 })
    else
      let q : Int := match floatOf fmt with
        | some f => max (Val.log2 n d e - f.fbits) f.qmin
        | none => if fmt = fMXINT8 then -6 else 0
      let (k, _) := roundUnits .even s n d e q
      (elemCode fmt s k q, Cnt.none)

/-- 32 values into one Microscaling block: the scale and the element codes (03 R88). -/
def mxBlock (fmt : Nat) (vs : List Val) : Nat × List Nat × Cnt :=
  if vs.any Val.isNan then (0xFF, vs.map fun _ => 0, Cnt.none)
  else
    let scale : Nat := match amax vs with
      | none => 0x7F
      | some m => (min (max (m.expo - mxEmax fmt + 127) 0) 0xFE).toNat
    let (codes, c) := mapCnt vs fun v =>
      nearestElem fmt 127 (match v with
        | .fin .. => v.div (.fin false 1 1 ((scale : Int) - 127))
        | _ => v)
    (scale, codes, c)

/-- qmax of a KV-cache form (03 R89). -/
def kvMax (fmt : Nat) : Nat := if fmt = fKV4 then 7 else if fmt = fINT8 then 127 else 448

/-- The BF16 format. -/
def bf16 : FFmt := ⟨8, 7, 127, .ieee⟩

/-- 32 values into one block of a KV-cache form: the BF16 scale and the element codes (03 R89). The
scale is rounded toward +∞; one beyond BF16 cannot arise from 16-bit sources, and a tiny one keeps its
subnormal. -/
def kvBlock (fmt : Nat) (vs : List Val) : Nat × List Nat × Cnt :=
  if vs.any Val.isNan then (0x7FC0, vs.map fun _ => 0, Cnt.none)
  else
    let scale : Nat := match amax vs with
      | none => 0x3F80
      | some m => (roundStrict bf16 .up (m.div (.fin false (kvMax fmt) 1 0))).1
    let s := decodeElem fBF16 scale
    let (codes, c) := mapCnt vs fun v =>
      nearestElem fmt (kvMax fmt) (match v, s with
        | .fin .., .fin .. => v.div s
        | .fin b _ _ _, _ => Val.szero b
        | _, _ => v)
    (scale, codes, c)

end Sys2Proof.Machine
end

