-- ==== Sys2Proof/Machine/Dot.lean ====
section
/-! DEFINITION. Dot products: the fast-mode slate, the accumulators, integer products, and the strict
sequence of fused multiply-adds (04). -/

namespace Sys2Proof.Machine

/-- An operand element of a dot product as the feeders deliver it: under FLUSHIN a subnormal code
becomes the zero of its sign (04 R107); no Tally64 code does, which no mode flushes (03 R81), and no MXINT8 element
counts as subnormal (log entry 105). -/
def dotElem (a : Arith) (fmt code : Nat) : Val :=
  match floatOf fmt with
  | some f =>
    if a.flushIn && decide (fmt ≠ fTally ∧ bits code f.fbits f.ebits = 0) then
      Val.szero (decide (bits code (f.ebits + f.fbits) 1 = 1))
    else decodeElem fmt code
  | none => decodeElem fmt code

/-- One slate: its products, without block scales, and the sum of the two block-scale exponents; none
when a scale is NaN (04 R95, R98, R108). -/
structure Slate where
  prods : List Val
  scale : Option Int
deriving DecidableEq, Repr

/-- floor(p / 2^q) of a product (04 R96). -/
def windowInt (q : Int) (p : Val) : Int :=
  match p with
  | .fin s n d e =>
    let (n, d) := Val.scale n d (e - q)
    Int.fdiv (if s then -(n : Int) else n) d
  | _ => 0

/-- The exact slate sum (04 R96 to R99, R109): the window sum scaled, or the special value. Its exponent is not
cut to the 12 bits of R98, which a product of Tally64 elements leaves (log entry 106). -/
def slateExact (sl : Slate) : Val :=
  match sl.scale with
  | none => .nan
  | some x =>
    if sl.prods.any Val.isNan then .nan
    else
      let pos := sl.prods.any fun p => decide (p = .inf false)
      let neg := sl.prods.any fun p => decide (p = .inf true)
      if pos && neg then .nan
      else if pos then .inf false
      else if neg then .inf true
      else
        let nz := sl.prods.filter fun p => !p.isZero
        match nz with
        | [] => Val.szero (decide (32 ≤ sl.prods.length) && sl.prods.all Val.sign)
        | p :: ps =>
          let emax := ps.foldl (fun m q => max m q.expo) p.expo
          let w := nz.foldl (fun t q => t + windowInt (emax - 47) q) (0 : Int)
          Val.dyadic w (emax + x - 47)

/-- The accumulator format: Tally64 under TALLY, else FP32 (04 R101, R111). -/
def accFmt (a : Arith) : FFmt := if a.tally then tally64 else fp32

/-- Format code of the accumulator. -/
def accCode (a : Arith) : Nat := if a.tally then fTally else fFP32

/-- A value rounded once to the accumulator format (04 R100, R101, R111). -/
def roundAcc (a : Arith) (v : Val) : Val × Cnt :=
  let (c, n) := roundFast (accFmt a) a.ovf v
  (decodeElem (accCode a) c, n)

/-- One accumulator step: the slate sum rounded, then added and rounded again (04 R100, R101, R110). -/
def slateStep (a : Arith) (acc : Val) (sl : Slate) : Val × Cnt :=
  let (s, c) := roundAcc a (slateExact sl)
  let (r, c') := roundAcc a (acc.add s)
  (r, c.plus c')

/-- The slates in order (04 R102). -/
def dotFast (a : Arith) (init : Val) (sls : List Slate) : Val × Cnt :=
  sls.foldl (fun acc sl => let (r, c) := slateStep a acc.1 sl; (r, acc.2.plus c)) (init, Cnt.none)

/-- One range step of an INT32 accumulator (04 R106). -/
def rangeStep (ovf : Bool) (x : Int) : Int × Cnt :=
  if x < -(2 ^ 31) ∨ 2 ^ 31 ≤ x then
    (if ovf then ofTwos 32 (toTwos 32 x) else if x < 0 then -(2 ^ 31) else 2 ^ 31 - 1,
     { Cnt.none with iovf := 1 })
  else (x, Cnt.none)

/-- An integer dot product, one range step per slate (04 R104, R106). -/
def dotInt (ovf : Bool) (init : Int) (slates : List (List Int)) : Int × Cnt :=
  slates.foldl (fun acc sl =>
    let (r, c) := rangeStep ovf (sl.foldl (· + ·) acc.1)
    (r, acc.2.plus c)) (init, Cnt.none)

/-- A fused multiply-add of strict mode in FP32 (04 R113, R114): invalid when a NaN arises from operands
that are none. -/
def strictFma (a : Arith) (x y z : Val) : Val × Cnt :=
  let v := (x.mul y).add z (decide (a.rnd = .down))
  let inv := v.isNan && !(x.isNan || y.isNan || z.isNan)
  let (c, n) := roundStrict fp32 a.rnd v
  (decodeElem fFP32 c, if inv then { n with flags := n.flags ||| 16 } else n)

/-- A strict dot product in ascending K (04 R113). -/
def dotStrict (a : Arith) (init : Val) (pairs : List (Val × Val)) : Val × Cnt :=
  pairs.foldl (fun acc p => let (r, c) := strictFma a p.1 p.2 acc.1; (r, acc.2.plus c)) (init, Cnt.none)

/-- Cuts a list into runs of 32. -/
def chunks32 {α : Type} (fuel : Nat) (l : List α) : List (List α) :=
  match fuel with
  | 0 => []
  | n + 1 => if l.isEmpty then [] else l.take 32 :: chunks32 n (l.drop 32)

/-- A list filled to 32 entries. -/
def pad32 {α : Type} (d : α) (l : List α) : List α := l ++ List.replicate (32 - l.length) d

/-- A float dot product of scale-free operands: slates of 32 in order, the last filled with +0
(04 R95 to R103). `scales` gives each slate's scale sum. -/
def slatesOf (pairs : List (Val × Val)) (scales : Nat → Option Int) : List Slate :=
  ((chunks32 pairs.length pairs).zipIdx).map fun (ps, i) =>
    { prods := pad32 Val.zero (ps.map fun p => p.1.mul p.2), scale := scales i }

/-- An output element of a fast-mode task whose final accumulator is NaN (04 R117). -/
def nanCount (a : Arith) (v : Val) : Cnt :=
  if !a.strict && v.isNan then { Cnt.none with fnan := 1 } else Cnt.none

/-- A dot product under an arithmetic word, of operands without block scales: the accumulator. -/
def dotPlain (a : Arith) (init : Val) (pairs : List (Val × Val)) : Val × Cnt :=
  if a.strict then dotStrict a init pairs else dotFast a init (slatesOf pairs fun _ => some 0)

end Sys2Proof.Machine
end

