-- ==== Sys2Proof/Machine/Operands.lean ====
section
/-! DEFINITION. Operand forms: the fields of descriptors, operand references, the rows and blocks of an
operand, reading its elements and forming the bytes of its results (09 R220 to R260, R516, R517). -/

namespace Sys2Proof.Machine

/-! ### Descriptor fields -/

/-- The `n` bits from bit `lo` of the field that starts at a byte (09 R220). -/
def dbits (d : List Byte) (off lo n : Nat) : Nat := bits (le d off 16) lo n

/-- Opcodes of 09 R223. -/
def opGemm : Nat := 0x01
def opConv : Nat := 0x02
def opDwconv : Nat := 0x03
def opAttn : Nat := 0x04
def opElem : Nat := 0x05
def opSfu : Nat := 0x06
def opNorm : Nat := 0x07
def opPool : Nat := 0x08
def opMove : Nat := 0x09
def opKvappend : Nat := 0x0A
def opReduce : Nat := 0x0B
def opPeg : Nat := 0x0C
def opTie : Nat := 0x0D
def opMedia : Nat := 0x0E

/-- OPCODE of the header (09 R222). -/
def dOp (d : List Byte) : Nat := le d 0 1
/-- WAITEN. -/
def dWaitEn (d : List Byte) : Bool := decide (dbits d 1 0 1 = 1)
/-- SIGEN. -/
def dSigEn (d : List Byte) : Bool := decide (dbits d 1 1 1 = 1)
/-- STATEN. -/
def dStatEn (d : List Byte) : Bool := decide (dbits d 1 2 1 = 1)
/-- PLAN. -/
def dPlan (d : List Byte) : Nat := le d 2 2
/-- BUDGET. -/
def dBudget (d : List Byte) : Nat := le d 4 2
/-- WAITPEG. -/
def dWaitPeg (d : List Byte) : Nat := le d 8 2
/-- SIGPEG. -/
def dSigPeg (d : List Byte) : Nat := le d 10 2
/-- WAITTH. -/
def dWaitTh (d : List Byte) : Nat := le d 12 4
/-- SIGADD. -/
def dSigAdd (d : List Byte) : Nat := le d 16 4
/-- STATUS. -/
def dStatus (d : List Byte) : Nat := dbits d 24 0 40

/-! ### Operand references -/

/-- An operand: its reference (09 R225), its scale plane, and whether INT8 or FP8-E4M3 codes are read
as a KV-cache form (03 R79). -/
structure Ref where
  addr      : Nat
  fmt       : Nat
  lath      : Bool
  pitch     : Nat
  scale     : Nat
  kv        : Bool
  /-- The scale plane stands in the same Lath as the elements (09 R257, kind 0x2). -/
  scaleLath : Bool
deriving DecidableEq, Repr

/-- The operand reference in 8 bytes (09 R225). -/
def refOf (w scale : Nat) : Ref :=
  { addr := bits w 0 40, fmt := bits w 40 4, lath := decide (bits w 44 1 = 1), pitch := bits w 45 19,
    scale := scale, kv := false, scaleLath := false }

/-- The operand reference at a byte of a descriptor, with no scale plane. -/
def refAt (d : List Byte) (off : Nat) : Ref := refOf (le d off 8) 0

/-- The operand reference at a byte of a descriptor, with the scale-plane field at another. -/
def refScaled (d : List Byte) (off scaleOff : Nat) : Ref := refOf (le d off 8) (dbits d scaleOff 0 40)

/-- The operand stands in blocks of 32 with a scale each. -/
def Ref.block (r : Ref) : Bool := isBlock r.fmt || r.kv

/-- Bytes of one scale: E8M0 or BF16 (03 R74, R78). -/
def Ref.scaleBytes (r : Ref) : Nat := if isMx r.fmt then 1 else 2

/-- Blocks of a row of `len` elements (03 R516). -/
def rowBlocks (len : Nat) : Nat := ceilDiv len 32

/-- Bytes that the elements of a row occupy (03 R516). -/
def Ref.rowBytes (r : Ref) (len : Nat) : Nat :=
  if r.block then rowBlocks len * 4 * fmtBits r.fmt else ceilDiv (len * fmtBits r.fmt) 8

/-- Distance from one row to the next (09 R225, 03 R516). -/
def Ref.stride (r : Ref) (len : Nat) : Nat := if r.pitch = 0 then r.rowBytes len else 32 * r.pitch

/-- Address of the first element of a row. -/
def Ref.rowAddr (r : Ref) (len row : Nat) : Nat := r.addr + row * r.stride len

/-- Address of the scale of a block of a row (03 R516). -/
def Ref.scaleAddr (r : Ref) (len row blk : Nat) : Nat :=
  r.scale + (row * rowBlocks len + blk) * r.scaleBytes

/-- A range of bytes that a task reads or writes: in module memory, or in a bay's Lath. -/
structure Span where
  lath : Bool
  addr : Nat
  size : Nat
deriving DecidableEq, Repr

/-- Two spans share a byte. -/
def Span.meets (a b : Span) : Bool :=
  decide (a.lath = b.lath ∧ a.addr < b.addr + b.size ∧ b.addr < a.addr + a.size)

/-- The element bytes of `rows` rows of `len` elements, from the first to the last byte reached; and
the scale plane of a block form. -/
def Ref.spans (r : Ref) (rows len : Nat) : List Span :=
  if rows = 0 ∨ len = 0 then []
  else
    { lath := r.lath, addr := r.addr, size := (rows - 1) * r.stride len + r.rowBytes len } ::
      (if r.block then
        [{ lath := r.scaleLath, addr := r.scale, size := rows * rowBlocks len * r.scaleBytes }]
       else [])

/-- The runs of element bytes and scales that are actually read, row by row where a pitch leaves
gaps. -/
def Ref.runs (r : Ref) (rows len : Nat) : List Span :=
  if rows = 0 ∨ len = 0 then []
  else
    (if r.stride len = r.rowBytes len then
      [{ lath := r.lath, addr := r.addr, size := rows * r.rowBytes len }]
     else (List.range rows).map fun i =>
       { lath := r.lath, addr := r.rowAddr len i, size := r.rowBytes len }) ++
    (if r.block then
      [{ lath := r.scaleLath, addr := r.scale, size := rows * rowBlocks len * r.scaleBytes }]
     else [])

/-- The last byte of an operand lies within the Lath when LATH is 1 (09 R517). -/
def Ref.fits (r : Ref) (rows len : Nat) : Bool :=
  (r.spans rows len).all fun p => !p.lath || decide (p.addr + p.size ≤ lathSize)

/-! ### Reading -/

/-- `n` bytes of module memory or of a bay's Lath. -/
def State.fetch (s : State) (b : PBay) (lath : Bool) (a n : Nat) : List Byte :=
  (List.range n).map fun i => if lath then s.lathPeek b (a + i) else s.peek (a + i)

/-- `w` bits from a bit position, as one little-endian bit string (03 R75). -/
def State.fetchBits (s : State) (b : PBay) (lath : Bool) (a pos w : Nat) : Nat :=
  bits (ofLe (s.fetch b lath (a + pos / 8) ((pos % 8 + w + 7) / 8))) (pos % 8) w

/-- The code of an element: `i` in a row of `len` (03 R75, R516). -/
def State.code (s : State) (b : PBay) (r : Ref) (len row i : Nat) : Nat :=
  let w := fmtBits r.fmt
  if r.block then s.fetchBits b r.lath (r.rowAddr len row + i / 32 * (4 * w)) (w * (i % 32)) w
  else s.fetchBits b r.lath (r.rowAddr len row) (w * i) w

/-- The scale of an element's block. -/
def State.scaleOf (s : State) (b : PBay) (r : Ref) (len row i : Nat) : Nat :=
  ofLe (s.fetch b r.scaleLath (r.scaleAddr len row (i / 32)) r.scaleBytes)

/-- The value of an element (03 R64 to R82). -/
def State.value (s : State) (b : PBay) (r : Ref) (len row i : Nat) : Val :=
  let c := s.code b r len row i
  if isMx r.fmt then mxValue r.fmt c (s.scaleOf b r len row i)
  else if r.block then kvValue r.fmt c (s.scaleOf b r len row i)
  else decodeElem r.fmt c

/-- A row of values. -/
def State.rowValues (s : State) (b : PBay) (r : Ref) (len row : Nat) : List Val :=
  (List.range len).map fun i => s.value b r len row i

/-- The integer of an INT8 or INT32 element. -/
def State.intValue (s : State) (b : PBay) (r : Ref) (len row i : Nat) : Int :=
  ofTwos (fmtBits r.fmt) (s.code b r len row i)

/-- What reading the runs of a task records, and whether any sector was poisoned (10 R289). -/
def State.noteRuns (s : State) (src : Source) (runs : List Span) : State × Bool :=
  runs.foldl (fun acc r =>
    if r.lath then acc
    else
      let (s, bad) := State.noteRead acc.1 src r.addr r.size
      (s, acc.2 || bad)) (s, false)

/-! ### Results -/

/-- The results of a task: what it will write, what it counts, and its pegs of completion. -/
structure Result where
  outs : List OutWrite
  cnt  : Cnt
deriving DecidableEq, Repr

/-- No result. -/
def Result.none : Result := { outs := [], cnt := Cnt.none }

/-- One result after another. -/
def Result.then_ (a b : Result) : Result := { outs := a.outs ++ b.outs, cnt := a.cnt.plus b.cnt }

/-- The results of a list of steps, in order. -/
def Result.all {α : Type} (l : List α) (f : α → Result) : Result :=
  l.foldr (fun x acc => Result.then_ (f x) acc) Result.none

/-- A count alone. -/
def Result.count (c : Cnt) : Result := { outs := [], cnt := c }

/-- Where an operand's bytes go. -/
def Ref.space (r : Ref) (b : PBay) : Space := if r.lath then .lath b else .mem

/-- How the elements of an output row leave a bay (05 R130, R131): the gutter of each, and the gutter entry they
belong to. -/
structure Route where
  gutter : Nat → Option Nat
  entry  : Nat × Nat

/-- Results of the Purlin unit leave by no gutter. -/
def Route.purlin : Route := { gutter := fun _ => none, entry := (0, 0) }

/-- Elements of the array's element-wise path leave through the diagonal cells, one for each array row, 128 at a time
(05 R143, R144; DEDUCED that they stream in operand order, log entry 42). -/
def Route.diagonal (k : Nat) : Route := { gutter := fun _ => some (k % 128), entry := (k / 128, 0) }

/-- The bytes of a code at an element's place: formats without block scales are whole bytes. -/
def putCode (b : PBay) (rt : Route) (r : Ref) (len row i code : Nat) : OutWrite :=
  { bay := b, gutters := (rt.gutter i).toList, entry := rt.entry, space := r.space b,
    addr := r.rowAddr len row + i * (fmtBits r.fmt / 8)
    data := (toLe (fmtBits r.fmt / 8) code).map some }

/-- One value converted to the operand's format and put in its place (03 R84 to R87). -/
def putValue (b : PBay) (ar : Arith) (rt : Route) (r : Ref) (len row i : Nat) (v : Val) : Result :=
  let (code, c) := convert ar r.fmt v
  { outs := [putCode b rt r len row i code], cnt := c }

/-- The bytes that codes of `w` bits fill from the start of a block; the bits beyond them keep what the
byte `old` holds (03 R75, 09 R243, R244). -/
def packCodes (w : Nat) (codes : List Nat) (old : Nat) : List Byte :=
  let n := w * codes.length
  let v := (codes.zipIdx).foldl (fun t (c, j) => t + c % 2 ^ w * 2 ^ (w * j)) 0
  if n % 8 = 0 then toLe (n / 8) v
  else toLe (n / 8 + 1) (v + old / 2 ^ (n % 8) * 2 ^ n)

/-- The writes of one block: its scale and the codes of its valid elements. They wait for the gutter entries of
all its elements (DEDUCED, log entry 42). -/
def putBlock (s : State) (b : PBay) (rt : Route) (r : Ref) (len row blk valid scale : Nat)
    (codes : List Nat) : List OutWrite :=
  let w := fmtBits r.fmt
  let a := r.rowAddr len row + blk * (4 * w)
  let old := ofLe (s.fetch b r.lath (a + w * valid / 8) 1)
  let gutters := ((List.range valid).filterMap fun i => rt.gutter (32 * blk + i)).eraseDups
  [{ bay := b, gutters := gutters, entry := rt.entry, space := r.space b, addr := a,
     data := (packCodes w (codes.take valid) old).map some },
   { bay := b, gutters := gutters, entry := rt.entry, space := if r.scaleLath then .lath b else .mem, addr := r.scaleAddr len row blk,
     data := (toLe r.scaleBytes scale).map some }]

/-- Part of a row of an operand, from element `first` on, from its values: element by element, or block
by block with +0 at the positions beyond the row (03 R84 to R89, R516; 09 R244). `first` is a multiple
of 32 for a block form. -/
def putValues (s : State) (b : PBay) (ar : Arith) (rt : Route) (r : Ref) (len row first : Nat)
    (vs : List Val) : Result :=
  if r.block then
    Result.all ((chunks32 vs.length vs).zipIdx) fun (c, k) =>
      let blk := first / 32 + k
      let (scale, codes, n) :=
        if isMx r.fmt then mxBlock r.fmt (pad32 Val.zero c) else kvBlock r.fmt (pad32 Val.zero c)
      { outs := putBlock s b rt r len row blk c.length scale codes, cnt := n }
  else
    Result.all vs.zipIdx fun (v, k) => putValue b ar rt r len row (first + k) v

/-! ### Shapes and windows -/

/-- The axes of a window operator (07 R172). -/
structure Axis where
  ext  : Nat
  k    : Nat
  s    : Nat
  d    : Nat
  lo   : Nat
  hi   : Nat
deriving DecidableEq, Repr

/-- Output extent of an axis (07 R173). -/
def Axis.out (a : Axis) : Nat :=
  let span : Int := (a.ext : Int) + a.lo + a.hi - ((a.k : Int) - 1) * a.d - 1
  if span < 0 then 0 else span.toNat / max a.s 1 + 1

/-- The input position of an output position and tap; none in padding (07 R173). -/
def Axis.pos (a : Axis) (o t : Nat) : Option Nat :=
  let i : Int := (o : Int) * a.s + (t : Int) * a.d - a.lo
  if i < 0 ∨ (a.ext : Int) ≤ i then none else some i.toNat

/-- The window and shape blocks of a CONV, DWCONV or POOL body (09 R247, R248). -/
structure Window where
  ns     : Nat
  c      : Nat
  co     : Nat
  t      : Axis
  h      : Axis
  w      : Axis
  padded : Bool
  /-- LAYOUT 1: channel-last input. -/
  last   : Bool
  padVal : Nat
  groups : Nat
deriving DecidableEq, Repr

/-- The window of a descriptor (09 R247, R248). -/
def windowOf (d : List Byte) : Window :=
  { ns := le d 112 2, c := le d 114 2, co := le d 122 2,
    t := { ext := le d 116 2, k := dbits d 80 0 4, s := dbits d 80 14 4, d := dbits d 80 26 7,
           lo := dbits d 86 0 10, hi := dbits d 86 10 10 },
    h := { ext := le d 118 2, k := dbits d 80 4 5, s := dbits d 80 18 4, d := dbits d 80 33 7,
           lo := dbits d 86 20 10, hi := dbits d 86 30 10 },
    w := { ext := le d 120 2, k := dbits d 80 9 5, s := dbits d 80 22 4, d := dbits d 80 40 7,
           lo := dbits d 86 40 10, hi := dbits d 86 50 10 },
    padded := decide (dbits d 86 60 1 = 1), last := decide (dbits d 86 61 1 = 1),
    padVal := le d 94 2, groups := le d 96 2 }

/-- Up-sampling factors UFT, UFH, UFW (09 R247). -/
def upFactors (d : List Byte) : Nat × Nat × Nat := (dbits d 99 0 4, dbits d 99 4 4, dbits d 99 8 4)

/-- KIND of a POOL body. -/
def poolKind (d : List Byte) : Nat := dbits d 98 0 4

/-- The output extents T, H, W of a window task: those of 07 R173, or the factors of an up-sampling. -/
def outExtents (d : List Byte) : Nat × Nat × Nat :=
  let w := windowOf d
  if dOp d = opPool ∧ (poolKind d = 3 ∨ poolKind d = 4) then
    let (ft, fh, fw) := upFactors d
    (w.t.ext * ft, w.h.ext * fh, w.w.ext * fw)
  else (w.t.out, w.h.out, w.w.out)

/-- The rows and length of a planar tensor's operand: NS × C × T × H rows of W (07 R174). -/
def planarRows (ns c t h : Nat) : Nat := ns * c * t * h

/-- The row and position of an input element: planar, or channel-last with rows of C (07 R174, R175). -/
def inPlace (w : Window) (n c t h x : Nat) : Nat × Nat × Nat :=
  if w.last then (w.c, ((n * w.t.ext + t) * w.h.ext + h) * w.w.ext + x, c)
  else (w.w.ext, ((n * w.c + c) * w.t.ext + t) * w.h.ext + h, x)

/-- Rows and row length of the input operand. -/
def inRows (w : Window) : Nat × Nat :=
  if w.last then (w.ns * w.t.ext * w.h.ext * w.w.ext, w.c)
  else (planarRows w.ns w.c w.t.ext w.h.ext, w.w.ext)

/-- The shape fields of a task with their codes, in code order (09 R229). -/
def shapeOf (d : List Byte) : List Nat :=
  match dOp d with
  | 0x01 => [le d 88 3, le d 91 3, le d 94 3]
  | 0x02 => [le d 112 2, le d 114 2, le d 116 2, le d 118 2, le d 120 2, le d 122 2]
  | 0x03 => [le d 112 2, le d 114 2, le d 116 2, le d 118 2, le d 120 2, le d 122 2]
  | 0x08 => [le d 112 2, le d 114 2, le d 116 2, le d 118 2, le d 120 2, le d 122 2]
  | 0x04 => [le d 80 3, le d 83 3, if dbits d 108 2 2 = 2 then dbits d 110 0 5 else 0]
  | 0x05 => [le d 72 4, le d 76 4]
  | 0x07 => [le d 72 4, le d 76 4]
  | 0x06 => [le d 52 4]
  | 0x0B => [le d 52 4]
  | 0x09 => [le d 68 4, le d 72 4, le d 76 4]
  | 0x0A => [le d 67 3]
  | _ => []

/-- The places of the shape fields in a descriptor: byte offset, bytes, and bits used (09 R229). -/
def shapeFields (d : List Byte) : List (Nat × Nat × Nat) :=
  match dOp d with
  | 0x01 => [(88, 3, 24), (91, 3, 24), (94, 3, 24)]
  | 0x02 => [(112, 2, 16), (114, 2, 16), (116, 2, 16), (118, 2, 16), (120, 2, 16), (122, 2, 16)]
  | 0x03 => [(112, 2, 16), (114, 2, 16), (116, 2, 16), (118, 2, 16), (120, 2, 16), (122, 2, 16)]
  | 0x08 => [(112, 2, 16), (114, 2, 16), (116, 2, 16), (118, 2, 16), (120, 2, 16), (122, 2, 16)]
  | 0x04 => [(80, 3, 24), (83, 3, 24)] ++ (if dbits d 108 2 2 = 2 then [(110, 1, 5)] else [])
  | 0x05 => [(72, 4, 32), (76, 4, 32)]
  | 0x07 => [(72, 4, 32), (76, 4, 32)]
  | 0x06 => [(52, 4, 32)]
  | 0x0B => [(52, 4, 32)]
  | 0x09 => [(68, 4, 32), (72, 4, 32), (76, 4, 32)]
  | 0x0A => [(67, 3, 24)]
  | _ => []

/-- A list of bytes with some of them replaced by a little-endian number. -/
def setLe (d : List Byte) (o n v : Nat) : List Byte := d.take o ++ toLe n v ++ d.drop (o + n)

/-- A descriptor with the largest shape that maxima let its fields take. -/
def atMaxima (d : List Byte) (maxs : List Nat) : List Byte :=
  (shapeFields d).zipIdx.foldl (fun d ((o, n, w), i) => setLe d o n (min (maxs.getD i 0) (2 ^ w - 1))) d

/-- The zero-shape condition of 09 R229. -/
def zeroShape (d : List Byte) : Bool :=
  let sh := shapeOf d
  match dOp d with
  | 0x01 => decide (sh.getD 0 0 = 0 ∨ sh.getD 1 0 = 0)
  | 0x04 => decide (sh.getD 0 0 = 0 ∨ (sh.getD 1 0 = 0 ∧ dbits d 108 2 2 = 0))
  | 0x02 => (sh.any fun x => x = 0) || decide ((outExtents d).1 = 0 ∨ (outExtents d).2.1 = 0 ∨ (outExtents d).2.2 = 0)
  | 0x03 => (sh.any fun x => x = 0) || decide ((outExtents d).1 = 0 ∨ (outExtents d).2.1 = 0 ∨ (outExtents d).2.2 = 0)
  | 0x08 => (sh.any fun x => x = 0) || decide ((outExtents d).1 = 0 ∨ (outExtents d).2.1 = 0 ∨ (outExtents d).2.2 = 0)
  | _ => sh.any fun x => x = 0

/-! ### The members of a REDUCE -/

/-- Fields of a REDUCE body (09 R259). -/
def redOp (d : List Byte) : Nat := le d 48 1
def redKind (d : List Byte) : Nat := le d 49 1
def redScope (d : List Byte) : Nat := le d 50 1
def redAxis (d : List Byte) : Nat := dbits d 51 0 2
def redCount (d : List Byte) : Nat := le d 52 4
def redRoot (d : List Byte) : Nat := le d 56 2

/-- SRC or DST of a REDUCE. A shift may name a block format (15 R422): the body names no scale plane, so its scales follow
its elements (DESIGN CHOICE, log entry 138). -/
def redRef (d : List Byte) (off : Nat) : Ref :=
  let r := refAt d off
  if r.block then { r with scale := r.addr + r.rowBytes (redCount d), scaleLath := r.lath } else r

/-- Bytes of a block as it travels: its scale, then its codes (log entry 138). -/
def blockBytes (fmt : Nat) : Nat := (if isMx fmt then 1 else 2) + 4 * fmtBits fmt

/-- Bytes of the first `n` elements of a format as they travel, whole blocks of a block format. -/
def travelBytes (fmt n : Nat) : Nat := if isBlock fmt then ceilDiv n 32 * blockBytes fmt else n * (fmtBits fmt / 8)

/-- The element that stands at a byte of data that travel. -/
def travelFirst (fmt off : Nat) : Nat :=
  if isBlock fmt then off / max (blockBytes fmt) 1 * 32 else off / max (fmtBits fmt / 8) 1

/-! ### Input and output ranges -/

/-- MOVE reads or writes INT8 and FP8-E4M3 as KV-cache forms when their scale plane is named (09 R257:
DEDUCED, a scale-plane field of 0 names none). -/
def moveRef (d : List Byte) (off scaleOff : Nat) : Ref :=
  let r := refScaled d off scaleOff
  { r with kv := decide ((r.fmt = fINT8 ∨ r.fmt = fE4M3) ∧ r.scale ≠ 0) }

/-- The target of a MOVE; for kind 0x2 it and its scales are offsets in the target Lath (09 R257). -/
def moveDst (d : List Byte) : Ref :=
  let r := moveRef d 40 56
  if le d 64 1 = 2 then { r with scaleLath := true } else r

/-- Head dimension of an ATTN or KVAPPEND body. -/
def headDim (d : List Byte) : Nat := 32 * (if dOp d = opAttn then dbits d 106 0 4 else dbits d 70 0 4)

/-- Bytes of a partial record (09 R251). -/
def partialBytes (dim : Nat) : Nat := 4 * dim + 16

/-- A page-table range: entries of the pages from `first` on (08 R211). -/
def tableSpan (base first count : Nat) : List Span :=
  if count = 0 then [] else [{ lath := false, addr := base + 8 * first, size := 8 * count }]

/-- A range of module memory. -/
def memSpan (addr size : Nat) : List Span :=
  if size = 0 then [] else [{ lath := false, addr := addr, size := size }]

/-- Each input operand of a task with the byte offset of its field and the ranges that `sp` gives it; the pages
that page tables reach are apart (17 R462). -/
def inParts (sp : Ref → Nat → Nat → List Span) (d bwd : List Byte) : List (Nat × List Span) :=
  let sh (i : Nat) := (shapeOf d).getD i 0
  let w := windowOf d
  match dOp d with
  | 0x01 =>
    if sh 2 = 0 then (if dbits d 97 0 1 = 1 then [(56, sp (refAt d 56) (sh 0) (sh 1))] else [])
    else
      [(32, sp (refScaled d 32 64) (sh 0) (sh 2)), (40, sp (refScaled d 40 72) (sh 1) (sh 2))] ++
      (if dbits d 97 0 1 = 1 then [(56, sp (refAt d 56) (sh 0) (sh 1))] else [])
  | 0x02 =>
    [(32, sp (refAt d 32) (inRows w).1 (inRows w).2),
     (40, sp (refScaled d 40 64) w.co (w.c / max w.groups 1 * (w.t.k * w.h.k * w.w.k)))] ++
    (if dbits d 72 0 1 = 1 then [(56, sp (refAt d 56) 1 w.co)] else [])
  | 0x03 =>
    [(32, sp (refAt d 32) (inRows w).1 (inRows w).2),
     (40, sp (refAt d 40) w.co (w.c / max w.groups 1 * (w.t.k * w.h.k * w.w.k)))] ++
    (if dbits d 72 0 1 = 1 then [(56, sp (refAt d 56) 1 w.co)] else [])
  | 0x08 => [(32, sp (refAt d 32) (inRows w).1 (inRows w).2)]
  | 0x04 =>
    let dim := headDim d
    [(32, sp (refAt d 32) (sh 0) dim), (40, tableSpan (dbits d 40 0 40) 0 (ceilDiv (sh 1) 128)),
     (48, tableSpan (dbits d 48 0 40) 0 (ceilDiv (sh 1) 128)),
     (72, if dbits d 108 2 2 = 1 then memSpan (dbits d 72 0 40) (sh 0 * partialBytes dim)
          else if dbits d 108 2 2 = 2 then memSpan (dbits d 72 0 40) (8 * dbits d 110 0 5) else [])] ++
    (if dbits d 108 0 1 = 1 then
      [(112, sp (refOf (le bwd 0 8) 0) (sh 0) dim ++ memSpan (dbits bwd 8 0 40) (4 * sh 0) ++
         memSpan (dbits bwd 16 0 40) (4 * sh 0))]
     else [])
  | 0x05 =>
    let op := le d 68 1
    [(32, sp (refAt d 32) (sh 0) (sh 1))] ++
    (if op = 1 ∨ op = 2 ∨ op = 3 ∨ op = 4 ∨ op = 5 ∨ op = 6 ∨ op = 8 then
      [(40, sp (refAt d 40) (if dbits d 69 0 1 = 1 then 1 else sh 0) (sh 1))] else []) ++
    (if op = 4 then [(48, sp (refAt d 48) (if dbits d 69 1 1 = 1 then 1 else sh 0) (sh 1))] else [])
  | 0x06 => [(32, sp (refAt d 32) 1 (sh 0))]
  | 0x07 =>
    let n := if dbits d 68 0 4 = 2 then le d 82 2 * le d 80 2 else sh 1
    [(32, sp (refAt d 32) (sh 0) (sh 1))] ++
    (if dbits d 68 0 4 ≤ 2 then
      [(48, sp (refAt d 48) 1 n)] ++ (if dbits d 68 4 1 = 1 then [(56, sp (refAt d 56) 1 n)] else [])
     else [])
  | 0x09 => [(32, sp (moveRef d 32 48) (sh 0 * sh 2) (sh 1))]
  | 0x0A =>
    let pos := le d 64 3
    let n := if sh 0 = 0 then 0 else (pos + sh 0 - 1) / 128 - pos / 128 + 1
    [(32, sp (refAt d 32) (sh 0) (headDim d)), (40, sp (refAt d 40) (sh 0) (headDim d)),
     (48, tableSpan (dbits d 48 0 40) (pos / 128) n), (56, tableSpan (dbits d 56 0 40) (pos / 128) n)]
  | 0x0B =>
    if (redKind d = 4 ∨ redKind d = 5) ∧ (refAt d 32).addr = 0 then []
    else [(32, sp (redRef d 32) 1 (sh 0))]
  | _ => []

/-- The ranges that the input operands reach (09 R517, 17 R462). -/
def inSpans (d bwd : List Byte) : List (Nat × List Span) := inParts Ref.spans d bwd

/-- The bytes that the task reads. -/
def inRuns (d bwd : List Byte) : List Span := (inParts Ref.runs d bwd).flatMap fun p => p.2

/-- Each output operand of a task that it writes in its own bay's reach. `n` is the number of members
of a REDUCE. -/
def outSpans (d bwd : List Byte) (n : Nat) : List (Nat × List Span) :=
  let sh (i : Nat) := (shapeOf d).getD i 0
  let w := windowOf d
  let (ot, oh, ow) := outExtents d
  match dOp d with
  | 0x01 => [(48, (refScaled d 48 80).spans (sh 0) (sh 1))]
  | 0x02 => [(48, (refAt d 48).spans (planarRows w.ns w.co ot oh) ow)]
  | 0x03 => [(48, (refAt d 48).spans (planarRows w.ns w.co ot oh) ow)]
  | 0x08 => [(40, (refAt d 40).spans (planarRows w.ns w.c ot oh) ow)]
  | 0x04 =>
    let dim := headDim d
    let r := refAt d 56
    if dbits d 108 0 1 = 1 then
      [(112, (refOf (le bwd 24 8) 0).spans (sh 0) dim ++ (refOf (le bwd 32 8) 0).spans (sh 1) dim ++
         (refOf (le bwd 40 8) 0).spans (sh 1) dim)]
    else if dbits d 108 4 1 = 1 then
      (if sh 0 = 0 then [] else [(56, [{ lath := r.lath, addr := r.addr, size := sh 0 * partialBytes dim }])])
    else
      [(56, r.spans (sh 0) dim)] ++
      (if dbits d 64 0 40 ≠ 0 then [(64, memSpan (dbits d 64 0 40) (4 * sh 0))] else [])
  | 0x05 => [(56, (refAt d 56).spans (sh 0) (if le d 68 1 = 8 then 1 else sh 1))]
  | 0x06 => [(40, (refAt d 40).spans 1 (sh 0))]
  | 0x07 => [(40, (refAt d 40).spans (sh 0) (sh 1))]
  | 0x09 =>
    if le d 64 1 = 2 then []
    else if le d 64 1 = 1 then [(40, (moveDst d).spans (sh 1 * sh 2) (sh 0))]
    else [(40, (moveDst d).spans (sh 0 * sh 2) (sh 1))]
  | 0x0B =>
    if (redKind d = 4 ∨ redKind d = 5) ∧ (refAt d 40).addr = 0 then []
    else
      let len := if redKind d = 1 then sh 0 / max n 1 else if redKind d = 2 then n * sh 0 else sh 0
      [(40, (redRef d 40).spans 1 len)]
  | _ => []

/-- The ranges that a MOVE of kind 0x2 writes in the target bay's Lath (09 R257). -/
def remoteSpans (d : List Byte) : List (Nat × List Span) :=
  if dOp d = opMove ∧ le d 64 1 = 2 then
    let sh (i : Nat) := (shapeOf d).getD i 0
    let sp := (moveDst d).spans (sh 0 * sh 2) (sh 1)
    [(40, sp.take 1), (56, sp.drop 1)]
  else []

end Sys2Proof.Machine
end

