-- ==== Sys2Proof/Machine/Sfu.lean ====
section
/-! DEFINITION. Special functions: the exact function values to several hundred bits, the results of special
inputs, the bounds of 06 R153, and custom tables (06 R146 to R162). -/

namespace Sys2Proof.Machine

/-! ### Fixed-point evaluation: integers in units of 2^-p -/

/-- The integer square root by binary digits. -/
def isqrtGo (fuel n r : Nat) : Nat :=
  match fuel with
  | 0 => r
  | k + 1 => let c := r + 2 ^ k; isqrtGo k n (if c * c ≤ n then c else r)

/-- The integer square root. -/
def isqrt (n : Nat) : Nat := isqrtGo (Nat.log2 n / 2 + 1) n 0

/-- The sum of the terms s / (d(k) q^k) with alternating signs for arctan, or one sign for artanh, of
1 / q: the power is divided by q² at each step. -/
def invSeries (alt : Bool) (fuel k : Nat) (pow : Nat) (q2 : Nat) : Int :=
  match fuel with
  | 0 => 0
  | n + 1 =>
    let t : Int := (pow / (2 * k + 1) : Nat)
    (if alt && decide (k % 2 = 1) then -t else t) + invSeries alt n (k + 1) (pow / q2) q2

/-- arctan(1 / q) in units of 2^-p. -/
def arctanInv (p q : Nat) : Int := invSeries true p 0 (2 ^ p / q) (q * q)

/-- π in units of 2^-p, by Machin's formula. -/
def fxPi (p : Nat) : Int := (16 * arctanInv (p + 16) 5 - 4 * arctanInv (p + 16) 239) / 2 ^ 16

/-- ln 2 in units of 2^-p. -/
def fxLn2 (p : Nat) : Int := 2 * invSeries false p 0 (2 ^ (p + 16) / 3) 9 / 2 ^ 16

/-- The product of two fixed-point numbers. -/
def fxMul (p : Nat) (a b : Int) : Int := a * b / 2 ^ p

/-- Σ y^k / k! from the term t = y^(k-1) / (k-1)!. -/
def expSeries (p fuel k : Nat) (y t : Int) : Int :=
  match fuel with
  | 0 => 0
  | n + 1 => if t = 0 then 0 else t + expSeries p n (k + 1) y (fxMul p t y / (k : Int))

/-- Σ z^(2k+1) / (2k+1), from the power t = z^(2k+1). -/
def artanhSeries (p fuel k : Nat) (z2 t : Int) : Int :=
  match fuel with
  | 0 => 0
  | n + 1 => if t = 0 then 0 else t / (2 * k + 1 : Nat) + artanhSeries p n (k + 1) z2 (fxMul p t z2)

/-- The series of sine (k = 1) or cosine (k = 0) from a term with its sign. -/
def sinSeries (p fuel k : Nat) (y2 t : Int) : Int :=
  match fuel with
  | 0 => 0
  | n + 1 =>
    if t = 0 then 0
    else t + sinSeries p n (k + 2) y2 (-(fxMul p t y2) / ((k + 1) * (k + 2) : Nat))

/-- Σ (-1)^k y^(2k+1) / (k! (2k+1)), from the term t = (-1)^k y^(2k+1) / k!. -/
def erfSeries (p fuel k : Nat) (y2 t : Int) : Int :=
  match fuel with
  | 0 => 0
  | n + 1 =>
    if t = 0 then 0
    else t / (2 * k + 1 : Nat) + erfSeries p n (k + 1) y2 (-(fxMul p t y2) / (k + 1 : Nat))

/-- Fraction bits of the evaluation. -/
def fxBits : Nat := 768

/-- A finite value in units of 2^-p, rounded down in magnitude. -/
def toFx (p : Nat) (v : Val) : Int :=
  match v with
  | .fin s n d e =>
    let (a, b) := Val.scale n d (e + p)
    let q : Int := (a / b : Nat)
    if s then -q else q
  | _ => 0

/-- A fixed-point number as a value. -/
def ofFx (p : Nat) (x : Int) : Val := Val.dyadic x (-(p : Int))

/-- 1. -/
def vOne : Val := .fin false 1 1 0

/-- n / d. -/
def vRat (n d : Nat) : Val := .fin false n d 0

/-- 2^f for a fraction 0 ≤ f < 1 given in fixed point, times 2^k. -/
def exp2Fx (f : Int) (k : Int) : Val :=
  let y := fxMul fxBits f (fxLn2 fxBits)
  Val.dyadic (expSeries fxBits 400 1 y (2 ^ fxBits)) (k - fxBits)

/-- 2^x: exact for an integer. -/
def exp2Val (x : Val) : Val :=
  let t := toFx fxBits x
  let k := t / (2 ^ fxBits : Int)
  let f := t % (2 ^ fxBits : Int)
  if f = 0 then .fin false 1 1 k else exp2Fx f k

/-- Magnitudes beyond which an exponential lies outside every format: the argument is held there. -/
def expLimit : Val := Val.ofInt 131072

/-- An argument held within ± the limit. -/
def holdExp (x : Val) : Val :=
  if expLimit.less x then expLimit else if x.less expLimit.neg then expLimit.neg else x

/-- e^x. -/
def expVal (x : Val) : Val :=
  let t := toFx fxBits (holdExp x)
  let l := fxLn2 fxBits
  let k := t / l
  Val.dyadic (expSeries fxBits 400 1 (t % l) (2 ^ fxBits)) (k - fxBits)

/-- ln of a positive value. -/
def lnVal (x : Val) : Val :=
  let k := x.expo
  let m := toFx fxBits (x.mul (.fin false 1 1 (-k)))
  let z := (m - 2 ^ fxBits) * 2 ^ fxBits / (m + 2 ^ fxBits)
  ofFx fxBits (k * fxLn2 fxBits + 2 * artanhSeries fxBits 500 0 (fxMul fxBits z z) z)

/-- ln(1 + t) for 0 < t ≤ 1: t itself when it is tiny. -/
def ln1pVal (t : Val) : Val := if t.expo < -300 then t else lnVal (vOne.add t)

/-- The square root of a positive value, with a last bit that says it is inexact. -/
def sqrtVal (x : Val) : Val :=
  match x with
  | .fin _ n d e =>
    let s : Int := 2 * ((fxBits : Int) / 2) - (Val.log2 n d e / 2) * 2
    let (a, b) := Val.scale n d (e + s)
    let q := a / b
    let r := isqrt q
    Val.dyadic (2 * r + (if r * r = q ∧ a % b = 0 then 0 else 1) : Nat) (-(s / 2) - 1)
  | v => v

/-- σ(x) = 1 / (1 + e^-x). -/
def sigmaVal (x : Val) : Val :=
  let t := expVal x.abs.neg
  (if x.sign then t else vOne).div (vOne.add t)

/-- tanh of a positive value. -/
def tanhVal (a : Val) : Val :=
  let t := expVal ((a.mul (Val.ofInt 2)).neg)
  (vOne.add t.neg).div (vOne.add t)

/-- erf(a) of a value of magnitude below 16. -/
def erfVal (x : Val) : Val :=
  let y := toFx fxBits x
  let s := erfSeries fxBits 2000 0 (fxMul fxBits y y) y
  let r : Int := isqrt (fxPi fxBits * 2 ^ fxBits).toNat
  ofFx fxBits (2 * s * 2 ^ fxBits / r)

/-- Φ(x) = (1 + erf(x / √2)) / 2 for a magnitude below 16. -/
def phiVal (x : Val) : Val := (vOne.add (erfVal (x.div (sqrtVal (Val.ofInt 2))))).div (Val.ofInt 2)

/-- The factor of GELU's tanh form: ½ (1 + tanh w) = σ(2w), w = √(2/π) (x + 0.044715 x³). -/
def geluTanh (x : Val) : Val :=
  let c := sqrtVal ((Val.ofInt 2).div (ofFx fxBits (fxPi fxBits)))
  let w := c.mul (x.add ((vRat 44715 1000000).mul (x.mul (x.mul x))))
  sigmaVal (w.mul (Val.ofInt 2))

/-- sin (`cosine` false) or cos of a finite value, its argument reduced modulo 2π. -/
def sinVal (cosine : Bool) (x : Val) : Val :=
  let p := fxBits + 160
  let pi := fxPi p
  let t := toFx p x
  let h := pi / 2
  let k := t / h
  let y := (t % h) / 2 ^ 160
  let q := (k + (if cosine then 1 else 0)) % 4
  let y2 := fxMul fxBits y y
  let v := if q = 0 ∨ q = 2 then sinSeries fxBits 200 1 y2 y else sinSeries fxBits 200 0 y2 (2 ^ fxBits)
  ofFx fxBits (if q = 0 ∨ q = 1 then v else -v)

/-- A magnitude comparison with an integer power of two: 2^k ≤ |x|. -/
def atLeast (x : Val) (k : Int) : Bool := !x.abs.less (.fin false 1 1 k)

/-! ### The functions -/

/-- log2 of a positive value (06 R151). -/
def sfuLog2 (x : Val) : Val :=
  let k := x.expo
  let m := x.mul (.fin false 1 1 (-k))
  if vOne.less m then (lnVal x).div (ofFx fxBits (fxLn2 fxBits)) else Val.dyadic k 0

/-- Tanh, erf, GELU and SiLU, each a constant or the argument outside its domain (06 R151). -/
def sfuTanh (x : Val) : Val :=
  if atLeast x 4 then .fin x.sign 1 1 0 else if x.sign then (tanhVal x.abs).neg else tanhVal x
def sfuErf (x : Val) : Val := if atLeast x 3 then .fin x.sign 1 1 0 else erfVal x
def sfuGelu (tanh : Bool) (x : Val) : Val :=
  if atLeast x 4 then (if x.sign then Val.szero true else x) else x.mul (if tanh then geluTanh x else phiVal x)
def sfuSilu (x : Val) : Val :=
  if atLeast x 5 then (if x.sign then x.mul (expVal x) else x) else x.mul (sigmaVal x)

/-- Softplus (06 R151). -/
def sfuSoftplus (x : Val) : Val := (ln1pVal (expVal x.abs.neg)).add (if x.sign then Val.zero else x)

/-- The built-in functions in the order of their codes, 0x00 to 0x0F (06 R151). -/
def sfuTable : List (Val → Val) :=
  [expVal, fun x => exp2Val (holdExp x), lnVal, sfuLog2, vOne.div, fun x => sqrtVal (vOne.div x), sqrtVal, sigmaVal,
   sfuTanh, sfuGelu false, sfuGelu true, sfuSilu, sfuErf, sinVal false, sinVal true, sfuSoftplus]

/-- The exact value of a built-in function at a finite nonzero value with no special value (06 R151):
an approximation to several hundred bits where it is irrational; the pieces that the table fixes outside
its domain are those (GELU and SiLU of large magnitudes, tanh and erf at 1). -/
def sfuExact (fn : Nat) (x : Val) : Val := sfuTable.getD fn sfuSoftplus x

/-- The results of 06 R152 for the infinity of a sign. -/
def sfuInf (fn : Nat) (s : Bool) : Option Val :=
  match fn with
  | 0x00 => some (if s then Val.zero else .inf false)
  | 0x01 => some (if s then Val.zero else .inf false)
  | 0x02 => some (if s then .nan else .inf false)
  | 0x03 => some (if s then .nan else .inf false)
  | 0x04 => some (Val.szero s)
  | 0x05 => some (if s then .nan else Val.zero)
  | 0x06 => some (if s then .nan else .inf false)
  | 0x07 => some (if s then Val.zero else vOne)
  | 0x08 => some (.fin s 1 1 0)
  | 0x09 => some (if s then Val.szero true else .inf false)
  | 0x0A => some (if s then Val.szero true else .inf false)
  | 0x0B => some (if s then Val.szero true else .inf false)
  | 0x0C => some (.fin s 1 1 0)
  | 0x0D => some .nan
  | 0x0E => some .nan
  | _ => some (if s then Val.zero else .inf false)

/-- The results of 06 R152 for a zero, of sign `s`. -/
def sfuZero (fn : Nat) (s : Bool) (x : Val) : Option Val :=
  match fn with
  | 0x00 => some vOne
  | 0x01 => some vOne
  | 0x02 => some (.inf true)
  | 0x03 => some (.inf true)
  | 0x04 => some (.inf s)
  | 0x05 => some (.inf s)
  | 0x06 => some x
  | 0x07 => some (vRat 1 2)
  | 0x0E => some vOne
  | 0x0F => some (ofFx fxBits (fxLn2 fxBits))
  | _ => some x

/-- The results of 06 R152 for a finite nonzero value of sign `s`; none where the table gives none. -/
def sfuDomain (fn : Nat) (s : Bool) (x : Val) : Option Val :=
  match fn with
  | 0x02 => if s then some .nan else if x.less vOne || vOne.less x then none else some Val.zero
  | 0x03 => if s then some .nan else if x.less vOne || vOne.less x then none else some Val.zero
  | 0x05 => if s then some .nan else none
  | 0x06 => if s then some .nan else none
  | _ => none

/-- The results of 06 R152 for NaN, infinities, zeros and arguments outside a function's domain; none
for the other inputs. -/
def sfuSpecial (fn : Nat) (x : Val) : Option Val :=
  match x with
  | .nan => some .nan
  | .inf s => sfuInf fn s
  | .fin s n _ _ => if n = 0 then sfuZero fn s x else sfuDomain fn s x

/-- The unit in the last place of a format at a value. -/
def ulpAt (f : FFmt) (v : Val) : Val := .fin false 1 1 (v.expo - f.fbits)

/-- How far a result may lie from the exact value (06 R153). -/
inductive Bound where
  /-- Correctly rounded, or a value that the manual fixes. -/
  | exact
  /-- At most this far. -/
  | within (b : Val)
  /-- No bound is given. -/
  | open_
deriving DecidableEq, Repr

/-- The larger of two values. -/
def vMax (a b : Val) : Val := if a.less b then b else a

/-- The smaller of two values. -/
def vMin (a b : Val) : Val := if a.less b then a else b

/-- The bound of a function for an output format, an input, its exact value and a candidate result (06
R153). Below the normal range, where the range rules give zero, the same bound is read (DEDUCED; log
entry 12). -/
def sfuBound (fn fmt : Nat) (x v c : Val) : Bound :=
  let p2 (k : Int) : Val := .fin false 1 1 k
  let f := (floatOf fmt).getD fp32
  let u (k : Nat) : Val := (ulpAt f v).mul (Val.ofInt k)
  let single := decide (fmt = fFP32)
  let below (k : Int) : Bool := x.less (Val.ofInt k)
  match fn with
  | 0x00 => if fmt = fBF16 then .exact else .within (u (if single then 2 else 1))
  | 0x01 => if fmt = fBF16 then .exact else .within (u 1)
  | 0x04 => if fmt = fBF16 then .exact else .within (u 1)
  | 0x05 => if fmt = fBF16 then .exact else .within (u 1)
  | 0x06 => .within (u 1)
  | 0x02 => if atLeast x (-126) then .within (u (if single then 2 else 1)) else .open_
  | 0x03 => if atLeast x (-126) then .within (u (if single then 2 else 1)) else .open_
  | 0x09 =>
    if atLeast x 4 then .exact
    else if below (-5) && single then .within (p2 (-30))
    else if below (-5) && decide (fmt = fBF16) then .within (vMax (u 1) (p2 (-133)))
    else .within (u (if single then 3 else 1))
  | 0x0A =>
    if atLeast x 4 then .exact
    else if below (-5) && single then .within (p2 (-30))
    else if below (-5) && decide (fmt = fBF16) then .within (vMax (u 1) (p2 (-133)))
    else .within (u (if single then 3 else 1))
  | 0x0B =>
    if atLeast x 5 && !x.sign then .exact
    else if below (-20) && single then .within (p2 (-40))
    else if below (-20) && decide (fmt = fBF16) then .within (vMax (u 1) (p2 (-133)))
    else .within (u (if single then 3 else 1))
  | 0x08 => if atLeast x 4 then .exact else .within (u (if single then 2 else 1))
  | 0x0C => if atLeast x 3 then .exact else .within (u (if single then 2 else 1))
  | 0x0D =>
    if single then .within (if atLeast c (-20) then vMin (p2 (-23)) (u 2) else p2 (-23))
    else if fmt = fBF16 then .within (if atLeast c (-8) then vMin (p2 (-9)) (u 1) else p2 (-9))
    else .within (u 1)
  | 0x0E =>
    if single then .within (if atLeast c (-20) then vMin (p2 (-23)) (u 2) else p2 (-23))
    else if fmt = fBF16 then .within (if atLeast c (-8) then vMin (p2 (-9)) (u 1) else p2 (-9))
    else .within (u 1)
  | _ => .within (u (if single then 2 else 1))

/-! ### Custom tables -/

/-- An FP32 value of a table. -/
def tabF32 (t : List Byte) (off : Nat) : Val := decodeElem fFP32 (le t off 4)

/-- K = 256 / (HI − LO), rounded once to Tally64 (06 R158). -/
def tabScale (t : List Byte) : Val :=
  let d := (tabF32 t 4).add (tabF32 t 0).neg
  decodeElem fTally (roundFast tally64 false ((Val.ofInt 256).div d)).1

/-- A custom table's result, before its rounding (06 R158). -/
def tabValue (t : List Byte) (x : Val) : Val :=
  let lo := tabF32 t 0
  if x.less lo then tabF32 t 8
  else if !x.less (tabF32 t 4) then tabF32 t 12
  else
    let w := (toFx 32 ((x.add lo.neg).mul (tabScale t))).toNat
    let k := min (w / 2 ^ 32) 255
    let d : Nat := if 255 < w / 2 ^ 32 then 2 ^ 32 - 1 else w % 2 ^ 32
    let c0 := tabF32 t (32 + 16 * k)
    let c1 := tabF32 t (36 + 16 * k)
    let c2 := if le t 16 1 = 0 then Val.zero else tabF32 t (40 + 16 * k)
    let dv := Val.dyadic d (-32)
    c0.add (dv.mul (c1.add (dv.mul c2)))

end Sys2Proof.Machine
end

