-- ==== Sys2Proof/Machine/Shingle.lean ====
section
/-! DEFINITION. The built-in shingle tables: the five steps of 06 R149 with the reductions of 06 R151, what the
rules of 06 R150 to R155 ask of the tables, and the functions that result (06 R146 to R162). -/

namespace Sys2Proof.Machine

/-! ### Segments -/

/-- Bits of an intermediate significand (06 R149: at least 40). -/
def sigBits : Nat := 40 + Config.sfuExtraBits

/-- Bits of the offset within a segment (06 R149: at least 32). -/
def offBits : Nat := 32 + Config.sfuExtraBits

/-- 2^k. -/
def pow2 (k : Int) : Val := .fin false 1 1 k

/-- A value times 2^k. -/
def timesPow (v : Val) (k : Int) : Val := v.mul (pow2 k)

/-- A value rounded to nearest even to a number of significant bits. -/
def roundTo (bits : Nat) (v : Val) : Val :=
  match v with
  | .fin s n d e =>
    if n = 0 then v
    else
      let q := Val.log2 n d e - ((bits : Int) - 1)
      .fin s (roundUnits .even s n d e q).1 1 q
  | v => v

/-- A coefficient of a built-in table. -/
def coef (fn k i : Nat) : Val := Val.dyadic (Config.shingle fn k i) (-96)

/-- c0 + d (c1 + d c2) of a segment, every result at the precision of the datapath (06 R149). -/
def segValue (fn k : Nat) (d : Val) : Val :=
  let r := roundTo sigBits
  r ((coef fn k 0).add (r (d.mul (r ((coef fn k 1).add (r (d.mul (coef fn k 2))))))))

/-- A table at a place counted in segments: the segment, and the offset cut to the bits it has. The end of the
domain belongs to the last segment. -/
def tableAt (fn : Nat) (w : Val) : Val :=
  let n := (toFx offBits w).toNat
  let k := min (n / 2 ^ offBits) 255
  segValue fn k (Val.dyadic ((n : Int) - (k * 2 ^ offBits : Nat)) (-(offBits : Int)))

/-- The significand m ∈ [1, 2) of a positive value. -/
def mantissa (a : Val) : Val := timesPow a (-a.expo)

/-- The place of a positive value in binades from 2^lo on, of `per` equal segments each. -/
def binadePlace (lo : Int) (per : Nat) (a : Val) : Val :=
  (Val.ofInt (per * (a.expo - lo))).add (((mantissa a).add vOne.neg).mul (Val.ofInt per))

/-! ### Reductions and reconstructions (06 R151) -/

/-- t of exp (x log2 e) and exp2 (x), in units of 2^-64, rounded down (log entry 12). -/
def expArg (fn : Nat) (x : Val) : Int :=
  if fn = 0 then toFx fxBits (holdExp x) * 2 ^ 64 / fxLn2 fxBits
  else toFx fxBits (holdExp x) / 2 ^ (fxBits - 64)

/-- exp and exp2. -/
def stepExp (fn : Nat) (x : Val) : Val :=
  let t := expArg fn x
  timesPow (tableAt fn (Val.dyadic (t % 2 ^ 64) (-56))) (t / 2 ^ 64)

/-- ln 2 as the datapath holds it for ln, in units of 2^-96 (log entry 12). -/
def ln2Const : Val := Val.dyadic (fxLn2 fxBits / 2 ^ (fxBits - 96)) (-96)

/-- ln and log2. -/
def stepLog (fn : Nat) (x : Val) : Val :=
  let e := Val.ofInt x.expo
  roundTo sigBits ((if fn = 2 then e.mul ln2Const else e).add (tableAt fn (binadePlace x.expo 256 x)))

/-- Reciprocal. -/
def stepRecip (x : Val) : Val :=
  let y := timesPow (tableAt 4 (binadePlace x.abs.expo 256 x.abs)) (-x.abs.expo)
  if x.sign then y.neg else y

/-- j and the place of m ∈ [1, 4) of rsqrt and sqrt. -/
def rootPlace (x : Val) : Int × Val :=
  let j := x.expo / 2
  let m := timesPow x (-(2 * j))
  (j, if m.less (Val.ofInt 2) then (m.add vOne.neg).mul (Val.ofInt 128)
      else (Val.ofInt 128).add ((m.add (Val.ofInt (-2))).mul (Val.ofInt 64)))

/-- rsqrt and sqrt. -/
def stepRoot (fn : Nat) (x : Val) : Val :=
  let (j, w) := rootPlace x
  timesPow (tableAt fn w) (if fn = 5 then -j else j)

/-- The first binade and the number of binades of the tables over a = |x|; the others have none. -/
def binades (fn : Nat) : Option (Int × Nat) :=
  match fn with
  | 0x07 => some (-3, 8)
  | 0x08 => some (-4, 8)
  | 0x09 => some (-4, 8)
  | 0x0A => some (-4, 8)
  | 0x0B => some (-3, 8)
  | 0x0C => some (-5, 8)
  | 0x0F => some (-3, 8)
  | _ => none

/-- The table holds Φ, its likeness or σ for each sign apart: 16 segments per binade and sign. -/
def perSign (fn : Nat) : Bool := decide (0x09 ≤ fn ∧ fn ≤ 0x0B)

/-- The table of a function over a, for an input within its domain. -/
def tableOver (fn : Nat) (x : Val) : Val :=
  let lo := ((binades fn).getD (0, 0)).1
  if perSign fn then
    tableAt fn ((Val.ofInt (if x.sign then 128 else 0)).add (binadePlace lo 16 x.abs))
  else tableAt fn (binadePlace lo 32 x.abs)

/-- Where an input lies: below the table, in it, or above it (06 R151). -/
def domainOf (fn : Nat) (x : Val) : Ordering :=
  match binades fn with
  | none => .eq
  | some (lo, n) => if x.abs.expo < lo then .lt else if lo + n ≤ x.abs.expo then .gt else .eq

/-- A polynomial piece outside the table, at the precision of the datapath. -/
def polyPiece (fn : Nat) (x : Val) : Val :=
  let a := x.abs
  let half := vRat 1 2
  let root2pi := sqrtVal ((ofFx fxBits (fxPi fxBits)).mul (Val.ofInt 2))
  roundTo sigBits <| match fn with
  | 0x07 => (half.add (a.mul (vRat 1 4)).neg).add (a.mul (a.mul (a.mul (vRat 1 48))))
  | 0x08 => (a.add (a.mul (a.mul (a.mul (vRat 1 3)))).neg).add
      (a.mul (a.mul (a.mul (a.mul (a.mul (vRat 2 15))))))
  | 0x0B => ((x.mul half).add (x.mul (x.mul (vRat 1 4)))).add (x.mul (x.mul (x.mul (x.mul (vRat 1 48))))).neg
  | 0x0C => ((Val.ofInt 2).div (sqrtVal (ofFx fxBits (fxPi fxBits)))).mul
      (a.add (a.mul (a.mul (a.mul (vRat 1 3)))).neg)
  | 0x0F => ((ofFx fxBits (fxLn2 fxBits)).add (a.mul half).neg).add (a.mul (a.mul (vRat 1 8)))
  | _ => ((x.mul half).add ((x.mul x).div root2pi)).add
      ((x.mul (x.mul (x.mul x))).div (root2pi.mul (Val.ofInt 6))).neg

/-- s of sigmoid and softplus, of −a. -/
def sOf (fn : Nat) (x : Val) : Val :=
  match domainOf fn x with
  | .lt => polyPiece fn x
  | .eq => tableOver fn x
  | .gt => stepExp 0 x.abs.neg

/-- An odd function from its value at a (tanh, erf). -/
def stepOdd (fn : Nat) (x : Val) : Val :=
  let y := match domainOf fn x with
    | .lt => polyPiece fn x
    | .eq => tableOver fn x
    | .gt => vOne
  if x.sign then y.neg else y

/-- GELU and SiLU: x times the table's factor, formed before the rounding. -/
def stepUnit (fn : Nat) (x : Val) : Val :=
  match domainOf fn x with
  | .lt => polyPiece fn x
  | .eq => x.mul (tableOver fn x)
  | .gt => if !x.sign then x else if fn = 0x0B then x.mul (stepExp 0 x) else Val.szero true

/-- 4 x / 2π in units of 2^-p, reduced exactly for every finite x. -/
def quarterTurns (x : Val) : Int :=
  let p := fxBits + 160
  toFx p x * 2 ^ fxBits * 2 / fxPi p

/-- sin, and cos with the quadrant one further. -/
def stepSine (fn : Nat) (x : Val) : Val :=
  let t := quarterTurns x
  let q := (t / 2 ^ fxBits + (if fn = 0x0E then 1 else 0)) % 4
  let v := ofFx fxBits (t % 2 ^ fxBits)
  let v := if q = 1 ∨ q = 3 then vOne.add v.neg else v
  let y := tableAt fn (v.mul (Val.ofInt 256))
  if 2 ≤ q then y.neg else y

/-- The value that the five steps form before their rounding (06 R149, R151). -/
def sfuSteps (fn : Nat) (x : Val) : Val :=
  match fn with
  | 0x00 => stepExp 0 x
  | 0x01 => stepExp 1 x
  | 0x02 => stepLog 2 x
  | 0x03 => stepLog 3 x
  | 0x04 => stepRecip x
  | 0x05 => stepRoot 5 x
  | 0x06 => stepRoot 6 x
  | 0x07 => if x.sign then sOf fn x else vOne.add (sOf fn x).neg
  | 0x08 => stepOdd fn x
  | 0x0C => stepOdd fn x
  | 0x0D => stepSine fn x
  | 0x0E => stepSine fn x
  | 0x0F => (sOf fn x).add (if x.sign then Val.zero else x)
  | _ => stepUnit fn x

/-! ### What the rules ask of the tables -/

/-- A value lies within a bound of the exact value. -/
def inBound (b : Bound) (v c : Val) : Bool :=
  match b with
  | .exact => false
  | .within w => !w.less (c.add v.neg).abs
  | .open_ => true

/-- The steps' value at an input, once rounded, keeps 06 R153. -/
def sfuFits (fn fmt : Nat) (x : Val) : Bool :=
  let c := roundTo (((floatOf fmt).getD fp32).fbits + 1) (sfuSteps fn x)
  inBound (sfuBound fn fmt x (sfuExact fn x) c) (sfuExact fn x) c

/-- The value before the range rules: that of the steps, where it keeps 06 R153; else the exact value, as for the
functions that are correctly rounded, and for the pieces of 06 R151 that lie outside the bound (log entry 110). -/
def sfuValue (fn fmt : Nat) (x : Val) : Val := if sfuFits fn fmt x then sfuSteps fn x else sfuExact fn x

/-- The output in a format, with a finite result beyond the range at the largest finite value. -/
def sfuOut (fn fmt : Nat) (x : Val) : Val :=
  decodeElem fmt (roundFast ((floatOf fmt).getD fp32) false ((sfuSpecial fn x).getD (sfuValue fn fmt x))).1

/-- A boundary below a segment is a seam of the function table (06 R151). -/
def seamBelow (fn k : Nat) : Bool :=
  match fn with
  | 0x02 => decide (k % 8 = 0)
  | 0x03 => decide (k % 8 = 0)
  | 0x05 => decide (k % 4 = 0 ∧ k < 192)
  | 0x06 => decide (k % 4 = 0 ∧ k < 192)
  | _ =>
    match binades fn with
    | none => decide (k % 4 = 0)
    | some _ => decide (k % (if perSign fn then 16 else 32) = 0)

/-- The end value of a segment, d = 1, in units of 2^-96. -/
def segEnd (fn k : Nat) : Int := Config.shingle fn k 0 + Config.shingle fn k 1 + Config.shingle fn k 2

/-- The end of the last segment meets the start of the first, scaled by the reconstruction (06 R150). -/
def tableWraps (fn : Nat) : Bool :=
  let first := Config.shingle fn 0 0
  let last := segEnd fn 255
  match fn with
  | 0x00 => decide (last = 2 * first)
  | 0x01 => decide (last = 2 * first)
  | 0x02 => decide (last = first + fxLn2 fxBits / 2 ^ (fxBits - 96))
  | 0x03 => decide (last = first + 2 ^ 96)
  | 0x04 => decide (2 * last = first)
  | 0x05 => decide (2 * last = first)
  | 0x06 => decide (last = 2 * first)
  | _ => true

/-- Segments meet exactly at every boundary that is no seam (06 R150). -/
def tableJoins (fn : Nat) : Bool :=
  tableWraps fn && (List.range 255).all fun k =>
    seamBelow fn (k + 1) || decide (segEnd fn k = Config.shingle fn (k + 1) 0)

/-- Every number below n, the greatest first. -/
def allBelow (n : Nat) (p : Nat → Bool) : Bool :=
  match n with
  | 0 => true
  | k + 1 => p k && allBelow k p

/-- Every FP32 value, from 1.0 on. -/
def allFp32 (p : Val → Bool) : Bool :=
  allBelow (2 ^ 32) fun n => p (decodeElem fFP32 ((0x3F800000 + (2 ^ 32 - n)) % 2 ^ 32))

/-- The inputs to which the function table applies (06 R152 gives the others). -/
def sfuOrdinary (fn : Nat) (x : Val) : Bool := (sfuSpecial fn x).isNone

/-- Inside the table an input keeps 06 R153 in every output format; the correctly rounded outputs are exact. -/
def tableFits (fn : Nat) (x : Val) : Bool :=
  !sfuOrdinary fn x || decide (domainOf fn x ≠ .eq) ||
    [fFP32, fBF16, fFP16].all fun fmt =>
      decide (sfuBound fn fmt x (sfuExact fn x) (sfuSteps fn x) = .exact) || sfuFits fn fmt x

/-- floor(n v), or the greatest integer below n v. -/
def floorTimes (strict : Bool) (n : Nat) (v : Val) : Int :=
  let w := v.mul (Val.ofInt n)
  let k := toFx 0 w
  if strict && !(Val.ofInt k).less w then k - 1 else k

/-- More seams than lie between any two finite inputs of a function. -/
def manySeams : Int := 2 ^ 20

/-- The seams at or below a magnitude; with `strict`, those below it. -/
def seamsTo (fn : Nat) (strict : Bool) (a : Val) : Int :=
  if !a.isFin then manySeams else
  let e := a.expo
  let m1 := (mantissa a).add vOne.neg
  let within (n : Nat) (v : Val) : Int := max 0 (floorTimes strict n v)
  match fn with
  | 0x02 => 31 * e + within 32 m1
  | 0x03 => 31 * e + within 32 m1
  | 0x04 => 63 * e + within 64 m1
  | 0x05 => seamsRoot strict a
  | 0x06 => seamsRoot strict a
  | _ =>
    let (lo, n) := (binades fn).getD (0, 0)
    let k := e - lo + 1
    max 0 (min (n + 1) (if strict && !vOne.less (mantissa a) then k - 1 else k))
where
  /-- Those of rsqrt and sqrt: 31 on [1, 2) and 16 from 2 on. -/
  seamsRoot (strict : Bool) (a : Val) : Int :=
    let j := a.expo / 2
    let m := timesPow a (-(2 * j))
    47 * j + (if m.less (Val.ofInt 2) then max 0 (min 31 (floorTimes strict 32 (m.add vOne.neg)))
      else 31 + max 0 (min 16 (floorTimes strict 16 (m.add (Val.ofInt (-2))) + 1)))

/-- The seams passed up to an input, counted along the real line. Where the binades of the input have them, they are
without number on the way to zero and to infinity. -/
def seamIndex (fn : Nat) (x : Val) : Int :=
  if x.isZero && !decide (fn < 2 ∨ fn = 0x0D ∨ fn = 0x0E) then (if (binades fn).isSome then 0 else -manySeams)
  else if fn < 2 then expArg fn x / 2 ^ 58 - expArg fn x / 2 ^ 64
  else if fn = 0x0D ∨ fn = 0x0E then quarterTurns x / 2 ^ (fxBits - 6) - quarterTurns x / 2 ^ fxBits
  else if x.sign then -seamsTo fn true x.abs
  else seamsTo fn false x

/-- The input lies in a range on which the function has a direction ("Monotonicity" in 06): rsqrt, ln and log2 on
x > 0, sqrt on x ≥ 0, the reciprocal on either side of zero, sin and cos on finite inputs. -/
def sfuDirected (fn : Nat) (x : Val) : Bool :=
  !x.isNan && match fn with
  | 0x02 => Val.zero.less x
  | 0x03 => Val.zero.less x
  | 0x04 => !x.isZero
  | 0x05 => Val.zero.less x
  | 0x06 => !x.less Val.zero
  | 0x0D => x.isFin
  | 0x0E => x.isFin
  | _ => true

/-- GELU's forms and SiLU fall up to one place, and rise from another on; between them they have no direction. -/
def unitBranch (falls rises x : Val) : Option (Int × Bool) :=
  if !falls.less x then some (0, true) else if !x.less rises then some (1, false) else none

/-- The stretch of the real line on which a function keeps its direction, and whether it falls there: for sin and cos the
inputs of one quadrant between two neighbouring multiples of π/2 (06 "Monotonicity"). -/
def branchOf (fn : Nat) (x : Val) : Option (Int × Bool) :=
  let quadrant (q : Int) : Option (Int × Bool) := some (q, decide (q % 4 = 1 ∨ q % 4 = 2))
  match fn with
  | 0x04 => some (if x.sign then 0 else 1, true)
  | 0x05 => some (0, true)
  | 0x09 => unitBranch (vRat 76 100).neg (vRat 75 100).neg x
  | 0x0A => unitBranch (vRat 76 100).neg (vRat 75 100).neg x
  | 0x0B => unitBranch (vRat 128 100).neg (vRat 127 100).neg x
  | 0x0D => quadrant (quarterTurns x / 2 ^ fxBits)
  | 0x0E => quadrant (quarterTurns x / 2 ^ fxBits + 1)
  | _ => some (0, false)

/-- Two inputs and an output of each by format: ascending inputs have their outputs in the order of the function, BF16
and FP16 outputs always, FP32 outputs but for 1 ulp across a seam (06 R154, R155). -/
def pairOrdered (fn : Nat) (x1 x2 : Val) (y1 y2 : Nat → Val) : Bool :=
  match branchOf fn x1 with
  | none => true
  | some b =>
    !sfuDirected fn x1 || !sfuDirected fn x2 || !x1.less x2 || decide (branchOf fn x2 ≠ some b) ||
      [fFP32, fBF16, fFP16].all fun fmt =>
        let (lo, hi) := if b.2 then (y2 fmt, y1 fmt) else (y1 fmt, y2 fmt)
        !hi.less lo ||
          (decide (fmt = fFP32) && decide (seamIndex fn x1 < seamIndex fn x2) && !(hi.add (ulpAt fp32 (y1 fmt))).less lo)

/-- Two inputs in ascending order have the steps' outputs in the order of the function, those that 06 R152 gives among
them. -/
def sfuOrdered (fn : Nat) (x1 x2 : Val) : Bool :=
  pairOrdered fn x1 x2 (fun fmt => sfuOut fn fmt x1) fun fmt => sfuOut fn fmt x2

/-- The tables of a function keep 06 R150 and R153 to R155 over their whole domain. -/
def shinglesMeet (fn : Nat) : Bool :=
  tableJoins fn && allFp32 (tableFits fn) && allFp32 fun x1 => allFp32 fun x2 => sfuOrdered fn x1 x2

/-! ### The functions -/

/-- The place of an input uses the table of exp inside its own function (06 R151). -/
def usesExp (fn : Nat) (x : Val) : Bool :=
  decide (domainOf fn x = .gt) && (decide (fn = 0x07 ∨ fn = 0x0F) || (decide (fn = 0x0B) && x.sign))

/-- The value that the manual fixes without a table of the function: a piece outside the table, where it keeps 06 R153;
else the exact value. -/
def sfuBase (fn fmt : Nat) (x : Val) : Val :=
  if domainOf fn x ≠ .eq ∧ (usesExp fn x = false ∨ shinglesMeet 0 = true) then sfuValue fn fmt x else sfuExact fn x

/-- A value as an output in a format, with a finite result beyond the range at the largest finite value. -/
def outIn (fn fmt : Nat) (x v : Val) : Val :=
  decodeElem fmt (roundFast ((floatOf fmt).getD fp32) false ((sfuSpecial fn x).getD v)).1

/-- The steps keep 06 R153 at an input within the table, in every output format. -/
def stepsKeep (fn : Nat) (x : Val) : Bool :=
  decide (domainOf fn x = .eq) && [fFP32, fBF16, fFP16].all fun fmt => sfuFits fn fmt x

/-- Of a table that does not keep 06 R153 over its whole domain, an input whose steps keep it takes them where the order
of 06 R154 and R155 stays: against what any other input has without the table, and against the steps of any other whose
steps keep 06 R153 (log entry 12). -/
def stepsTaken (fn : Nat) (x : Val) : Bool :=
  let steps (z : Val) (fmt : Nat) : Val := outIn fn fmt z (sfuSteps fn z)
  let base (z : Val) (fmt : Nat) : Val := outIn fn fmt z (sfuBase fn fmt z)
  let ordered (z : Val) (y : Nat → Val) : Bool := pairOrdered fn x z (steps x) y && pairOrdered fn z x y (steps x)
  tableJoins fn && stepsKeep fn x && allFp32 fun z => ordered z (base z) && (!stepsKeep fn z || ordered z (steps z))

/-- The value of a built-in function before the range rules (06 R149, R151). No quadratic table of 256 segments keeps
06 R153 throughout for most of the functions: then the five steps give the result wherever they keep it, and the exact
value elsewhere (log entries 12, 110). -/
def sfuTaken (fn fmt : Nat) (x : Val) : Val :=
  if shinglesMeet fn then sfuValue fn fmt x
  else if stepsTaken fn x then sfuSteps fn x
  else sfuBase fn fmt x

/-- A built-in function of one input: the output code, with the range rules of 06 R149. -/
def sfuBuiltin (ovf : Bool) (fn fmt : Nat) (x : Val) : Nat × Cnt :=
  let f := (floatOf fmt).getD fp32
  match sfuSpecial fn x with
  | some v => roundFast f ovf v
  | none => roundFast f ovf (sfuTaken fn fmt x)

/-- An SFU function of one input under the queue's overflow mode (06 R149, R151, R158). -/
def sfuEval (ovf : Bool) (tables : List (Nat × List Byte)) (fn fmt : Nat) (x : Val) : Nat × Cnt :=
  let f := (floatOf fmt).getD fp32
  if 0x1C ≤ fn then
    match x, (tables.find? fun t => t.1 = fn - 0x1C) with
    | .nan, _ => (f.canonical, Cnt.none)
    | _, some t => roundFast f ovf (tabValue t.2 x)
    | _, none => (f.canonical, Cnt.none)
  else sfuBuiltin ovf fn fmt x

/-- The FP32 code of a value that FP32 holds, subnormal or not. -/
def keyOf (x : Val) : Nat :=
  match x with
  | .nan => fp32.canonical
  | .inf s => fp32.infinity s
  | .fin s n d e =>
    if n = 0 then fp32.pack s 0 0
    else
      let (k, _) := roundUnits .even s n d e fp32.qmin
      fp32.pack s k fp32.qmin

/-! ### Exponentials of the soft maximum and reciprocal square roots -/

/-- The limit of a soft-maximum score (06 R160). -/
def scoreLimit : Val := Val.ofInt 22713

/-- A score held within ±22,713, and whether it was clamped (06 R160, R161); −∞ is not clamped. -/
def clampScore (x : Val) : Val × Bool :=
  if x = .inf true then (x, false)
  else if scoreLimit.less x then (scoreLimit, true)
  else if x.less scoreLimit.neg then (scoreLimit.neg, true)
  else (x, false)

/-- The Tally64 code of a value that Tally64 holds. -/
def tallyCode (v : Val) : Nat := (roundFast tally64 false v).1

/-- The Tally64 exponential of the table at an argument. -/
def expRaw (c : Val) : Val := decodeElem fTally (Config.expTable (tallyCode c) % 2 ^ 63)

/-- The exponential at an argument keeps 06 R162: within 2^-40, and never zero. -/
def expFits (c : Val) : Bool :=
  let v := expVal c
  (expRaw c).isFin && !(expRaw c).isZero && !(timesPow v (-40)).less ((expRaw c).add v.neg).abs

/-- The arguments of 06 R162: those that the clamp leaves. -/
def expOrdinary (c : Val) : Bool := c.isFin && !scoreLimit.less c.abs

/-- Every Tally64 value, from 1.0 on. -/
def allTally (p : Val → Bool) : Bool :=
  allBelow (2 ^ 64) fun n => p (decodeElem fTally ((32767 * 2 ^ 47 + (2 ^ 64 - n)) % 2 ^ 64))

/-- The table of exponentials keeps 06 R162 at an argument, and from it to every other. -/
def expKeeps (c : Val) : Bool :=
  !expOrdinary c || expFits c && allTally fun c' =>
    !expOrdinary c' || !c.less c' || !(expRaw c').less (expRaw c)

/-- The exponential of a finite argument as Tally64 holds it, never zero and never beyond the format (06 R162). -/
def expExact (c : Val) : Val :=
  let v := decodeElem fTally (tallyCode (expVal c))
  if v.isZero then decodeElem fTally 1 else v

/-- The Tally64 exponential (06 R160, R162): +0 of −∞. Beyond the clamp, where 08 R218 alone goes, the exact
value is rounded (log entry 13). -/
def expTally (c : Val) : Val :=
  match c with
  | .nan => .nan
  | .inf true => Val.zero
  | .inf false => .inf false
  | .fin .. => if expOrdinary c && allTally expKeeps then expRaw c else expExact c

/-- r = rsqrt(v) of a positive Tally64 value through the rsqrt table, with the FP32 bound of 06 R153, held as
Tally64 (06 R167). -/
def rsqrtTally (v : Val) : Val :=
  let e := sqrtVal (vOne.div v)
  let t := decodeElem fTally (tallyCode (stepRoot 5 v))
  if shinglesMeet 5 && !(ulpAt fp32 e).less (t.add e.neg).abs then t else decodeElem fTally (tallyCode e)

end Sys2Proof.Machine
end

