-- ==== Sys2Proof/Machine/Kv.lean ====
section
/-! DEFINITION. The KV cache and the fields of attention tasks: page tables, pages, the skip rule, and
the entries and pages that a task needs (08 R192 to R212). -/

namespace Sys2Proof.Machine

/-! ### Fields -/

/-- The parameters of an ATTN body (08 R192, 09 R250). -/
structure Attn where
  qlen    : Nat
  klen    : Nat
  qpos    : Nat
  kpos    : Nat
  scale   : Val
  mask    : Nat
  tw      : Nat
  fw      : Nat
  frame   : Nat
  dim     : Nat
  heads   : Nat
  back    : Bool
  final   : Nat
  inmode  : Nat
  outmode : Nat
  nin     : Nat
  kvfmt   : Nat
  kpt     : Nat
  vpt     : Nat
  pin     : Nat
  lse     : Nat
  /-- The pages of its key blocks and value blocks, as the task read their entries before its first fetch (08 R212). -/
  kpages  : List Nat := []
  vpages  : List Nat := []
deriving DecidableEq, Repr

/-- The parameters of a descriptor. -/
def attnOf (d : List Byte) : Attn :=
  { qlen := le d 80 3, klen := le d 83 3, qpos := le d 86 3, kpos := le d 89 3,
    scale := decodeElem fFP32 (le d 92 4), mask := dbits d 109 0 4, tw := le d 96 3, fw := le d 99 3,
    frame := dbits d 102 0 25, dim := headDim d, heads := dbits d 107 0 5,
    back := decide (dbits d 108 0 1 = 1), final := dbits d 108 1 1, inmode := dbits d 108 2 2,
    outmode := dbits d 108 4 1, nin := dbits d 110 0 5, kvfmt := dbits d 40 40 4, kpt := dbits d 40 0 40,
    vpt := dbits d 48 0 40, pin := dbits d 72 0 40, lse := dbits d 64 0 40 }

/-- Query rows of each head. -/
def Attn.perHead (a : Attn) : Nat := a.qlen / max a.heads 1

/-- Token position of a query row (08). -/
def Attn.q (a : Attn) (r : Nat) : Nat := a.qpos + r % max a.perHead 1

/-- Token position of a key (08). -/
def Attn.k (a : Attn) (j : Nat) : Nat := a.kpos + j

/-- The distance of two numbers. -/
def gap (a b : Nat) : Nat := if a ≤ b then b - a else a - b

/-- A score is kept (08 R198). -/
def Attn.kept (a : Attn) (r j : Nat) : Bool :=
  let q := a.q r
  let k := a.k j
  let fq := q / max a.frame 1
  let fk := k / max a.frame 1
  decide (j < a.klen ∧ (bits a.mask 0 1 = 1 → k ≤ q) ∧ (bits a.mask 2 1 = 1 → gap q k < a.tw) ∧
    (bits a.mask 1 1 = 1 → fk ≤ fq) ∧ (bits a.mask 3 1 = 1 → gap fq fk < a.fw))

/-- Groups of up to 128 query rows. -/
def Attn.groups (a : Attn) : Nat := ceilDiv a.qlen 128

/-- Key blocks of 128. -/
def Attn.blocks (a : Attn) : Nat := ceilDiv a.klen 128

/-- The query rows of a group. -/
def Attn.rowsOf (a : Attn) (g : Nat) : List Nat := (List.range (min 128 (a.qlen - 128 * g))).map fun i => 128 * g + i

/-- The valid keys of a block. -/
def Attn.keysOf (a : Attn) (b : Nat) : List Nat := (List.range (min 128 (a.klen - 128 * b))).map fun i => 128 * b + i

/-- The position ranges of the heads of a group: for each, the first and the last query position. -/
def Attn.headSpans (a : Attn) (g : Nat) : List (Nat × Nat) :=
  let n := max a.perHead 1
  let r0 := 128 * g
  let r1 := min (128 * g + 127) (a.qlen - 1)
  (List.range (r1 / n - r0 / n + 1)).map fun i =>
    let h := r0 / n + i
    (a.q (max r0 (h * n)), a.q (min r1 (h * n + n - 1)))

/-- The distance of two ranges: 0 where they meet. -/
def rangeGap (a b c d : Nat) : Nat := if b < c then c - b else if d < a then a - d else 0

/-- A block runs for a group (08 R200): it has a valid key, and no one condition masks every pair. -/
def Attn.runs (a : Attn) (g b : Nat) : Bool :=
  let k0 := a.k (128 * b)
  let k1 := a.k (min (128 * b + 127) (a.klen - 1))
  let f (x : Nat) : Nat := x / max a.frame 1
  let some_ (p : Nat → Nat → Bool) : Bool := (a.headSpans g).any fun h => p h.1 h.2
  decide (128 * b < a.klen) &&
    (decide (bits a.mask 0 1 = 0) || some_ fun _ q1 => decide (k0 ≤ q1)) &&
    (decide (bits a.mask 2 1 = 0) || some_ fun q0 q1 => decide (rangeGap q0 q1 k0 k1 < a.tw)) &&
    (decide (bits a.mask 1 1 = 0) || some_ fun _ q1 => decide (f k0 ≤ f q1)) &&
    (decide (bits a.mask 3 1 = 0) || some_ fun q0 q1 =>
      decide (rangeGap (f q0) (f q1) (f k0) (f k1) < a.fw))

/-! ### Pages -/

/-- A page-table entry (08 R211). -/
def State.pageEntry (s : State) (table p : Nat) : Nat := s.peekLe (table + 8 * p) 8

/-- VALID of an entry. -/
def entryValid (e : Nat) : Bool := decide (bits e 63 1 = 1)

/-- Module address of a page. -/
def entryPage (e : Nat) : Nat := bits e 7 33 * 128

/-- The cache form stores scales. -/
def cacheForm (fmt : Nat) : Bool := decide (fmt = fINT8 ∨ fmt = fE4M3 ∨ fmt = fKV4)

/-- Offset of a page's scale plane (08 R210). -/
def scalePlane (fmt dim : Nat) : Nat := 128 * dim * fmtBits fmt / 8

/-- The bytes that the slots `first` to `first + n − 1` of a page take. -/
def pageSpans (fmt dim page first n : Nat) : List Span :=
  memSpan (page + first * dim * fmtBits fmt / 8) (n * dim * fmtBits fmt / 8) ++
    (if cacheForm fmt then
      memSpan (page + scalePlane fmt dim + first * (dim / 32) * 2) (n * (dim / 32) * 2) else [])

/-- The element code of a token slot and head-dimension position. -/
def State.kvCode (s : State) (fmt dim page slot i : Nat) : Nat :=
  s.fetchBits ⟨0, 0⟩ false page ((slot * dim + i) * fmtBits fmt) (fmtBits fmt)

/-- The BF16 scale of a token slot and block of 32 positions. -/
def State.kvScale (s : State) (fmt dim page slot blk : Nat) : Nat :=
  s.peekLe (page + scalePlane fmt dim + (slot * (dim / 32) + blk) * 2) 2

/-- The value of a cached element: dequantised exactly in a cache form (03 R77 to R79, 08 R203). -/
def State.kvElem (s : State) (fmt dim page slot i : Nat) : Val :=
  let c := s.kvCode fmt dim page slot i
  if cacheForm fmt then kvValue fmt c (s.kvScale fmt dim page slot (i / 32)) else decodeElem fmt c

/-! ### What a task needs -/

/-- Fields of a KVAPPEND body (09 R258). -/
def kvPos (d : List Byte) : Nat := le d 64 3
def kvTok (d : List Byte) : Nat := le d 67 3

/-- The two page tables of an ATTN or KVAPPEND task: keys, values. -/
def kvTables (d : List Byte) : Nat × Nat :=
  if dOp d = opAttn then (dbits d 40 0 40, dbits d 48 0 40) else (dbits d 48 0 40, dbits d 56 0 40)

/-- The page indices whose entries a task needs, ascending (08 R212). -/
def pagesNeeded (d : List Byte) : List Nat :=
  if dOp d = opAttn then
    let a := attnOf d
    (List.range a.blocks).filter fun b => (List.range a.groups).any fun g => a.runs g b
  else if dOp d = opKvappend ∧ kvTok d ≠ 0 then
    (List.range ((kvPos d + kvTok d - 1) / 128 - kvPos d / 128 + 1)).map fun i => kvPos d / 128 + i
  else []

/-- The lowest page index with an invalid entry in either table (08 R212). -/
def State.pageFault (s : State) (d : List Byte) : Option Nat :=
  (pagesNeeded d).find? fun p =>
    !entryValid (s.pageEntry (kvTables d).1 p) || !entryValid (s.pageEntry (kvTables d).2 p)

/-- The pages that the entries of a task's key blocks name, keys and values, by block; 0 for one whose entry it does not
need. -/
def State.pagesOf (s : State) (d : List Byte) : List Nat × List Nat :=
  let page (table p : Nat) : Nat := if p ∈ pagesNeeded d then entryPage (s.pageEntry table p) else 0
  let blocks := List.range (if dOp d = opAttn then (attnOf d).blocks else 0)
  (blocks.map (page (kvTables d).1), blocks.map (page (kvTables d).2))

/-- The entries that a task reads. -/
def entryRuns (d : List Byte) : List Span :=
  (pagesNeeded d).flatMap fun p => memSpan ((kvTables d).1 + 8 * p) 8 ++ memSpan ((kvTables d).2 + 8 * p) 8

/-- The bytes of pages that an ATTN task reads, or a KVAPPEND task writes, by the entries as they
stand. -/
def State.pageRuns (s : State) (d : List Byte) : List Span :=
  let dim := headDim d
  let fmt := if dOp d = opAttn then dbits d 40 40 4 else dbits d 48 40 4
  (pagesNeeded d).flatMap fun p =>
    let (lo, hi) := if dOp d = opAttn then (0, (attnOf d).klen) else (kvPos d, kvPos d + kvTok d)
    let first := max lo (128 * p)
    let n := min hi (128 * p + 128) - first
    let t := kvTables d
    pageSpans fmt dim (entryPage (s.pageEntry t.1 p)) (first % 128) n ++
      pageSpans fmt dim (entryPage (s.pageEntry t.2 p)) (first % 128) n

/-- The partial arrays that an ATTN task of INMODE 0x2 reads, in the order listed (08 R208, 09 R250). -/
def State.partArrays (s : State) (d : List Byte) : List Nat :=
  let a := attnOf d
  if a.inmode = 1 then [a.pin]
  else if a.inmode = 2 then (List.range a.nin).map fun i => s.peekLe (a.pin + 8 * i) 8 % 2 ^ 40
  else []

/-- The ranges of the partial arrays. -/
def State.partRuns (s : State) (d : List Byte) : List Span :=
  if dOp d = opAttn then
    (s.partArrays d).flatMap fun p => memSpan p ((attnOf d).qlen * partialBytes (headDim d))
  else []

/-! ### The reads of windows and rows -/

/-- The tiles of an output axis: first position and extent (07 R190, 09 R241). -/
def axisTiles (out tile : Nat) : List (Nat × Nat) :=
  let t := max tile 1
  (List.range (ceilDiv out t)).map fun k => (k * t, min t (out - k * t))

/-- The input positions that the windows of `n` outputs from `o` on reach, held within the input: first position
and extent (07 R173, R182, R190). -/
def Axis.region (a : Axis) (o n : Nat) : Nat × Nat :=
  let lo := o * a.s - a.lo
  let hi := min a.ext ((o + n - 1) * a.s + (a.k - 1) * a.d + 1 - a.lo)
  (lo, hi - lo)

/-- The output tile of a CONV task: the first of its plan whose depth does not exceed the output's, else the
last (09 R241). DWCONV and POOL, whose plans list none, take their output as one tile (DEDUCED, log entry 111). -/
def State.tileOf (s : State) (d : List Byte) : Nat × Nat × Nat :=
  let out := outExtents d
  if dOp d = opConv then
    let tiles := ((s.plan (dPlan d)).map Plan.tiles).getD []
    (tiles.find? fun t => t.1 ≤ out.1).getD (tiles.getLastD out)
  else out

/-- Runs that follow one another are one. -/
def joinSpans (l : List Span) : List Span :=
  match l with
  | [] => []
  | a :: t =>
    match joinSpans t with
    | [] => [a]
    | b :: u =>
      if a.lath = b.lath ∧ a.addr + a.size = b.addr then { a with size := a.size + b.size } :: u else a :: b :: u

/-- The bytes of a staged input region: a sample, a range of channels, and the positions of a tile. -/
def regionRuns (d : List Byte) (n c0 cn : Nat) (t h x : Nat × Nat) : List Span :=
  let w := windowOf d
  let r := refAt d 32
  let run (c len tt hh xx : Nat) : Span :=
    let (rowLen, row, i) := inPlace w n c tt hh xx
    { lath := r.lath, addr := r.rowAddr rowLen row + i * fmtBits r.fmt / 8, size := len * fmtBits r.fmt / 8 }
  let upFrom (p : Nat × Nat) : List Nat := (List.range p.2).map fun i => p.1 + i
  if x.2 = 0 ∨ cn = 0 then []
  else if w.last then
    (upFrom t).flatMap fun tt => (upFrom h).flatMap fun hh => (upFrom x).map fun xx => run c0 cn tt hh xx
  else
    (upFrom (c0, cn)).flatMap fun c => (upFrom t).flatMap fun tt => (upFrom h).map fun hh => run c x.2 tt hh x.1

/-- The input reads of a window operator: for each sample, group and tile the tile's whole region, whatever another
tile brought (07 R182, R183, R190). -/
def State.windowRuns (s : State) (d : List Byte) : List Span :=
  let w := windowOf d
  let out := outExtents d
  let tile := s.tileOf d
  let groups := if dOp d = opPool then 1 else max w.groups 1
  let cn := w.c / groups
  joinSpans <| (List.range w.ns).flatMap fun n => (List.range groups).flatMap fun g =>
    (axisTiles out.1 tile.1).flatMap fun t => (axisTiles out.2.1 tile.2.1).flatMap fun h =>
      (axisTiles out.2.2 tile.2.2).flatMap fun x =>
        regionRuns d n (g * cn) cn (w.t.region t.1 t.2) (w.h.region h.1 h.2) (w.w.region x.1 x.2)

/-- The times a NORM task reads each row (06 R160, R169): a soft maximum once (DEDUCED, log entry 111). -/
def normReads (d : List Byte) : Nat :=
  let kind := dbits d 68 0 4
  if kind = 3 then 1 else if kind = 1 ∨ dbits d 68 5 1 = 1 then 2 else 3

/-- The rows of a NORM task, each read as often as its form asks (06 R169). -/
def normRuns (d : List Byte) : List Span :=
  let r := refAt d 32
  (List.range (le d 72 4)).flatMap fun row =>
    List.replicate (normReads d)
      { lath := r.lath, addr := r.rowAddr (le d 76 4) row, size := r.rowBytes (le d 76 4) }

/-- A task whose windows slide over its input. -/
def slides (d : List Byte) : Bool :=
  decide (dOp d = opConv ∨ dOp d = opDwconv ∨ (dOp d = opPool ∧ poolKind d ≤ 2))

/-- Every byte that a task reads, but for those of State.sequencerRuns. -/
def State.taskRuns (s : State) (d bwd : List Byte) : List Span :=
  if dOp d = opAttn then
    ((inParts Ref.runs d bwd).filter fun p => decide (p.1 ≠ 40 ∧ p.1 ≠ 48)).flatMap Prod.snd ++
      s.pageRuns d ++ s.partRuns d
  else if dOp d = opKvappend then
    ((inParts Ref.runs d bwd).filter fun p => decide (p.1 ≠ 48 ∧ p.1 ≠ 56)).flatMap Prod.snd
  else if slides d then
    s.windowRuns d ++ ((inParts Ref.runs d bwd).filter fun p => p.1 ≠ 32).flatMap Prod.snd
  else if dOp d = opNorm then
    normRuns d ++ ((inParts Ref.runs d bwd).filter fun p => p.1 ≠ 32).flatMap Prod.snd
  else inRuns d bwd

/-- An output range of a task overlaps one of its input ranges, those reached through page tables
included (17 R462). `own` says that the target bay of a MOVE of kind 0x2 is the task's own. -/
def State.overlaps (s : State) (d bwd : List Byte) (n : Nat) (own : Bool) : Bool :=
  let ins := (inSpans d bwd).flatMap Prod.snd ++
    (if dOp d = opAttn then s.pageRuns d ++ s.partRuns d else [])
  let outs := (outSpans d bwd n).flatMap Prod.snd ++
    (if dOp d = opKvappend then s.pageRuns d else []) ++
    (if own then (remoteSpans d).flatMap Prod.snd else [])
  ins.any fun a => outs.any fun b => a.meets b

end Sys2Proof.Machine
end

