-- ==== Sys2Proof/Machine/Deal.lean ====
section
/-! DEFINITION. The dealing of the output tiles of GEMM and CONV to the bays of a group, and what each bay reads for its
own (04 R91, 05 R120, R121, 07 R172 to R183, 09 R234 to R241, R520, 17 R460). -/

namespace Sys2Proof.Machine

/-- The arithmetic word of a queue (04 R91, R92). -/
def State.arithOfQueue (s : State) (q : Nat) : Arith := arithOf (((s.queueEntry q).map QueueEntry.arith).getD 0)

/-! ### Tile forms -/

/-- A tile form: bays, per-bay M, sub-tiles along M and N, and the accumulator entries of a column that its
passes have (05 R121, R136, 09 R235). -/
structure Form where
  bays  : Nat
  base  : Nat
  subM  : Nat
  subN  : Nat
  file  : Nat
deriving DecidableEq, Repr

/-- The forms A to F (09 R235). -/
def forms : List Form :=
  [⟨1, 128, 1, 1, 512⟩, ⟨2, 128, 2, 1, 512⟩, ⟨2, 128, 1, 2, 512⟩, ⟨1, 512, 1, 1, 512⟩, ⟨4, 128, 2, 2, 512⟩,
   ⟨8, 128, 4, 2, 512⟩]

/-- Form A, and what each half runs in the forms G and H (09 R235). -/
def formA : Form := ⟨1, 128, 1, 1, 512⟩
def formG : Form := ⟨1, 128, 1, 1, 256⟩
def formH : Form := ⟨1, 256, 1, 1, 256⟩

/-- Per-bay M under the pass limit (05 R121, R136, 09 R236). -/
def Form.rows (f : Form) (l a : Nat) : Nat := min f.base (f.file / (l * a))

/-- M and N of a form. -/
def Form.m (f : Form) (l a : Nat) : Nat := f.rows l a * f.subM
def Form.n (f : Form) (l : Nat) : Nat := 128 * l * f.subN

/-- The cost of 09 R238. -/
def Form.cost (f : Form) (l a g m n : Nat) : Nat :=
  let tiles := ceilDiv m (f.m l a) * ceilDiv n (f.n l)
  ceilDiv tiles (g / f.bays) * (f.rows l a + 1)

/-- The first form beats the second: a lower cost, or the same with a higher reuse factor (09 R238). -/
def Form.better (f h : Form) (l a g m n : Nat) : Bool :=
  let c := f.cost l a g m n
  let d := h.cost l a g m n
  decide (c < d) || (decide (c = d) &&
    decide (h.m l a * h.n l * (f.m l a + f.n l) < f.m l a * f.n l * (h.m l a + h.n l)))

/-- The form that the Thatcher firmware chooses (09 R238). -/
def chooseForm (permitted l a g m n : Nat) : Form :=
  let ok := (forms.zipIdx).filter fun (f, i) => decide (bits permitted i 1 = 1 ∧ f.bays ≤ g)
  match ok with
  | [] => formA
  | (f, _) :: rest => rest.foldl (fun best x => if x.1.better best l a g m n then x.1 else best) f

/-- The form of a task of a split pair: G when M is at most its per-half M, else H (09 R237). -/
def chooseHalf (l a m : Nat) : Form := if m ≤ formG.rows l a then formG else formH

/-- The form's sub-tiles with the position in the group of the bay that runs each, in order (09 R239):
first row, first column. -/
def Form.deal (f : Form) (l a g m n : Nat) : List (Nat × Nat × Nat) :=
  let across := ceilDiv n (f.n l)
  let tiles := ceilDiv m (f.m l a) * across
  let round := max (g / f.bays) 1
  (List.range tiles).flatMap fun t =>
    (List.range (f.subM * f.subN)).map fun u =>
      (t % round * f.bays + u,
       t / across * f.m l a + u / f.subN * f.rows l a,
       t % across * f.n l + u % f.subN * (128 * l))

/-- Logical columns per physical column, by the wider operand (05 R120, R123). -/
def logicalCols (fa fb : Nat) : Nat :=
  let w := max (fmtBits fa) (fmtBits fb)
  if 8 < w then 1 else if 4 < w then 2 else 4

/-- One sub-tile: the bay that runs it, its rows and columns, and the logical columns per physical. -/
structure SubTile where
  bay  : PBay
  row  : Nat
  rows : Nat
  col  : Nat
  cols : Nat
  l    : Nat
deriving DecidableEq, Repr

/-- Accumulator entries of 32 bits for each logical column: 2 in Tally64 (05 R121, R124). -/
def accEntries (ar : Arith) (fa fb : Nat) : Nat := if ar.tally && !decide (fa = fINT8 ∧ fb = fINT8) then 2 else 1

/-- Logical columns of a task: a STRICT one does not use the array (05 R122, 09 R520). -/
def taskCols (ar : Arith) (fa fb : Nat) : Nat := if ar.strict then 1 else logicalCols fa fb

/-- The form in which a GEMM or CONV task of m × n outputs runs: A on a STRICT queue, G or H for one of a split pair,
else the firmware's choice (09 R237, R238, R520). -/
def State.formOf (s : State) (t : Task) (ar : Arith) (fa fb m n : Nat) : Form :=
  let l := taskCols ar fa fb
  let a := accEntries ar fa fb
  match s.plan (dPlan t.desc) with
  | none => formA
  | some p =>
    if ar.strict then formA
    else if p.pair.isSome then chooseHalf l a m
    else chooseForm p.forms l a (s.groupOf t).length m n

/-- The sub-tiles of an m × n output on the bays of a task's group (09 R237 to R239, R520). A task of a split
pair runs on its one bay. -/
def State.subTiles (s : State) (b : PBay) (t : Task) (ar : Arith) (fa fb m n : Nat) : List SubTile :=
  let l := taskCols ar fa fb
  let a := accEntries ar fa fb
  let f := s.formOf t ar fa fb m n
  match s.plan (dPlan t.desc) with
  | none => []
  | some p =>
    let group := if p.pair.isSome then [b] else s.groupOf t
    (f.deal l a group.length m n).filterMap fun (i, r, c) =>
      if r < m ∧ c < n then
        (group[i]?).map fun x =>
          { bay := x, row := r, rows := min (f.rows l a) (m - r), col := c, cols := min (128 * l) (n - c), l := l }
      else none

/-- The gutter of a logical column of a sub-tile (05 R130: an entry carries the logical columns of its
physical column; DEDUCED that they are neighbours; log entry 42). -/
def SubTile.gutter (x : SubTile) (n : Nat) : Nat := (n - x.col) / x.l % 128

/-! ### Convolutions -/

/-- The operands of a CONV or DWCONV body (09 R246). -/
def convWeights (d : List Byte) : Ref :=
  if dOp d = opConv then refScaled d 40 64 else refAt d 40

/-- K positions of a group: channels times taps. -/
def Window.depth (w : Window) : Nat := w.c / max w.groups 1 * (w.t.k * w.h.k * w.w.k)

/-- Channel and tap of a K position (07 R177). -/
def Window.tap (w : Window) (k : Nat) : Nat × Nat × Nat × Nat :=
  (k / (w.t.k * w.h.k * w.w.k), k / (w.h.k * w.w.k) % max w.t.k 1, k / w.w.k % max w.h.k 1, k % max w.w.k 1)

/-- The input element of an output position and K position: the length of its row, the row and the place in it; none for
padding (07 R179). -/
def Window.tapAt (w : Window) (n group ot oh ow k : Nat) : Option (Nat × Nat × Nat) :=
  let (c, kt, kh, kw) := w.tap k
  match w.t.pos ot kt, w.h.pos oh kh, w.w.pos ow kw with
  | some t, some h, some x => some (inPlace w n (group * (w.c / max w.groups 1) + c) t h x)
  | _, _, _ => none

/-- Output positions of one sample, and output channels of one group: the m and n of a CONV task (09 R238). -/
def convExtents (d : List Byte) : Nat × Nat :=
  let w := windowOf d
  let (ot, oh, ow) := outExtents d
  (ot * oh * ow, w.co / max w.groups 1)

/-- A sub-tile of a task with its sample and group. -/
structure Work where
  tile   : SubTile
  sample : Nat
  group  : Nat
deriving DecidableEq, Repr

/-- The sub-tiles of a GEMM or CONV task in the order in which they run: for each sample and group of a CONV, in
ascending order, dealt as a GEMM (07 R183, 09 R238, R239; the dealing starts again with each sample and group,
DEDUCED; log entry 43). -/
def State.works (s : State) (b : PBay) (t : Task) : List Work :=
  let d := t.desc
  let ar := s.arithOfQueue t.queue
  let w := windowOf d
  if dOp d = opGemm then
    (s.subTiles b t ar (refAt d 32).fmt (refAt d 40).fmt (le d 88 3) (le d 91 3)).map fun x =>
      { tile := x, sample := 0, group := 0 }
  else
    let (m, n) := convExtents d
    let tiles := s.subTiles b t ar (refAt d 32).fmt (refAt d 40).fmt m n
    (List.range w.ns).flatMap fun i => (List.range w.groups).flatMap fun g =>
      tiles.map fun x => { tile := x, sample := i, group := g }

/-! ### What a bay reads -/

/-- The bytes of so many rows of an operand from one on, with their scales in a block form. -/
def Ref.rowSpans (r : Ref) (len row rows : Nat) : List Span :=
  (List.range rows).flatMap fun k =>
    { lath := r.lath, addr := r.rowAddr len (row + k), size := r.rowBytes len } ::
      (if r.block then
        [{ lath := r.scaleLath, addr := r.scaleAddr len (row + k) 0, size := rowBlocks len * r.scaleBytes }]
       else [])

/-- Elements `i` to `i + n - 1` of a row of a format of whole bytes. -/
def Ref.partSpan (r : Ref) (len row i n : Nat) : Span :=
  { lath := r.lath, addr := r.rowAddr len row + i * (fmtBits r.fmt / 8), size := n * (fmtBits r.fmt / 8) }

/-- What a sub-tile of a GEMM reads: its rows of A, its columns' rows of B, and its part of ACC (09 R245). -/
def gemmSpans (d : List Byte) (x : SubTile) : List Span :=
  let k := le d 94 3
  (if k = 0 then [] else (refScaled d 32 64).rowSpans k x.row x.rows ++ (refScaled d 40 72).rowSpans k x.col x.cols) ++
    (if dbits d 97 0 1 = 1 then (List.range x.rows).map fun i =>
      (refAt d 56).partSpan (le d 91 3) (x.row + i) x.col x.cols
     else [])

/-- What a sub-tile of a CONV reads: the input of its windows, its channels' weights and their bias (07 R177, 09 R246). -/
def convSpans (d : List Byte) (x : Work) : List Span :=
  let w := windowOf d
  let (_, oh, ow) := outExtents d
  let co := x.group * (convExtents d).2 + x.tile.col
  ((List.range x.tile.rows).flatMap fun i => (List.range w.depth).filterMap fun k =>
    let pos := x.tile.row + i
    (w.tapAt x.sample x.group (pos / (oh * ow)) (pos / ow % max oh 1) (pos % max ow 1) k).map fun p =>
      (refAt d 32).partSpan p.1 p.2.1 p.2.2 1) ++
    (convWeights d).rowSpans w.depth co x.tile.cols ++
    (if dbits d 72 0 1 = 1 then [(refAt d 56).partSpan w.co 0 co x.tile.cols] else [])

/-- What a bay of its group reads for a GEMM or CONV task: for its own sub-tiles alone (09 R239). -/
def State.ownSpans (s : State) (o b : PBay) (t : Task) : List Span :=
  ((s.works o t).filter fun w => decide (w.tile.bay = b)).flatMap fun w =>
    if dOp t.desc = opGemm then gemmSpans t.desc w.tile else convSpans t.desc w

end Sys2Proof.Machine
end

