-- ==== Sys2Proof/Machine/Array.lean ====
section
/-! DEFINITION. The Truss cycle by cycle: which row is due, the yealms and the gutters, the freeze rule, the
progress of the passes in the array, and what it holds (05 R119 to R135, R139, R143). The cycles run when a pass starts,
faults or ends: up to that cycle (log entry 22). -/

namespace Sys2Proof.Machine

/-! ### The entries of a pass -/

/-- Entries that a yealm holds. -/
def yealmDepth : Nat := 64

/-- Steps that the array has made for the pass. -/
def Pass.steps (p : Pass) : Nat := p.prog / p.pace

/-- The array makes a step of the pass in this cycle: under TALLY in every second one (05 R124). -/
def Pass.stepping (p : Pass) : Bool := decide (p.prog % p.pace = 0)

/-- The skew of an array row (05 R125); an element-wise step has none (05 R143). -/
def Pass.skew (p : Pass) (i : Nat) : Nat := if p.cls = 3 then 0 else i

/-- The output row whose entry array row `i` is due to release in this cycle (05 R125, R127). -/
def Pass.due (p : Pass) (i : Nat) : Option Nat :=
  if p.stepping && decide (p.skew i ≤ p.steps ∧ p.steps - p.skew i < p.rows) then some (p.steps - p.skew i) else none

/-- Entries that array row `i` has released before this cycle. -/
def Pass.released (p : Pass) (i : Nat) : Nat :=
  min p.rows ((p.prog + (p.pace - 1)) / p.pace - p.skew i)

/-- The entry of output row `m` stands in the yealm of array row `i`: neither it nor one before it in the row is
late any more. -/
def Pass.arrived (p : Pass) (cycle i m : Nat) : Bool :=
  p.late.all fun (r, k, c) => decide (r ≠ i ∨ m < k ∨ c ≤ cycle)

/-- Entries that the yealm of array row `i` holds at the start of a cycle. -/
def Pass.yealm (p : Pass) (cycle i : Nat) : Nat :=
  ((List.range yealmDepth).filter fun k =>
    decide (p.released i + k < p.rows) && p.arrived cycle i (p.released i + k)).length

/-- The lowest array row of the pass that is due to release an entry and whose yealm is empty (05 R132). -/
def Pass.dryRow (p : Pass) (cycle : Nat) : Option Nat :=
  (List.range p.depth).find? fun i => (p.due i).isSome && decide (p.yealm cycle i = 0)

/-- Steps from the start of a pass to the entry of its first output row in gutter `j` (05 R130, R134, R143). -/
def Pass.latency (p : Pass) (j : Nat) : Nat :=
  if p.cls = 3 then 12 else j + p.depth + 8

/-- The output row whose accumulators reach the foot of column `j` in this cycle (05 R130). -/
def Pass.lands (p : Pass) (j : Nat) : Option Nat :=
  if p.stepping && decide (p.latency j ≤ p.steps ∧ p.steps - p.latency j < p.rows) then some (p.steps - p.latency j)
  else none

/-- The entry of the pass that gutter `j` takes in this cycle (05 R121, R130). -/
def Pass.enters (p : Pass) (j : Nat) : Option GEntry :=
  if p.final then (p.lands j).map fun m => { num := p.num, pace := p.pace, row := p.entry.1 + m, col := p.entry.2 } else none

/-- The accumulators of an output row have reached the foot of a physical column. -/
def Pass.landed (p : Pass) (m j : Nat) : Bool := decide (p.pace * (p.latency j + m) < p.prog)

/-- Steps after which the last output row is complete in the gutters (05 R134). -/
def Pass.length (p : Pass) : Nat := p.rows - 1 + p.latency 127

/-- Array rows whose first entry is released in this cycle: they switch to the pass's bank (05 R129). -/
def Pass.switching (p : Pass) : Nat :=
  if p.stepping then
    (if p.cls = 3 then (if p.steps = 0 then p.depth else 0) else if p.steps < p.depth then 1 else 0)
  else 0

/-- The pass at the next cycle, in one that is not frozen. -/
def Pass.advance (p : Pass) (cycle : Nat) : Pass :=
  let at_ (n : Nat) (x : Option Nat) : Option Nat := if p.prog = p.pace * n then some cycle else x
  { p with prog := p.prog + 1
           left := at_ (p.rows - 1) p.left
           switches := p.switches ++ List.replicate p.switching cycle
           done := at_ p.length p.done }

/-! ### A half and the array -/

/-- Entries that a gutter of a half takes: 32, or 16 in split mode (05 R132). -/
def gutterDepth (split : Bool) : Nat := if split then 16 else 32

/-- The array runs in split mode: a pass of a half is in it. -/
def Truss.split (t : Truss) : Bool := (t.low.passes ++ t.high.passes).any fun p => decide (p.depth = 64)

/-- The lowest full gutter of a half (05 R132). -/
def TrussHalf.fullGutter (h : TrussHalf) (split : Bool) : Option Nat :=
  h.gutters.findIdx? fun g => decide (gutterDepth split ≤ g.length)

/-- The lowest dry row of a half whose first row is `base`. -/
def TrussHalf.dryRow (h : TrussHalf) (cycle base : Nat) : Option Nat :=
  h.passes.foldl (fun m p => match m, p.dryRow cycle with
    | some x, some y => some (min x (base + y))
    | none, some y => some (base + y)
    | m, none => m) none

/-- Why the array is frozen in a cycle: its lowest dry row, and its lowest full gutter. -/
structure Freeze where
  dry  : Option Nat
  full : Option Nat
deriving DecidableEq, Repr

/-- The lesser of two numbers, where there are any. -/
def lesser (x y : Option Nat) : Option Nat :=
  match x, y with
  | some a, some b => some (min a b)
  | some a, none => some a
  | none, y => y

/-- The freeze rule (05 R132, R139): either half freezes both. -/
def Truss.freeze (t : Truss) : Freeze :=
  { dry := lesser (t.low.dryRow t.cycle 0) (t.high.dryRow t.cycle 64)
    full := lesser (t.low.fullGutter t.split) (t.high.fullGutter t.split) }

/-- The array is frozen. -/
def Freeze.frozen (f : Freeze) : Bool := f.dry.isSome || f.full.isSome

/-- A half at the next cycle: its gutters drain, frozen or not, but for those that are held; its passes advance unless
frozen (05 R131, R133). -/
def TrussHalf.tick (h : TrussHalf) (cycle : Nat) (frozen : Bool) (held : Nat → Bool) : TrussHalf :=
  { h with
    passes := if frozen then h.passes else h.passes.map fun p => p.advance cycle
    granted := h.granted.filter fun x => held x.1
    gutters := h.gutters.zipIdx.map fun (g, j) =>
      (if held j then g else g.drop 1) ++ (if frozen then [] else h.passes.filterMap fun p => p.enters j) }

/-- The entries that leave the gutters of a half in a cycle, with their columns: the heads of those not held. -/
def TrussHalf.leaving (h : TrussHalf) (held : Nat → Bool) : List (Nat × GEntry) :=
  h.gutters.zipIdx.filterMap fun (g, j) => if held j then none else g.head?.map fun e => (j, e)

/-- A half of the array. -/
def Truss.half (t : Truss) (half : Nat) : TrussHalf := if half = 1 then t.high else t.low

/-- The array with another half. -/
def Truss.setHalf (t : Truss) (half : Nat) (h : TrussHalf) : Truss :=
  if half = 1 then { t with high := h } else { t with low := h }

/-- A result of a pass is still to be written: it runs with results to come, or a gutter holds an entry of it. -/
def Truss.owes (t : Truss) (num : Nat) : Bool :=
  ((t.low.passes ++ t.high.passes).any fun p => decide (p.num = num) && p.final && p.done.isNone) ||
    (t.low.gutters ++ t.high.gutters).any fun g => g.any fun e => decide (e.num = num)

/-- Cycles from the write of an entry to its bytes being readable, which for one that enters an empty gutter makes the
five of 05 R131, and the ten of a pass under TALLY (05 R124). -/
def writeLatency (pace : Nat) : Nat := 5 * pace - 1

/-- The passes, with their paces, whose last result has left in a cycle: from when it is readable (05 R131). -/
def Truss.noteEnds (t : Truss) (cycle : Nat) (left : List (Nat × Nat)) : Truss :=
  { t with ends := t.ends ++ (left.eraseDups.filter fun x => !t.owes x.1).map fun x => (x.1, cycle + writeLatency x.2) }

/-- The bank of a gutter is taken in the cycle that the array has reached (05 R131). -/
def Truss.heldBy (t : Truss) (half j : Nat) : Bool := (t.half half).passes.any fun p => p.busy.contains (j, t.cycle)

/-- The array at the next cycle; `held` says which gutters cannot write. -/
def Truss.tick (t : Truss) (held : Nat → Nat → Bool) : Truss :=
  let f := t.freeze.frozen
  let gone := (t.low.leaving (held 0) ++ t.high.leaving (held 1)).map fun x => (x.2.num, x.2.pace)
  ({ t with cycle := t.cycle + 1, low := t.low.tick t.cycle f (held 0),
            high := t.high.tick t.cycle f (held 1) }).noteEnds t.cycle gone

/-- Nothing of a half is under way: every pass is done, and the gutters are empty. -/
def TrussHalf.idle (h : TrussHalf) : Bool :=
  (h.passes.all fun p => p.done.isSome) && h.gutters.all List.isEmpty

/-- Nothing of the array is under way. -/
def Truss.idle (t : Truss) : Bool := t.low.idle && t.high.idle

/-- The pass that runs in the array, the latest of several (05 R136, R145; log entry 109). -/
def Truss.running (t : Truss) : Option Pass :=
  ((t.low.passes ++ t.high.passes).filter fun p => p.done.isNone).foldl (fun m p => match m with
    | some q => if q.num < p.num then some p else some q
    | none => some p) none

/-- The latest pass stays; those before it that are done go, and leave their bank and accumulators. -/
def TrussHalf.trim (h : TrussHalf) : TrussHalf :=
  let gone := h.passes.dropLast.filter fun p => p.done.isSome
  { h with
    passes := h.passes.dropLast.filter (fun p => p.done.isNone) ++ h.passes.getLast?.toList
    bank := (gone.getLast?.map Pass.bank).getD h.bank
    scales := (gone.getLast?.map Pass.scales).getD h.scales
    accs := (gone.getLast?.map Pass.sums).getD h.accs }

/-! ### What the array holds -/

/-- The pass to whose bank an array row switched last. -/
def TrussHalf.livePass (h : TrussHalf) (i : Nat) : Option Pass :=
  (h.passes.filter fun p => decide (i < p.switches.length)).getLast?

/-- The live bank of an array row: 16 bits a cell (05 R119, R120, R129). -/
def TrussHalf.live (h : TrussHalf) (i : Nat) : List Nat := ((h.livePass i).map Pass.bank |>.getD h.bank).getD i []

/-- The stationary block scales that stand with the live bank of row 32s (05 R120). -/
def TrussHalf.liveScales (h : TrussHalf) (slate : Nat) : List Nat :=
  ((h.livePass (32 * slate)).map Pass.scales |>.getD h.scales).getD slate []

/-- The shadow bank of an array row: that of the pass that has started and to which the row has not yet switched
(05 R129). -/
def TrussHalf.shadow (h : TrussHalf) (i : Nat) : Option (List Nat) :=
  (h.passes.find? fun p => decide (p.switches.length ≤ i)).map fun p => p.bank.getD i []

/-- The accumulator of an output row and logical column: of the latest pass whose sums have reached it (05 R121). -/
def TrussHalf.acc (h : TrussHalf) (m n : Nat) : Nat :=
  match (h.passes.filter fun p => decide (m < p.rows) && p.landed m (n / max p.l 1)).getLast? with
  | some p => (p.sums.getD m []).getD n 0
  | none => (h.accs.getD m []).getD n 0

/-- The cycle from `c` on that is in none of the cycles given. -/
def nextFree (held : List Nat) (c : Nat) : Nat :=
  (((List.range (held.length + 1)).map fun i => c + i).find? fun x => !held.contains x).getD c

/-- The cycles in which the stationary path writes the rows of a shadow bank, as far as they are known: one row a cycle,
ascending, row k after it has switched for the pass before, if there was one (05 R128, R129). -/
def loadRows (before : Option Pass) (start : Nat) (held : List Nat) (depth : Nat) : List Nat :=
  (List.range depth).foldl (fun acc k =>
    if acc.length < k then acc
    else
      let ready := match before with
        | none => some start
        | some p => if p.depth ≤ k then some start else (p.switches[k]?).map fun c => max start (c + 1)
      match ready with
      | none => acc
      | some c => acc ++ [nextFree held (max c ((acc.getLast?.map fun x => x + 1).getD 0))]) []

/-! ### Bounds -/

/-- Lath sectors that the write of one gutter entry touches at most. -/
def entrySectors : Nat := 16

/-- Cycles within which a pass ends whatever freezes it: a cycle in which a gutter is full has a sector of a head
granted, or the bank of one taken. -/
def Pass.horizon (p : Pass) : Nat :=
  p.pace * (p.length + 1) + p.busy.length + p.late.foldl (fun m x => max m x.2.2) 0 + 128 * entrySectors * p.rows

/-- Cycles within which the array comes to rest. -/
def Truss.horizon (t : Truss) : Nat :=
  (t.low.passes ++ t.high.passes).foldl (fun n p => n + p.horizon) 0 +
    (t.low.gutters ++ t.high.gutters).foldl (fun n g => n + entrySectors * g.length) 0 + 64

end Sys2Proof.Machine
end

