-- ==== Sys2Proof/Machine/Planes.lean ====
section
/-! DEFINITION. The session parameter block, the planes of a picture, and what a MEDIA task reaches (13 R352, R354,
R361, R364). -/

namespace Sys2Proof.Machine

/-! ### The session parameter block (13 R352, R364) -/

def blkAv1 (k : List Byte) : Bool := decide (bits (le k 0 1) 0 1 = 1)
def blkLive (k : List Byte) : Bool := decide (bits (le k 0 1) 1 1 = 1)
def blkGrainMode (k : List Byte) : Nat := bits (le k 0 1) 3 2
def blkLossless (k : List Byte) : Bool := decide (bits (le k 0 1) 2 1 = 1)
def blkRc (k : List Byte) : Nat := bits (le k 0 1) 6 2
def blkTier (k : List Byte) : Nat := bits (le k 3 1) 0 1
def blkQpInit (k : List Byte) : Nat := le k 13 1
def blkBframes (k : List Byte) : Nat := bits (le k 16 1) 0 3
def blkSb128 (k : List Byte) : Bool := decide (bits (le k 16 1) 3 1 = 1)
def blkAnnexB (k : List Byte) : Bool := decide (bits (le k 16 1) 4 1 = 1)
def blkBitrate (k : List Byte) : Nat := le k 20 4
def blkSeedBase (k : List Byte) : Nat := le k 18 2
def blkGrainOut (k : List Byte) : Bool := decide (bits (le k 0 1) 5 1 = 1)
def blkChroma (k : List Byte) : Nat := bits (le k 3 1) 1 2
def blkDepth (k : List Byte) : Nat := 8 + 2 * bits (le k 3 1) 3 2
def blkWidth (k : List Byte) : Nat := le k 4 2
def blkHeight (k : List Byte) : Nat := le k 6 2
def blkNum (k : List Byte) : Nat := le k 8 2
def blkDen (k : List Byte) : Nat := le k 10 2
def blkDeadline (k : List Byte) : Nat := if bits (le k 12 1) 0 4 = 0 then 2 else bits (le k 12 1) 0 4
def blkKeyint (k : List Byte) : Nat := le k 14 2
def blkRing (k : List Byte) : Nat := bits (le k 24 8) 0 40
def blkRingLog2 (k : List Byte) : Nat := bits (le k 24 8) 40 5
def blkRingCnt (k : List Byte) : Nat := bits (le k 32 8) 0 40
def blkPicRec (k : List Byte) : Nat := bits (le k 40 8) 0 40
def blkPicLog2 (k : List Byte) : Nat := bits (le k 40 8) 40 4
def blkDonePeg (k : List Byte) : Nat := le k 48 2
def blkGain (k : List Byte) : Val := decodeElem fFP32 (le k 56 4)
def blkOfsY (k : List Byte) : Nat := le k 60 2
def blkOfsC (k : List Byte) : Nat := le k 62 2
def blkGrainRec (k : List Byte) : Nat := bits (le k 96 8) 0 40
def blkGrainLog2 (k : List Byte) : Nat := bits (le k 96 8) 40 5

/-! ### The pre-processor's fields (13 R364) -/

def preEnabled (k : List Byte) : Bool := decide (bits (le k 64 1) 0 1 = 1)
def preRot (k : List Byte) : Nat := bits (le k 64 1) 1 2
def preMatrix (k : List Byte) : Nat := bits (le k 64 1) 5 3
def preOutChroma (k : List Byte) : Nat := bits (le k 65 1) 0 2
def preFilter (k : List Byte) : Nat := bits (le k 65 1) 4 2
def preTopSited (k : List Byte) : Bool := decide (bits (le k 65 1) 6 1 = 1)
def preInChroma (k : List Byte) : Nat := bits (le k 66 1) 0 2

/-! ### Planes (13 R354) -/

/-- Rows of a plane, each a list of columns. -/
abbrev Plane := List (List Val)

/-- A chroma extent: halved, rounded up, where the axis is subsampled. -/
def half (sub : Bool) (n : Nat) : Nat := if sub then ceilDiv n 2 else n

/-- Width and height of the planes of a picture by CHROMA (0 4:0:0, 1 4:2:0, 2 4:2:2, 3 4:4:4). -/
def planeSizes (chroma w h : Nat) : List (Nat × Nat) :=
  let c := (half (decide (chroma = 1 ∨ chroma = 2)) w, half (decide (chroma = 1)) h)
  if chroma = 0 then [(w, h)] else [(w, h), c, c]

/-- The next 128-byte boundary at or after a byte. -/
def align128 (a : Nat) : Nat := ceilDiv a 128 * 128

/-- The operands of the planes: each begins on a 128-byte boundary after the one before (13 R354). -/
def planeRefs (r : Ref) (sizes : List (Nat × Nat)) : List (Ref × Nat × Nat) :=
  (sizes.foldl (fun acc x =>
    let (w, h) := x
    let p : Ref := { r with addr := acc.2 }
    (acc.1 ++ [(p, w, h)], align128 (acc.2 + (h - 1) * p.stride w + p.rowBytes w))) ([], r.addr)).1

/-- Sizes of the planes that a job of a KIND reads: the picture's, or, for an encode through the pre-processor, the
smallest that hold the crop rectangle (DESIGN CHOICE, log entry 26). -/
def sourceSizes (kind : Nat) (k : List Byte) : List (Nat × Nat) :=
  if kind = 2 then planeSizes (preInChroma k) (blkWidth k) (blkHeight k)
  else if preEnabled k then planeSizes (preInChroma k) (le k 68 2 + le k 72 2) (le k 70 2 + le k 74 2)
  else planeSizes (blkChroma k) (blkWidth k) (blkHeight k)

/-- Sizes of the planes that a job of a KIND writes. -/
def targetSizes (kind : Nat) (k : List Byte) : List (Nat × Nat) :=
  if kind = 2 then planeSizes (preOutChroma k) (le k 76 2) (le k 78 2)
  else planeSizes (blkChroma k) (blkWidth k) (blkHeight k)

/-- The bytes of planes, from the first to the last byte of each. -/
def planeSpans (r : Ref) (sizes : List (Nat × Nat)) : List Span :=
  (planeRefs r sizes).flatMap fun (p, w, h) => p.spans h w

/-! ### What a MEDIA task reaches -/

/-- KIND of a MEDIA body (09 R260). -/
def mediaKind (d : List Byte) : Nat := le d 49 1

/-- The planes that a MEDIA task writes under a parameter block. -/
def mediaOuts (k d : List Byte) : List (Nat × List Span) :=
  if mediaKind d = 1 then [] else [(40, planeSpans (refAt d 40) (targetSizes (mediaKind d) k))]

/-- What an encoder reads at DST: the grain record, or the grained source (13 R361). -/
def grainSpans (k d : List Byte) : List (Nat × List Span) :=
  let r := refAt d 40
  if blkAv1 k then
    (if blkGrainMode k = 1 then [(40, [{ lath := r.lath, addr := r.addr, size := 128 }])]
     else if blkGrainMode k = 2 then [(40, planeSpans r (sourceSizes 1 k))]
     else [])
  else []

/-- What a MEDIA task reads under a parameter block (13 R354, R361). -/
def mediaIns (k d : List Byte) : List (Nat × List Span) :=
  if mediaKind d = 0 then []
  else (32, planeSpans (refAt d 32) (sourceSizes (mediaKind d) k)) :: (if mediaKind d = 1 then grainSpans k d else [])

/-! ### Profiles and levels (13 R357) -/

/-- A profile with its subsampling and bit depth that the engines support. HEVC general_profile_idc 4 stands for the
three range-extension profiles listed, whose constraint flags CHROMA and DEPTH imply: 12 bits with 4:4:4 alone
(DEDUCED, log entry 113). -/
def profileOk (av1 : Bool) (prof chroma depth : Nat) : Bool :=
  if av1 then
    decide ((prof = 0 ∧ chroma ≤ 1 ∧ depth ≤ 10) ∨ (prof = 1 ∧ chroma = 3 ∧ depth ≤ 10) ∨ (prof = 2 ∧ chroma = 2))
  else
    decide ((prof = 1 ∧ chroma = 1 ∧ depth = 8) ∨ (prof = 2 ∧ chroma = 1 ∧ depth ≤ 10) ∨
      (prof = 4 ∧ (depth ≤ 10 ∨ chroma = 3)))

/-- Levels up to 6.1: general_level_idc 183, or seq_level_idx 17. -/
def levelOk (av1 : Bool) (level : Nat) : Bool := decide (level ≤ if av1 then 17 else 183)

/-- Block sizes that a decoder takes. -/
def blockOk (av1 : Bool) (n : Nat) : Bool :=
  if av1 then decide (n = 64 ∨ n = 128) else decide (n = 16 ∨ n = 32 ∨ n = 64)

/-- The block size in which an encoder codes. -/
def encodeBlock (k : List Byte) : Nat := if blkAv1 k && blkSb128 k then 128 else 64

/-- References of a picture that an encoder codes. -/
def encodeRefs (av1 : Bool) : Nat := if av1 then 7 else 4

/-- HEVC, and AV1 with ANNEXB, go as an Annex B byte stream. -/
def annexB (k : List Byte) : Bool := !blkAv1 k || blkAnnexB k

/-- Picture sizes. -/
def sizeOk (w h : Nat) : Bool :=
  decide (64 ≤ w ∧ w ≤ 8192 ∧ 64 ≤ h ∧ h ≤ 8192 ∧ w * h ≤ 35651584)

end Sys2Proof.Machine
end

