-- ==== Sys2Proof/Machine/Check.lean ====
section
/-! DEFINITION. The checks of one descriptor: the reserved bits, check 1 of 09 R230 with the conditions
of 09 R231 under the codes of 16 R446, and the shapes against the plan record (09 R229). -/

namespace Sys2Proof.Machine

/-! ### Reserved bits -/

/-- The fields of the header: byte, first bit and width (09 R222). -/
def headerFields : List (Nat × Nat × Nat) :=
  [(0, 0, 8), (1, 0, 3), (2, 0, 16), (4, 0, 16), (8, 0, 16), (10, 0, 16), (12, 0, 32), (16, 0, 32), (24, 0, 40)]

/-- The fields of the window and shape blocks (09 R247, R248). -/
def windowFields : List (Nat × Nat × Nat) :=
  [(80, 0, 47), (86, 0, 62), (94, 0, 16), (96, 0, 16), (98, 0, 4), (99, 0, 12), (112, 0, 96)]

/-- The fields of each body (09 R245 to R260). -/
def bodyFields (op : Nat) : List (Nat × Nat × Nat) :=
  match op with
  | 0x01 => [(32, 0, 256), (64, 0, 40), (72, 0, 40), (80, 0, 40), (88, 0, 72), (97, 0, 1)]
  | 0x02 => [(32, 0, 256), (64, 0, 40), (72, 0, 1)] ++ windowFields
  | 0x03 => [(32, 0, 256), (64, 0, 40), (72, 0, 1)] ++ windowFields
  | 0x04 => [(32, 0, 64), (40, 0, 44), (48, 0, 40), (56, 0, 64), (64, 0, 40), (72, 0, 40), (80, 0, 96),
             (92, 0, 32), (96, 0, 48), (102, 0, 25), (106, 0, 4), (107, 0, 5), (108, 0, 5), (109, 0, 4),
             (110, 0, 5), (112, 0, 40)]
  | 0x05 => [(32, 0, 256), (64, 0, 32), (68, 0, 8), (69, 0, 3), (72, 0, 64)]
  | 0x06 => [(32, 0, 128), (48, 0, 5), (52, 0, 32)]
  | 0x07 => [(32, 0, 256), (64, 0, 32), (68, 0, 6), (72, 0, 64), (80, 0, 32), (84, 0, 32)]
  | 0x08 => [(32, 0, 128)] ++ windowFields
  | 0x09 => [(32, 0, 128), (48, 0, 40), (56, 0, 40), (64, 0, 8), (65, 0, 5), (66, 0, 3), (68, 0, 96)]
  | 0x0A => [(32, 0, 128), (48, 0, 44), (56, 0, 40), (64, 0, 48), (70, 0, 4)]
  | 0x0B => [(32, 0, 128), (48, 0, 24), (51, 0, 2), (52, 0, 32), (56, 0, 16)]
  | 0x0C => [(32, 0, 16), (34, 0, 8), (36, 0, 32)]
  | 0x0D => [(32, 0, 12), (34, 0, 8)]
  | 0x0E => [(32, 0, 128), (48, 0, 4), (49, 0, 8), (50, 0, 5), (56, 0, 40)]
  | _ => []

/-- The lowest byte of a descriptor in which a reserved bit is 1 (09 R221). The reserved bytes and bits of a backward
record (09 R252) are not looked at: check 1 speaks of none outside the descriptor (DESIGN CHOICE, log entry 148). -/
def reservedByte (d : List Byte) : Option Nat :=
  let fields := headerFields ++ bodyFields (dOp d)
  let bad (x : Byte) (i : Nat) : Bool := (List.range 8).any fun j =>
    decide (bits x.toNat j 1 = 1) &&
      !(fields.any fun (b, lo, w) => decide (8 * b + lo ≤ 8 * i + j ∧ 8 * i + j < 8 * b + lo + w))
  ((d.take 128).zipIdx.find? fun x => decide (x.1 ≠ 0) && bad x.1 x.2).map Prod.snd

/-! ### The conditions -/

/-- What a descriptor is judged against. -/
structure Judge where
  /-- The agreed features, word and bit (16 R434). -/
  state : State
  image : Image
  queue : QueueEntry
  ctx   : Nat

/-- A feature is agreed. -/
def Judge.has (j : Judge) (word bit : Nat) : Bool := j.state.agreed word bit

/-- The arithmetic word of the queue. -/
def Judge.arith (j : Judge) : Arith := arithOf j.queue.arith

/-- A condition that fails, with its code of 16 R446 and the byte offset of its field; none where it
lies wholly outside the descriptor (09 R231). -/
abbrev Fails := List (Nat × Option Nat)

/-- One condition. -/
def failsIf (c : Bool) (code off : Nat) : Fails := if c then [(code, some off)] else []

/-- A condition outside the descriptor. -/
def failsOutside (c : Bool) (code : Nat) : Fails := if c then [(code, none)] else []

/-- The features of a format: MX, FP8 with the 8-bit KV-cache forms, KV4 (16 R434). -/
def Judge.formatAgreed (j : Judge) (fmt : Nat) (kv : Bool) : Bool :=
  if isMx fmt then j.has 0 2
  else if fmt = fKV4 then j.has 0 4
  else if fmt = fE4M3 ∨ fmt = fE5M2 ∨ (kv = true ∧ fmt = fINT8) then j.has 0 3
  else true

/-- The formats that a descriptor uses: byte offset of the operand reference, format, and whether it is
read as a KV-cache form. A reference that the task does not use gives none. -/
def formatsOf (d : List Byte) (bwd : List Byte) : List (Nat × Nat × Bool) :=
  let f (off : Nat) : Nat × Nat × Bool := (off, (refAt d off).fmt, false)
  match dOp d with
  | 0x01 => [f 32, f 40, f 48] ++ (if dbits d 97 0 1 = 1 then [f 56] else [])
  | 0x02 => [f 32, f 40, f 48] ++ (if dbits d 72 0 1 = 1 then [f 56] else [])
  | 0x03 => [f 32, f 40, f 48] ++ (if dbits d 72 0 1 = 1 then [f 56] else [])
  | 0x08 => [f 32, f 40]
  | 0x04 => [f 32, (40, dbits d 40 40 4, true), f 56] ++
      (if dbits d 108 0 1 = 1 then
        [0, 24, 32, 40].map fun o => (112, (refOf (le bwd o 8) 0).fmt, false) else [])
  | 0x05 =>
    let op := le d 68 1
    [f 32] ++ (if op = 1 ∨ op = 2 ∨ op = 3 ∨ op = 4 ∨ op = 5 ∨ op = 6 ∨ op = 8 then [f 40] else []) ++
      (if op = 4 then [f 48] else []) ++ [f 56]
  | 0x06 => [f 32, f 40]
  | 0x07 => [f 32, f 40] ++ (if dbits d 68 0 4 ≤ 2 then
      [f 48] ++ (if dbits d 68 4 1 = 1 then [f 56] else []) else [])
  | 0x09 => [(32, (refAt d 32).fmt, (moveRef d 32 48).kv), (40, (refAt d 40).fmt, (moveRef d 40 56).kv)]
  | 0x0A => [f 32, f 40, (48, dbits d 48 40 4, true)]
  | 0x0B => [f 32, f 40]
  | 0x0E =>
    let k := le d 49 1
    if k = 0 then [f 40] else if k = 1 then [f 32] else [f 32, f 40]
  | _ => []

/-- The formats that a descriptor names, by the byte offset of the reference: those it uses, and those of the references of
its body that it leaves unused (03 R83). -/
def namedFormats (d bwd : List Byte) : List (Nat × Nat) :=
  let refs := match dOp d with
    | 0x01 => [32, 40, 48, 56]
    | 0x02 => [32, 40, 48, 56]
    | 0x03 => [32, 40, 48, 56]
    | 0x05 => [32, 40, 48, 56]
    | 0x07 => [32, 40, 48, 56]
    | 0x0E => [32, 40]
    | _ => []
  ((formatsOf d bwd).map fun x => (x.1, x.2.1)) ++ refs.map fun o => (o, (refAt d o).fmt)

/-- FP32, BF16 or FP16. -/
def ieee3 (fmt : Nat) : Bool := decide (fmt < 3)

/-- Formats of the first row of 05 R122. -/
def truss1 (fmt : Nat) : Bool := decide (1 ≤ fmt ∧ fmt ≤ 0xA)

/-- Formats that the Purlin unit takes for arithmetic (03 R83). -/
def purlin (fmt : Nat) : Bool := decide (fmt < 3 ∨ fmt = fINT32 ∨ fmt = fTally)

/-- Formats that stand in memory without a block scale. -/
def plain (fmt : Nat) : Bool := !isBlock fmt && decide (fmt < 0xF)

/-- A KV-cache format code (09 R250). -/
def kvFormat (fmt : Nat) : Bool := decide (fmt = fBF16 ∨ fmt = fFP16 ∨ fmt = fINT8 ∨ fmt = fE4M3 ∨ fmt = fKV4)

/-- Code 0x04: features and expert values (04 R93, 06 R156, R166, 16 R434, R439). -/
def Judge.features (j : Judge) (d bwd : List Byte) : Fails :=
  failsOutside (decide (bits j.queue.arith 1 6 ≠ 0) && !j.has 1 0) 0x04 ++
  failsOutside (j.arith.strict && !j.has 0 1) 0x04 ++
  (formatsOf d bwd).flatMap (fun (off, fmt, kv) => failsIf (!j.formatAgreed fmt kv) 0x04 off) ++
  (match dOp d with
   | 0x04 => failsIf (decide (dbits d 64 0 40 ≠ 0) && !j.has 0 5) 0x04 64 ++
       failsIf (decide (dbits d 108 0 1 = 1) && !j.has 0 5) 0x04 108
   | 0x07 => failsIf (decide (dbits d 68 5 1 = 1) && !j.has 1 0) 0x04 68
   | 0x06 => failsIf (decide (0x1C ≤ dbits d 48 0 5) && !j.has 1 0) 0x04 48
   | 0x0B => failsIf (decide (redKind d = 4 ∨ redKind d = 5) && !j.has 3 3) 0x04 49
   | _ => [])

/-- Code 0x12: the descriptor itself (09 R222, R230, R254, R257; 11 R307, R315; 13 R349). A plan record of another opcode
or CLASS is a fault of PLAN, whose offset DETAIL then names (DESIGN CHOICE, log entry 149). -/
def Judge.shape (j : Judge) (d : List Byte) : Fails :=
  (match reservedByte d with | some b => [(0x12, some b)] | none => []) ++
  (match j.image.plans[dPlan d]? with
   | none => [(0x12, some 2)]
   | some p => failsIf (decide (p.opcode ≠ dOp d) || (p.be != j.queue.be)) 0x12 2) ++
  failsIf (decide (dBudget d = 0)) 0x12 4 ++
  (match dOp d with
   | 0x05 => failsIf (decide (0x0A < le d 68 1)) 0x12 68
   | 0x09 =>
     failsIf (decide (2 < le d 64 1)) 0x12 64 ++
     failsIf (decide (le d 64 1 = 2 ∧ 23 < dbits d 65 0 5)) 0x12 65 ++
     failsIf (decide (le d 64 1 = 2) && !(refAt d 40).lath) 0x12 40 ++
     failsIf (decide (le d 64 1 = 2 ∧ 2 ^ 22 ≤ dbits d 56 0 40) && (moveRef d 40 56).block) 0x12 56
   | 0x0B =>
     failsIf (decide (2 < redOp d ∧ redKind d < 4)) 0x12 48 ++ failsIf (decide (5 < redKind d)) 0x12 49 ++
     failsIf (decide (2 < redScope d)) 0x12 50
   | 0x0C => failsIf (decide (le d 34 1 < 1 ∨ 3 < le d 34 1)) 0x12 34
   | 0x0D => failsIf (decide (le d 34 1 < 1 ∨ 2 < le d 34 1)) 0x12 34
   | 0x0E => failsIf (decide (2 < le d 49 1)) 0x12 49 ++
     failsIf (decide (3 < dbits d 48 1 3 ∧ le d 49 1 < 2)) 0x12 48
   | _ => [])

/-- Code 0x13: a TIE task names a tie that the image lists (11 R315). -/
def Judge.tie (j : Judge) (d : List Byte) : Fails :=
  failsIf (decide (dOp d = opTie) && !(j.image.ties.any fun t => t.tie = dbits d 32 0 12)) 0x13 32

/-- Members of a REDUCE by scope: bays of the group, dies of the span, modules along the axis
(14 R407). -/
def Judge.members (j : Judge) (d : List Byte) : Nat :=
  if redScope d = 0 then
    (match j.image.plans[dPlan d]? with
     | some p => ((List.range 8).filter fun b => bits p.bays b 1 = 1).length
     | none => 1)
  else if redScope d = 1 then
    ((List.range 24).filter fun b => bits (j.image.spans.getD j.queue.span 0) b 1 = 1).length
  else
    match j.image.cascade with
    | none => 1
    | some c =>
      let x := redAxis d
      bits c.coord (16 + 4 * x) (if x = 3 then 2 else 4) + 1

/-- Role of an axis (15 R420). -/
def Judge.role (j : Judge) (axis : Nat) : Nat :=
  match j.image.cascade with
  | none => 0
  | some c => bits c.cut (2 * axis) 2

/-- The sessions that an image lists for an engine slot (13 R353). -/
def Image.listed (i : Image) (e : Eng) (slot : Nat) : List SessionEntry :=
  i.sessions.filter fun x => decide (x.eng = e ∧ x.slot = slot)

/-- The engine that a MEDIA body names (09 R260). -/
def mediaEng (d : List Byte) : Eng :=
  let k := mediaKind d
  { gable := dbits d 48 0 1,
    kind := if k = 0 then .decode else if k = 1 then .encode else .preprocess,
    idx := if k = 2 then 0 else dbits d 48 1 3 }

/-- The last accepted job with OPEN of the slot that a MEDIA body names. -/
def Judge.lastOpen (j : Judge) (d : List Byte) : Option Job :=
  ((j.state.session (mediaEng d) (dbits d 50 0 3)).jobs.filter Job.open_).getLast?

/-- The parameter block under which a job without OPEN will run: that of the last accepted job with OPEN, else that of
the open session; none while nothing is open (13 R349). -/
def Judge.slotBlock (j : Judge) (d : List Byte) : Option (List Byte) :=
  let v := j.state.session (mediaEng d) (dbits d 50 0 3)
  match j.lastOpen d with
  | some x => some (j.state.peekN x.param 128)
  | none => if v.isOpen then some v.block else none

/-- Where the parameter block stands in memory that judging a MEDIA task reads; none for other tasks, and where the
session's own or the listed one serves. -/
def Judge.blockAt (j : Judge) (d : List Byte) : Option Nat :=
  if dOp d ≠ opMedia then none
  else if mediaKind d = 2 ∨ dbits d 50 3 1 = 1 then some (dbits d 56 0 40)
  else (j.lastOpen d).map Job.param

/-- The parameter block of a MEDIA task: the one at PARAM with OPEN or KIND 0x2, else that of its slot, else the listed
one. -/
def Judge.blockOf (j : Judge) (d : List Byte) : Option (List Byte) :=
  if mediaKind d = 2 ∨ dbits d 50 3 1 = 1 then some (j.state.peekN (dbits d 56 0 40) 128)
  else match j.slotBlock d with
    | some k => some k
    | none => (j.image.listed (mediaEng d) (dbits d 50 0 3)).head?.map SessionEntry.block

/-- What a MEDIA task reads and writes. -/
def Judge.mediaSpans (j : Judge) (d : List Byte) : List (Nat × List Span) :=
  if dOp d = opMedia then
    match j.blockOf d with
    | some k => mediaIns k d ++ mediaOuts k d
    | none => []
  else []

/-- The planes that a MEDIA task writes overlap those that it reads (17 R462). -/
def Judge.mediaOverlaps (j : Judge) (d : List Byte) : Bool :=
  if dOp d = opMedia then
    match j.blockOf d with
    | some k => ((mediaIns k d).flatMap Prod.snd).any fun a => ((mediaOuts k d).flatMap Prod.snd).any fun b => a.meets b
    | none => false
  else false

/-- Code 0x21: the reach of every operand in a Lath (09 R517, R257). -/
def Judge.lath (j : Judge) (d bwd : List Byte) : Fails :=
  (inSpans d bwd ++ outSpans d bwd (j.members d) ++ remoteSpans d ++ j.mediaSpans d).flatMap fun (off, ps) =>
    failsIf (ps.any fun p => p.lath && decide (lathSize < p.addr + p.size)) 0x21 off

/-- Code 0x30: formats and operand pairs (03 R83, R87; 05 R122; 07 R176, R184, R186; 09 R245, R254, R257;
08 R192, R214; 14 R408). TRUSS binds the format of OUT as it does the operands; a row of a MOVE into a block form that is
no multiple of 32 is a fault of ROWS or COLS, under this code (DESIGN CHOICE, log entry 149). -/
def Judge.formats (j : Judge) (d bwd : List Byte) : Fails :=
  let ar := j.arith
  let f (off : Nat) : Nat := (refAt d off).fmt
  (namedFormats d bwd).flatMap (fun (off, fmt) => failsIf (decide (fmt = 0xF)) 0x30 off) ++
  (match dOp d with
   | 0x01 =>
     let int8 := decide (f 32 = fINT8 ∨ f 40 = fINT8)
     let acc := if f 32 = fINT8 ∧ f 40 = fINT8 then fINT32 else if ar.tally then fTally else fFP32
     (if ar.strict then []
      else if int8 then failsIf (decide (f 32 ≠ f 40)) 0x30 32
      else failsIf (!truss1 (f 32)) 0x30 32 ++ failsIf (!truss1 (f 40)) 0x30 40) ++
     failsIf (decide (f 48 = fKV4) || (decide (f 48 = fTally) && !ar.tally) ||
       (ar.tally && !int8 && isBlock (f 48))) 0x30 48 ++
     failsIf (decide (dbits d 97 0 1 = 1 ∧ f 56 ≠ acc)) 0x30 56
   | 0x02 =>
     (if ar.strict then []
      else
        let okIn := decide ((1 ≤ f 32 ∧ f 32 ≤ 4) ∨ f 32 = fINT8)
        failsIf (!okIn) 0x30 32 ++
        (if f 32 = fINT8 ∨ f 40 = fINT8 then failsIf (decide (f 32 ≠ f 40)) 0x30 32
         else failsIf (!truss1 (f 40)) 0x30 40)) ++
     failsIf (!plain (f 48)) 0x30 48 ++
     failsIf (decide (dbits d 72 0 1 = 1) && !ieee3 (f 56)) 0x30 56
   | 0x03 =>
     (if ar.strict then []
      else failsIf (decide (f 32 < 1 ∨ 4 < f 32)) 0x30 32 ++ failsIf (decide (f 40 < 1 ∨ 4 < f 40)) 0x30 40) ++
     failsIf (!plain (f 48)) 0x30 48 ++
     failsIf (decide (dbits d 72 0 1 = 1) && !ieee3 (f 56)) 0x30 56
   | 0x08 =>
     let ok (x : Nat) : Bool := decide (x ≤ 4 ∨ x = fINT8)
     failsIf (!ok (f 32)) 0x30 32 ++ failsIf (!ok (f 40)) 0x30 40
   | 0x04 =>
     failsIf (decide (f 32 ≠ fBF16 ∧ f 32 ≠ fFP16)) 0x30 32 ++
     failsIf (!kvFormat (dbits d 40 40 4)) 0x30 40 ++
     failsIf (if dbits d 108 4 1 = 1 then decide (f 56 ≠ fFP32) else !ieee3 (f 56)) 0x30 56 ++
     (if dbits d 108 0 1 = 1 then
       failsIf (decide ((refOf (le bwd 0 8) 0).fmt < 1 ∨ 4 < (refOf (le bwd 0 8) 0).fmt) ||
         ([24, 32, 40].any fun o => !plain (refOf (le bwd o 8) 0).fmt)) 0x30 112
      else [])
   | 0x05 =>
     let op := le d 68 1
     ((formatsOf d bwd).flatMap fun (off, fmt, _) =>
       failsIf (if op = 0 then isBlock fmt else !purlin fmt) 0x30 off) ++
     (if dbits d 69 2 1 = 1 then
       ((formatsOf d bwd).flatMap fun (off, fmt, _) =>
         failsIf (decide (fmt ≠ fBF16 ∧ fmt ≠ fFP16)) 0x30 off) ++
       failsIf (decide (op ≠ 1 ∧ op ≠ 3 ∧ op ≠ 4)) 0x30 68
      else [])
   | 0x06 => failsIf (!ieee3 (f 32)) 0x30 32 ++ failsIf (!ieee3 (f 40)) 0x30 40
   | 0x07 =>
     failsIf (!purlin (f 32)) 0x30 32 ++ failsIf (isBlock (f 40)) 0x30 40 ++
     (if dbits d 68 0 4 ≤ 2 then
       failsIf (!ieee3 (f 48)) 0x30 48 ++ failsIf (decide (dbits d 68 4 1 = 1) && !ieee3 (f 56)) 0x30 56
      else [])
   | 0x09 =>
     let dst := moveRef d 40 56
     failsIf (decide (f 32 = fTally) && dst.block) 0x30 32 ++
     (if dst.block then
       (if le d 64 1 = 1 then failsIf (decide (le d 68 4 % 32 ≠ 0)) 0x30 68
        else failsIf (decide (le d 72 4 % 32 ≠ 0)) 0x30 72)
      else [])
   | 0x0A =>
     failsIf (!ieee3 (f 32)) 0x30 32 ++ failsIf (!ieee3 (f 40)) 0x30 40 ++
     failsIf (!kvFormat (dbits d 48 40 4)) 0x30 48
   | 0x0B =>
     failsIf (if redKind d < 2 then
         (if redOp d = 0 then !(ieee3 (f 32) || decide (f 32 = fINT32)) else !purlin (f 32))
       else if redKind d < 4 then !plain (f 32) else decide (f 32 = fTally) && isBlock (f 40)) 0x30 32 ++
     failsIf (decide (redKind d < 4) && !plain (f 40)) 0x30 40
   | 0x0E =>
     (formatsOf d bwd).flatMap fun (off, fmt, _) => failsIf (!ieee3 fmt) 0x30 off
   | _ => [])

/-- Code 0x31: the arithmetic word, and what a STRICT queue carries (04 R93, R94). -/
def Judge.strictQueue (j : Judge) (d bwd : List Byte) : Fails :=
  let w := j.queue.arith
  let rnd := bits w 2 3
  failsOutside (decide (5 ≤ rnd ∨ (bits w 0 1 = 0 ∧ rnd ≠ 0) ∨
    (bits w 0 1 = 1 ∧ (bits w 1 1 = 1 ∨ bits w 5 2 ≠ 0)) ∨ 2 ^ 7 ≤ w)) 0x31 ++
  (if j.arith.strict then
    failsIf (decide (dOp d ≠ 1 ∧ dOp d ≠ 2 ∧ dOp d ≠ 3 ∧ dOp d ≠ 5 ∧ dOp d ≠ 0xB)) 0x31 0 ++
    (formatsOf d bwd).flatMap fun (off, fmt, _) => failsIf (!ieee3 fmt) 0x31 off
   else [])

/-- The code that PADVAL names in the input format (07 R172): its low 8 bits for an 8-bit format. What 16 bits
name in FP32 the manual does not say (log entry 41). -/
def padCodeOf (fmt padVal : Nat) : Nat :=
  if fmt = fFP32 then Config.padValue32 padVal % 2 ^ 32 else padVal % 2 ^ fmtBits fmt

/-- A NaN or infinite code of a pad value is refused (07 R172). -/
def padBad (fmt padVal : Nat) : Bool := !(decodeElem fmt (padCodeOf fmt padVal)).isFin

/-- An axis of a window lies in its ranges (07 R172). -/
def axisBad (a : Axis) (kmax : Nat) : Bool :=
  decide (a.k < 1 ∨ kmax < a.k ∨ a.s < 1 ∨ 8 < a.s ∨ a.d < 1 ∨ 64 < a.d ∨
    (a.k - 1) * a.d < a.lo ∨ (a.k - 1) * a.d < a.hi)

/-- Code 0x32: window parameters and overlaps (07 R172, R184, R186, R189, R191; 09 R249). The PADVAL of an FP32 input is
judged with PADMODE 1 alone, since what its 16 bits name is open, and a C of 0 has no GROUPS in range (DESIGN CHOICE, log
entry 134). -/
def Judge.window (j : Judge) (d bwd : List Byte) : Fails :=
  let op := dOp d
  if op = opConv ∨ op = opDwconv ∨ op = opPool then
    let w := windowOf d
    let up := decide (op = opPool ∧ (poolKind d = 3 ∨ poolKind d = 4))
    let (ft, fh, fw) := upFactors d
    failsIf (axisBad w.t 8 || axisBad w.h 16 || axisBad w.w 16) 0x32 80 ++
    failsIf ((w.padded || decide ((refAt d 32).fmt ≠ fFP32)) && padBad (refAt d 32).fmt w.padVal) 0x32 94 ++
    failsIf (decide (w.groups < 1 ∨ w.c < w.groups ∨ w.c % max w.groups 1 ≠ 0 ∨ w.co % max w.groups 1 ≠ 0)) 0x32 96 ++
    failsIf (decide (op = opDwconv ∧ (8 < w.c / max w.groups 1 ∨ 8 < w.co / max w.groups 1))) 0x32 96 ++
    (if op = opPool then
      failsIf (decide (4 < poolKind d)) 0x32 98 ++ failsIf (decide (w.c ≠ w.co)) 0x32 114 ++
      (if up then
        failsIf (decide (w.t.k ≠ 1 ∨ w.h.k ≠ 1 ∨ w.w.k ≠ 1 ∨ w.t.s ≠ 1 ∨ w.h.s ≠ 1 ∨ w.w.s ≠ 1 ∨ w.t.d ≠ 1 ∨
          w.h.d ≠ 1 ∨ w.w.d ≠ 1)) 0x32 80 ++
        failsIf (decide (dbits d 86 0 60 ≠ 0)) 0x32 86 ++
        failsIf (decide (ft < 1 ∨ 8 < ft ∨ fh < 1 ∨ 8 < fh ∨ fw < 1 ∨ 8 < fw)) 0x32 99
       else [])
     else []) ++
    (inSpans d bwd).flatMap fun (off, ps) => (outSpans d bwd (j.members d)).flatMap fun (out, qs) =>
      failsIf (ps.any fun p => qs.any fun q => p.meets q) 0x32 (min off out)
  else []

/-- Code 0x33: attention parameters and appends (08 R192, R193, R216; 09 R250). An append beyond the 4,194,304 slots of a
cache, for which the manual names neither code nor outcome, is a fault of APOS (DESIGN CHOICE, log entry 149). -/
def Judge.attention (_ : Judge) (d : List Byte) : Fails :=
  match dOp d with
  | 0x04 =>
    let sh (i : Nat) := (shapeOf d).getD i 0
    let heads := dbits d 107 0 5
    let okHeads := decide (1 ≤ heads ∧ heads ≤ 16)
    let scale := decodeElem fFP32 (le d 92 4)
    let mask := dbits d 109 0 4
    failsIf (decide (dbits d 64 0 40 ≠ 0 ∧ (dbits d 108 4 1 = 1 ∨ dbits d 108 0 1 = 1))) 0x33 64 ++
    failsIf (decide (65536 < sh 0) || (okHeads && (decide (sh 0 % heads ≠ 0) ||
      decide (0xFFFFFF + 1 < le d 86 3 + sh 0 / heads)))) 0x33 80 ++
    failsIf (decide (4194304 < sh 1 ∨ 0xFFFFFF + 1 < le d 89 3 + sh 1)) 0x33 83 ++
    failsIf (!scale.isFin || scale.isZero) 0x33 92 ++
    failsIf (decide (bits mask 2 1 = 1 ∧ le d 96 3 = 0)) 0x33 96 ++
    failsIf (decide (bits mask 3 1 = 1 ∧ le d 99 3 = 0)) 0x33 99 ++
    failsIf (decide ((bits mask 1 1 = 1 ∨ bits mask 3 1 = 1) ∧
      (dbits d 102 0 25 < 1 ∨ 0x1000000 < dbits d 102 0 25))) 0x33 102 ++
    failsIf (decide (dbits d 106 0 4 < 1 ∨ 8 < dbits d 106 0 4)) 0x33 106 ++
    failsIf (!okHeads) 0x33 107 ++ failsIf (decide (dbits d 108 2 2 = 3)) 0x33 108 ++
    failsIf (decide (dbits d 108 2 2 = 2 ∧ (dbits d 110 0 5 < 2 ∨ 16 < dbits d 110 0 5))) 0x33 110
  | 0x0A =>
    failsIf (decide (dbits d 70 0 4 < 1 ∨ 8 < dbits d 70 0 4)) 0x33 70 ++
    failsIf (decide (4194304 < le d 64 3 + le d 67 3)) 0x33 64
  | _ => []

/-- An FP32 code is a positive normal number. -/
def posNormal (c : Nat) : Bool := decide (bits c 31 1 = 0 ∧ 1 ≤ bits c 23 8 ∧ bits c 23 8 ≤ 254)

/-- Code 0x34: NORM, SFU and custom tables (06 R151, R156, R163; 09 R256). -/
def Judge.norm (j : Judge) (d : List Byte) : Fails :=
  match dOp d with
  | 0x07 =>
    let kind := dbits d 68 0 4
    let rows := le d 72 4
    let len := le d 76 4
    failsIf (decide (3 < kind)) 0x34 68 ++ failsIf (decide (kind ≤ 2) && !posNormal (le d 64 4)) 0x34 64 ++
    failsIf (decide (2 ^ 24 < len)) 0x34 76 ++
    (if kind = 2 then
      failsIf (decide (le d 82 2 = 0 ∨ rows % max (le d 82 2) 1 ≠ 0)) 0x34 72 ++
      failsIf (decide (le d 80 2 * le d 84 4 ≠ len)) 0x34 76
     else [])
  | 0x06 =>
    let f := dbits d 48 0 5
    failsIf (decide (0x10 ≤ f ∧ f < 0x1C)) 0x34 48 ++
    failsIf (decide (0x1C ≤ f) && !(j.image.tables.any fun t => t.1 = f - 0x1C)) 0x34 48
  | _ => []

/-- The h of 15 R425. -/
def hopCount (kind n : Nat) : Nat :=
  if kind ≤ 1 then 2 * n - 1 else if kind = 2 then n else if kind = 3 then n / 2 + 1 else 2

/-- The format in which a REDUCE forms and moves its sums (14 R408): FP32, Tally64 under TALLY, or INT32;
the source format where nothing is summed. -/
def redFormat (ar : Arith) (d : List Byte) : Nat :=
  let f := (refAt d 32).fmt
  if redKind d < 2 ∧ redOp d = 0 then
    (if f = fINT32 then fINT32 else if ar.tally then fTally else fFP32)
  else f

/-- Bytes that a SCOPE 0x2 REDUCE moves in each direction (15 R425): its elements in the format in which they travel.
Partial sums go one way in the accumulation format and the result comes back in DST's (14 R409): the wider of the two
counts (DEDUCED, log entry 118). -/
def redPayload (ar : Arith) (d : List Byte) (n : Nat) : Nat :=
  let out := travelBytes (redFormat ar d) (redCount d)
  (if redKind d < 2 then max out (travelBytes (refAt d 40).fmt (redCount d)) else out) *
    (if redKind d = 2 then n - 1 else 1)

/-- The rate of an axis in bytes per microsecond (15 R425). -/
def axisRate (axis : Nat) : Nat := if axis = 3 then 187500 else 375000

/-- B / R + h × 1.5 µs passes BUDGET / 1.592 GHz (15 R425): both sides in picoseconds, multiplied by R and 1592. -/
def tooSlow (budget payload hops axis : Nat) : Bool :=
  decide (budget * 1000000 * axisRate axis < (payload * 1000000 + hops * 1500000 * axisRate axis) * 1592)

/-- Code 0x35: collectives (14 R410; 15 R421, R425). -/
def Judge.collective (j : Judge) (d : List Byte) : Fails :=
  if dOp d = opReduce then
    let n := j.members d
    let kind := redKind d
    let role := j.role (redAxis d)
    failsIf (decide (kind = 1 ∧ redCount d % max n 1 ≠ 0)) 0x35 52 ++
    failsIf (decide (kind = 3 ∧ n ≤ redRoot d)) 0x35 56 ++
    (if redScope d = 2 then
      failsIf (decide (role = 0)) 0x35 51 ++ failsIf (decide (role = 2 ∧ kind < 4)) 0x35 49 ++
      failsIf (tooSlow (dBudget d) (redPayload j.arith d n) (hopCount kind n) (redAxis d)) 0x35 4
     else [])
  else []

/-- A job without OPEN belongs to a live session: the one that its slot will then hold, or, while nothing is open there,
every one that the image lists for the slot. -/
def Judge.liveJob (j : Judge) (d : List Byte) : Bool :=
  match j.slotBlock d with
  | some k => blkLive k
  | none => let l := j.image.listed (mediaEng d) (dbits d 50 0 3); !l.isEmpty && l.all fun x => blkLive x.block

/-- Code 0x36: media sessions (13 R352, R353, R361). A parameter block that is not 128-byte aligned is no session's
(DEDUCED, log entry 113). -/
def Judge.media (j : Judge) (d : List Byte) : Fails :=
  if dOp d = opMedia then
    let opens := decide (dbits d 50 3 1 = 1 ∧ mediaKind d < 2)
    let block := j.state.peekN (dbits d 56 0 40) 128
    let ok := (j.image.listed (mediaEng d) (dbits d 50 0 3)).any fun x =>
      decide (x.ctx = j.ctx ∧ block.take 24 = x.block.take 24)
    failsIf (decide ((opens = true ∨ mediaKind d = 2) ∧ dbits d 56 0 7 ≠ 0)) 0x36 56 ++
    failsIf (opens && (!ok || decide (blkGrainMode block = 3) || (blkLive block && j.queue.be))) 0x36 56 ++
    failsIf (decide (mediaKind d < 2) && !opens && j.queue.be && j.liveJob d) 0x36 50
  else []

/-- Every failing condition of a descriptor (09 R231, 16 R446). -/
def Judge.fails (j : Judge) (d bwd : List Byte) : Fails :=
  if dOp d < 1 ∨ 0xE < dOp d then [(0x12, some 0)]
  else
    j.features d bwd ++ j.shape d ++ j.tie d ++ j.lath d bwd ++ j.formats d bwd ++ j.strictQueue d bwd ++
      j.window d bwd ++ j.attention d ++ j.norm d ++ j.collective d ++ j.media d

/-- The lowest offset of a list of failing conditions; none stands outside the descriptor and comes
first. -/
def lowest (l : Fails) : Option Nat :=
  if l.any (fun p => p.2 = none) then none
  else (l.filterMap fun p => p.2).foldl (fun m x => match m with
    | none => some x
    | some y => some (min x y)) none

/-- The first failing condition: the lowest code, and under it the lowest offset (DEDUCED from 09 R231
and 16 R446; log entry 31). -/
def firstFail (l : Fails) : Option (Nat × Option Nat) :=
  match l.foldl (fun m p => match m with
      | none => some p.1
      | some c => some (min c p.1)) (none : Option Nat) with
  | none => none
  | some c => some (c, lowest (l.filter fun p => p.1 = c))

/-- The judge of a queue's descriptors in the loaded image. -/
def State.judge (s : State) (q : Nat) : Option Judge :=
  match s.image, s.queueEntry q with
  | some i, some e => some { state := s, image := i, queue := e, ctx := e.ctx }
  | _, _ => none

/-- The code of the first shape field that exceeds the plan record: 0x00 is BUDGET (09 R229, R230). -/
def exceeds (p : Plan) (d : List Byte) : Option Nat :=
  if p.budget < dBudget d then some 0
  else ((shapeOf d).zipIdx.find? fun (v, i) => decide (p.maxs.getD i 0 < v)).map fun x => x.2 + 1

end Sys2Proof.Machine
end

