-- ==== Sys2Proof/Machine/Links.lean ====
section
/-! DEFINITION. The Bribarin ports: flits, retry, credits, routing, port states, and the rows of the
link layer that abort no task (14 R379 to R406). -/

namespace Sys2Proof.Machine

/-! ### Ports and coordinates -/

/-- The axis of a port: 0 X, 1 Y, 2 Z, 3 W (14 R379). -/
def portAxis (port : Nat) : Nat := if port < 24 then port / 8 else 3

/-- The ports of one direction of an axis, ascending (14 R379). -/
def dirPorts (axis : Nat) (plus : Bool) : List Nat :=
  if axis < 3 then (List.range 4).map fun j => 8 * axis + (if plus then 0 else 4) + j
  else (List.range 2).map fun j => 24 + (if plus then 0 else 2) + j

/-- An axis port: 0 to 27. -/
def isAxisPort (port : Nat) : Bool := decide (port < 28)

/-- The port carries the link layer of 14 R384. -/
def hasLinkLayer (port : Nat) : Bool := decide (port < 28 ∨ port = 30 ∨ port = 31)

/-- An axis port runs in the + direction. -/
def portPlus (port : Nat) : Bool := (dirPorts (portAxis port) true).contains port

/-- The far port that 14 R379 pairs with an axis port. -/
def farPort (port : Nat) : Nat :=
  if port < 24 then (if port % 8 < 4 then port + 4 else port - 4)
  else if port < 26 then port + 2 else port - 2

/-- A coordinate of one axis in the layout of 14 R385. -/
def coordOf (c axis : Nat) : Nat := bits c (4 * axis) (if axis = 3 then 2 else 4)

/-- The module's own coordinates in the layout of 14 R385. -/
def State.ownCoord (s : State) : Nat := bits (s.reg Reg.kpCoordX.off).toNat 0 14

/-- The extent of an axis (14 R397: KP_COORD holds extent − 1). -/
def State.extent (s : State) (axis : Nat) : Nat :=
  bits (s.reg Reg.kpCoordX.off).toNat (16 + 4 * axis) (if axis = 3 then 2 else 4) + 1

/-- The module's coordinates moved by one step along an axis, modulo its extent. -/
def State.neighbour (s : State) (axis : Nat) (plus : Bool) : Nat :=
  let n := s.extent axis
  let c := coordOf s.ownCoord axis
  putBits s.ownCoord (4 * axis) (if axis = 3 then 2 else 4) (if plus then (c + 1) % n else (c + n - 1) % n)

/-- State of a port (14 R388). -/
def State.pstate (s : State) (port : Nat) : Nat := s.fld (Reg.eavStateState port)

/-- The ports of a direction that are not OFF, DOWN or REFUSED (14 R399). -/
def State.usable (s : State) (axis : Nat) (plus : Bool) : List Nat :=
  (dirPorts axis plus).filter fun p => decide (s.pstate p ∉ [0, 4, 5])

/-- The first axis on which two coordinates differ, and whether the + direction is taken: the shorter
way, + when both are equal (14 R399). -/
def State.heading (s : State) (dest : Nat) : Option (Nat × Bool) :=
  ((List.range 4).find? fun a => decide (coordOf s.ownCoord a ≠ coordOf dest a)).map fun a =>
    let n := s.extent a
    let d := (coordOf dest a + n - coordOf s.ownCoord a % n) % n
    (a, decide (2 * d ≤ n))

/-- The way of a message that came by a port: on the axis on which it travels it keeps its direction, on the next it
takes the shorter way (14 R399). -/
def State.headingFrom (s : State) (came : Option Nat) (dest : Nat) : Option (Nat × Bool) :=
  (s.heading dest).map fun (a, plus) => match came with
    | some p => if isAxisPort p && decide (portAxis p = a) then (a, !portPlus p) else (a, plus)
    | none => (a, plus)

/-- The usable ports of a direction, or of the other way round when it has none (14 R399). -/
def State.waysOf (s : State) (axis : Nat) (plus : Bool) : List Nat :=
  if (s.usable axis plus).isEmpty then s.usable axis (!plus) else s.usable axis plus

/-- The port a message to `dest` takes, by the port it came by and its tag (14 R399); none when no port is usable. -/
def State.route (s : State) (came : Option Nat) (dest tag : Nat) : Option Nat :=
  match s.headingFrom came dest with
  | none => none
  | some (a, plus) =>
    let ports := s.waysOf a plus
    ports[tag % 4096 % max ports.length 1]?

/-! ### Flits -/

/-- One byte of the CRC-64 of 14 R384, unreflected. -/
def crc64Byte (crc : Nat) (b : Byte) : Nat :=
  (List.range 8).foldl (fun c _ =>
    if c < 2 ^ 63 then 2 * c else (2 * c % 2 ^ 64) ^^^ 0x42F0E1EBA9EA3693) (crc ^^^ (b.toNat * 2 ^ 56))

/-- CRC-64 of ECMA-182, from all ones, complemented at the end (14 R384). -/
def crc64 (bs : List Byte) : Nat := bs.foldl crc64Byte (2 ^ 64 - 1) ^^^ (2 ^ 64 - 1)

/-- A list cut or filled with zero bytes to a length. -/
def fit (n : Nat) (bs : List Byte) : List Byte := (bs ++ List.replicate (n - bs.length) 0).take n

/-- The 256 bytes of a flit (14 R384). -/
def flitBytes (seq typ ack nak cred ccls : Nat) (payload : List Byte) : List Byte :=
  let body := toLe 2 (seq % 4096 + typ * 4096) ++ toLe 2 (ack % 4096 + nak * 4096) ++
    toLe 2 (cred % 2048 + ccls * 2048) ++ [0, 0] ++ fit 240 payload
  body ++ toLe 8 (crc64 body)

/-- The 16-byte header and the data of a message (14 R385). -/
def msgBytes (m : Msg) : List Byte :=
  [BitVec.ofNat 8 (m.mtype % 16), BitVec.ofNat 8 (m.ctx % 64)] ++ toLe 2 m.tag ++ toLe 2 m.dest ++
    toLe 2 m.collseq ++ toLe 4 m.offset ++ toLe 2 m.len ++ toLe 2 m.src ++ m.data

/-- The payload of the next flit of a type and queue, whose credits one task, or none, spends: messages packed end to end,
as many as there is room for (14 R384; log entry 29). Beside it, the messages in transit that have left with it, and
what still waits. -/
def fillFlit (room typ : Nat) (queue : Option Nat) : List Wait → List Byte × List (Nat × Msg) × List Wait
  | [] => ([], [], [])
  | w :: r =>
    if room = 0 ∨ w.typ ≠ typ ∨ w.queue ≠ queue then ([], [], w :: r)
    else if w.bytes.length ≤ room then
      let (bs, gone, rest) := fillFlit (room - w.bytes.length) typ queue r
      (w.bytes ++ bs, w.via.toList ++ gone, rest)
    else (w.bytes.take room, [], { w with bytes := w.bytes.drop room } :: r)

/-- Bytes of a message in the payload. -/
def msgSize (m : Msg) : Nat := 16 + m.data.length

/-- Credit class of a flit type: 0x1 the context pool, 0x2 and 0x4 transit low, 0x3 transit high
(14 R395, R402; log entry 29). -/
def creditClass (typ : Nat) : Option Nat :=
  if typ = 1 then some 0 else if typ = 2 ∨ typ = 4 then some 1 else if typ = 3 then some 2 else none

/-- Adds to a number of a list. -/
def addAt (l : List Nat) (i n : Nat) : List Nat := putAt l i (l.getD i 0 + n)

/-- Flits that a receiving buffer holds, by class: 768 in the context pool, 128 and 128 for transit (14 R395). -/
def pool (cls : Nat) : Nat := if cls = 0 then 768 else 128

/-- The first bytes of some that flits hold, by flit, and the others. -/
def takeParts (n : Nat) : List (Nat × Nat) → List (Nat × Nat) × List (Nat × Nat)
  | [] => ([], [])
  | (f, k) :: r =>
    if n = 0 then ([], (f, k) :: r)
    else if k ≤ n then
      let (a, b) := takeParts (n - k) r
      ((f, k) :: a, b)
    else ([(f, n)], (f, k - n) :: r)

/-- Bytes of a flit among some that flits hold. -/
def partsOf (parts : List (Nat × Nat)) (no : Nat) : Nat := ((parts.filter fun x => x.1 = no).map Prod.snd).sum

/-- Bytes leave the receiving buffer: each flit whose last bytes have left returns its credit to the peer (14 R395). -/
def State.freeParts (s : State) (port : Nat) (parts : List (Nat × Nat)) : State :=
  let p := s.port port
  let after := p.inFlits.map fun f => { f with left := f.left - partsOf parts f.no }
  s.setPort port { p with
    inFlits := after.filter fun f => decide (f.left ≠ 0)
    owed := (after.filter fun f => decide (f.left = 0)).foldl (fun l f => addAt l f.cls 1) p.owed }

/-- A message received in part is given up (14 R392, R393). -/
def State.dropPart (s : State) (port : Nat) : State :=
  let p := s.port port
  State.freeParts (s.setPort port { p with partMsg := [], partIn := [] }) port p.partIn

/-- A message that came whole on a port, if it is in the receiving buffer. -/
def State.inMsg (s : State) (port : Nat) (m : Msg) : Option InMsg :=
  (s.port port).inMsgs.find? fun x => decide (x.bytes = msgBytes m)

/-- A message leaves the receiving buffer of the port on which it arrived (14 R395). -/
def State.leaveMsg (s : State) (port : Nat) (m : Msg) : State :=
  match s.inMsg port m with
  | none => s
  | some x =>
    let p := s.port port
    State.freeParts (s.setPort port { p with inMsgs := p.inMsgs.erase x }) port x.parts

/-- A message came in transit-high flits (14 R396). -/
def State.cameHigh (s : State) (port : Nat) (m : Msg) : Bool :=
  match (s.inMsg port m).bind fun x => x.parts.head? with
  | none => false
  | some (no, _) => (s.port port).inFlits.any fun f => decide (f.no = no ∧ f.cls = 2)

/-- Lanes of a bit mask. -/
def lanesOf (mask : Nat) : List Nat := (List.range 9).filter fun l => decide (bits mask l 1 = 1)

/-- A bit mask of lanes. -/
def laneMask (ls : List Nat) : Nat := ls.foldl (fun w l => w + 2 ^ l) 0

/-- Deals a flit to the next lane in use, in ascending lane order (14 R381). -/
def State.deal (s : State) (port : Nat) (flit : List Byte) : State :=
  let p := s.port port
  let ls := lanesOf (s.fld (Reg.eavStateLanes port))
  let n := max ls.length 1
  s.setPort port { p with
    sent := p.sent ++ [flit], laneOf := p.laneOf ++ [ls.getD (p.nextLane % n) 0], nextLane := (p.nextLane + 1) % n }

/-- Puts a flit on the fibre, with the latest ACK, a NAK that is due, and credits to return
(14 R384, R386). -/
def State.emit (s : State) (port seq typ : Nat) (payload : List Byte) : State :=
  let p := s.port port
  let cls := if p.owed.getD 0 0 ≠ 0 then 0 else if p.owed.getD 1 0 ≠ 0 then 1 else 2
  let n := min (p.owed.getD cls 0) 2047
  (s.setPort port { p with owed := putAt p.owed cls (p.owed.getD cls 0 - n), nak := false }).deal port
    (flitBytes seq typ (p.expect + 4095) (if p.nak then 1 else 0) n cls payload)

/-- Queues a message on a port, where it waits to be sent; a message in transit with the port it came by. -/
def State.sendVia (s : State) (port typ : Nat) (queue came : Option Nat) (m : Msg) : State :=
  let p := s.port port
  s.setPort port { p with waiting := p.waiting ++ [{ typ := typ, queue := queue, bytes := msgBytes m
                                                     via := came.map fun c => (c, m) }] }

/-- Queues a message of this module's own on a port. -/
def State.sendMsg (s : State) (port typ : Nat) (queue : Option Nat) (m : Msg) : State := s.sendVia port typ queue none m

/-- The context of a queue's transfers, whose allotment they use (12 R340). -/
def State.queueCtx (s : State) (q : Nat) : Option Nat := (s.queueEntry q).map QueueEntry.ctx

/-- A port holds the credit that a flit of a type spends: of its class, and of its context's allotment where a queue's
task sends it (12 R340, 14 R395). -/
def State.hasCredit (s : State) (port typ : Nat) (queue : Option Nat) : Bool :=
  let p := s.port port
  match creditClass typ with
  | none => true
  | some cls =>
    decide (p.credits.getD cls 0 ≠ 0) &&
      (match queue.bind s.queueCtx with
       | none => true
       | some c =>
         let allot := ((s.context c).map fun x => x.credits.getD port 0).getD 0
         cls ≠ 0 || decide ((p.out.filter fun o => o.bind s.queueCtx = some c).length < allot))

/-- Spends the credit of a flit; EAV_CRED.MIN follows the fewest held (14 R395, R418). -/
def State.spend (s : State) (port typ : Nat) (queue : Option Nat) : State :=
  match creditClass typ with
  | none => s
  | some cls =>
    let p := s.port port
    let s := s.setPort port { p with
      credits := putAt p.credits cls (p.credits.getD cls 0 - 1)
      out := if cls = 0 then p.out ++ [queue] else p.out }
    s.setFld (Reg.eavCredMin port) (min (s.fld (Reg.eavCredMin port)) ((s.port port).credits.getD 0 0))

/-- A port can send its first waiting flit: it is UP, fewer than 1,024 are unacknowledged, and it holds the credit (14
R387, R395). -/
def State.canSend (s : State) (port : Nat) : Bool :=
  match (s.port port).waiting with
  | [] => false
  | w :: _ => decide (s.pstate port = 2 ∧ hasLinkLayer port = true ∧ (s.port port).unacked.length < 1024) &&
      s.hasCredit port w.typ w.queue

/-- The next hop in a direction crosses the dateline (14 R396). -/
def State.crosses (s : State) (axis : Nat) (plus : Bool) : Bool :=
  if plus then decide (coordOf s.ownCoord axis + 1 = s.extent axis)
  else decide (coordOf s.ownCoord axis = 0)

/-- A message that came by a port crossed the dateline of that port's axis on the hop it came by (14 R396). -/
def State.cameOver (s : State) (port : Nat) : Bool :=
  let a := portAxis port
  if portPlus port then decide (coordOf s.ownCoord a + 1 = s.extent a) else decide (coordOf s.ownCoord a = 0)

/-- The flit type in which a transit message, or an event message of the module's own, leaves on a port (14 R384, R396):
0x3 where the hop crosses the dateline, or where the message has crossed it before on this axis; else 0x2, or 0x4 for
an event record (DEDUCED, log entry 29). -/
def State.leavesAs (s : State) (port : Nat) (came : Option Nat) (m : Msg) : Nat :=
  let before := match came with
    | some c => decide (portAxis c = portAxis port) && (s.cameHigh c m || s.cameOver c)
    | none => false
  if before || s.crosses (portAxis port) (portPlus port) then 3 else if m.mtype = 5 then 4 else 2

/-- Puts a flit of the endpoint's data-link layer on the fibre, with the latest acknowledgement and a NAK that is due; its
six FEC bytes are 0 (14 R413). -/
def State.hostEmit (s : State) (port : Nat) (f : Flit) : State :=
  let p := s.port port
  (s.setPort port { p with nak := false }).deal port
    (fit 250 (Config.hostFlit f.seq ((p.expect + 1023) % 1024) p.nak f.payload) ++ List.replicate 6 0)

/-- The endpoint sends the next flit of its data-link layer on the host port that it uses, and holds it in its replay buffer
(14 R413, R415). -/
def State.hostTransmit (s : State) (port : Nat) : State :=
  if s.pstate port = 2 ∧ port = s.hostPort then
    let (v, s) := s.takeFree
    let p := s.port port
    let f : Flit := { seq := p.nextSeq, typ := 0, queue := none, payload := Config.hostTlps v }
    let s := s.setPort port { p with unacked := p.unacked ++ [f], nextSeq := (p.nextSeq + 1) % 1024 }
    s.hostEmit port f
  else s

/-- A host port (14 R379). -/
def isHostPort (port : Nat) : Bool := decide (port = 28 ∨ port = 29)

/-- FLIT_TRANSMIT (14 R387, R395): a port that can sends what waits first, packed into the next flit in sequence, and holds
it; the buffers of the messages in transit that have left are returned. A host port sends its own flits (R413). -/
def execFlitTransmit (port : Nat) (s : State) : Host.Outcome State Fault Refusal :=
  .next
    (if isHostPort port then s.hostTransmit port
    else match (s.port port).waiting with
      | [] => s
      | w :: _ =>
        if s.canSend port then
          let (bs, gone, rest) := fillFlit 240 w.typ w.queue (s.port port).waiting
          let s := s.spend port w.typ w.queue
          let p := s.port port
          let f : Flit := { seq := p.nextSeq, typ := w.typ, queue := w.queue, payload := bs }
          let s := s.setPort port { p with
            waiting := rest, unacked := p.unacked ++ [f], nextSeq := (p.nextSeq + 1) % 4096 }
          let s := s.emit port f.seq f.typ f.payload
          gone.foldl (fun (s : State) x => s.leaveMsg x.1 x.2) s
        else s)

/-- An ACK frees the flits up to it (14 R387). -/
def State.ackUpTo (s : State) (port ack : Nat) : State :=
  let p := s.port port
  match p.unacked.findIdx? fun f => decide (f.seq = ack) with
  | some i => s.setPort port { p with unacked := p.unacked.drop (i + 1) }
  | none => s

/-- Puts every unacknowledged flit on the fibre again, in order (14 R386, R391, R415). -/
def State.resend (s : State) (port : Nat) : State :=
  (s.port port).unacked.foldl (fun (s : State) f =>
    if isHostPort port then s.hostEmit port f else s.emit port f.seq f.typ f.payload) s

/-- A NAK: every flit from ACK + 1 is sent again (14 R386). -/
def State.nakEffect (s : State) (port ack : Nat) : State :=
  ((s.ackUpTo port ack).bump (Reg.eavRetryNak port) 1).resend port

/-- Credits come back (14 R395): those that an abort has restored before are not restored again, and are taken to come
first (12 R341; log entry 114); then the longest outstanding flits'. A port never holds more than the pool. -/
def State.creditBack (s : State) (port cls n : Nat) : State :=
  let p := s.port port
  let known := if cls = 0 then min n p.early else 0
  s.setPort port { p with
    credits := putAt p.credits cls (min (pool cls) (p.credits.getD cls 0 + (n - known)))
    early := p.early - known
    out := if cls = 0 then p.out.drop (n - known) else p.out }

/-- What bytes in flits come to (14 R384, R385): the messages that are whole, what is left of the last one with the flits
that hold it, and the bytes that fill up a flit, where a header of type 0 is filling. -/
structure Cut where
  msgs    : List InMsg
  rest    : List Byte
  parts   : List (Nat × Nat)
  filling : List (Nat × Nat)
deriving DecidableEq, Repr

/-- Cuts bytes, held by flits, into messages. -/
def cutMsgs (fuel : Nat) (bs : List Byte) (parts : List (Nat × Nat)) : Cut :=
  match fuel with
  | 0 => { msgs := [], rest := bs, parts := parts, filling := [] }
  | n + 1 =>
    let size := 16 + bits (le bs 12 2) 0 15
    if (if bs.length < 16 then bs.all fun b => decide (b = 0) else decide (bits (le bs 0 1) 0 4 = 0)) then
      { msgs := [], rest := [], parts := [], filling := parts }
    else if bs.length < 16 ∨ bs.length < size then { msgs := [], rest := bs, parts := parts, filling := [] }
    else
      let (mine, others) := takeParts size parts
      let c := cutMsgs n (bs.drop size) others
      { c with msgs := { bytes := bs.take size, parts := mine } :: c.msgs }

/-- The receiver of a port meets a sequenced flit (14 R386, R393): in order it is accepted, a voided
one ending the message it lies in; out of order it is dropped and NAK is due. -/
def State.acceptSeq (s : State) (port seq typ : Nat) (payload : List Byte) : State :=
  let p := s.port port
  if seq ≠ p.expect then s.setPort port { p with nak := true }
  else
    let next := (p.expect + 1) % 4096
    match creditClass typ with
    | none => State.dropPart (s.setPort port { p with expect := next }) port
    | some cls =>
      let bs := p.partMsg ++ payload
      let c := cutMsgs bs.length bs (p.partIn ++ [(p.flitNo, payload.length)])
      State.freeParts (s.setPort port { p with
        expect := next, partMsg := c.rest, partIn := c.parts, inMsgs := p.inMsgs ++ c.msgs
        inFlits := p.inFlits ++ [{ no := p.flitNo, cls := cls, left := payload.length }]
        flitNo := p.flitNo + 1 }) port c.filling

/-- Both ends of a port move the traffic of a lane in use to the spare lane that trained (14 R382, R419). -/
def State.spareLane (s : State) (port lane : Nat) : State :=
  let used := lanesOf (s.fld (Reg.eavStateLanes port))
  let bad := lanesOf (s.port port).bad
  match (List.range 9).find? fun l => decide (l ∉ used ∧ l ∉ bad) with
  | none => s
  | some x =>
    let p := s.port port
    let s := s.setPort port { p with bad := laneMask (lane :: (bad.filter fun l => l ≠ lane)) }
    let s := s.setFld (Reg.eavStateLanes port) (laneMask (x :: used.filter fun l => l ≠ lane))
    let s : State := { s with reliab := { s.reliab with
      sparedPorts := s.reliab.sparedPorts ++ [(port, lane)] } }
    (s.setFld (Reg.eavStateSpared port) lane).raise (srcPort port) 0x7 0x04 (port + lane * 2 ^ 5)

/-- A port can move a lane's traffic: it is UP, the lane is in use, and a spare that trained is left. -/
def State.canSpare (s : State) (port lane : Nat) : Bool :=
  let used := lanesOf (s.fld (Reg.eavStateLanes port))
  decide (s.pstate port = 2 ∧ lane ∈ used) &&
    (List.range 9).any fun l => decide (l ∉ used ∧ l ∉ lanesOf (s.port port).bad)

/-- A control flit asks for the spare of a lane: its payload is that of such a request (14 R382). Identities and beacons
arrive by their own rows. -/
def State.controlFlit (s : State) (port : Nat) (payload : List Byte) : State :=
  match (List.range 9).find? fun l => decide (fit 240 (Config.controlPayload 0 [l]) = payload) with
  | some lane => if s.canSpare port lane then s.spareLane port lane else s
  | none => s

/-- The endpoint meets a flit of its data-link layer, whose FEC bytes it ignores (14 R413): an acknowledgement frees its replay buffer, and what it asks
for is sent again; the next in sequence is accepted. -/
def State.hostReceive (s : State) (port : Nat) (flit : List Byte) : State :=
  let flit := flit.take 250
  let s := match Config.hostFlitAck flit with
    | none => s
    | some (ack, again) =>
      let p := s.port port
      let s := match p.unacked.findIdx? fun f => decide (f.seq = ack) with
        | some i => s.setPort port { p with unacked := p.unacked.drop (i + 1) }
        | none => s
      if again then s.resend port else s
  match Config.hostFlitSeq flit with
  | none => s
  | some seq =>
    let p := s.port port
    if seq = p.expect then s.setPort port { p with expect := (p.expect + 1) % 1024 }
    else s.setPort port { p with nak := true }

/-- FLIT_RECEIVE (14 R381, R382, R384, R386, R413): a flit of 256 bytes arrives on an UP port, with the symbol errors of
the codewords that carry it and of the others that came since the last flit. At most 15 errors of one are corrected. The
messages that it completes arrive by their own rows. -/
def execFlitReceive (port : Nat) (flit : List Byte) (own others : List Nat) (s : State) :
    Host.Outcome State Fault Refusal :=
  let words := own ++ others
  let lost := decide (flit.length ≠ 256) || own.any fun c => decide (15 < c)
  .next
    (if s.pstate port ≠ 2 then s
    else
      let s := s.bump (Reg.eavFecCorr port) (words.filter fun c => decide (1 ≤ c ∧ c ≤ 15)).length
      let s := s.bump (Reg.eavFecUncorr port) (words.filter fun c => decide (15 < c)).length
      if isHostPort port then
        (if lost || !Config.hostFlitGood (flit.take 250) then s.setPort port { s.port port with nak := true }
         else if port = s.hostPort then s.hostReceive port flit else s)
      else if lost ∨ crc64 (flit.take 248) ≠ le flit 248 8 then
        s.setPort port { s.port port with nak := true }
      else
        let typ := bits (le flit 0 2) 12 4
        let ack := bits (le flit 2 2) 0 12
        let payload := (flit.drop 8).take 240
        let s := if bits (le flit 2 2) 12 1 = 1 then s.nakEffect port ack else s.ackUpTo port ack
        let s := s.creditBack port (bits (le flit 4 2) 11 2) (bits (le flit 4 2) 0 11)
        if typ = 15 then s.controlFlit port payload
        else if typ ∈ [1, 2, 3, 4, 8] then s.acceptSeq port (bits (le flit 0 2) 0 12) typ payload
        else s)

/-- NAK_RECEIVE (14 R386). -/
def execNakReceive (port ack : Nat) (s : State) : Host.Outcome State Fault Refusal :=
  .next (if s.pstate port = 2 ∧ hasLinkLayer port = true then s.nakEffect port ack else s)

/-- NULL_FLIT (14 R386): an UP port that has no flit to send, or may send none, sends a null flit with its ACK, NAK and
credits. -/
def execNullFlit (port : Nat) (s : State) : Host.Outcome State Fault Refusal :=
  .next (if s.pstate port = 2 ∧ hasLinkLayer port = true ∧ s.canSend port = false then
      s.emit port 0 0 []
    else s)

/-- VOIDED_FLIT (14 R393). -/
def execVoidedFlit (port seq : Nat) (s : State) : Host.Outcome State Fault Refusal :=
  .next (if s.pstate port = 2 ∧ hasLinkLayer port = true then s.acceptSeq port seq 8 [] else s)

/-! ### Port states -/

/-- An event of a port, class 0x7 (14 R419). -/
def State.portEvent (s : State) (port num rest : Nat) : State :=
  s.raise (srcPort port) 0x7 num (port + rest * 2 ^ 5)

/-- An UP port goes dark and enters REPLAY (14 R389): causes 0 lanes, 1 lock, 2 ACK. -/
def State.portDark (s : State) (port cause : Nat) : State :=
  if s.pstate port = 2 then
    ((s.setFld (Reg.eavStateState port) 3).bump (Reg.eavRetryDark port) 1).portEvent port 0x02 cause
  else s

/-- PORT_DARK (14 R389). -/
def execPortDark (port cause : Nat) (s : State) : Host.Outcome State Fault Refusal :=
  .next (s.portDark port cause)

/-- ACK_TIMEOUT (14 R389): no valid ACK for 10 µs on a port that carries the link layer. -/
def execAckTimeout (port : Nat) (s : State) : Host.Outcome State Fault Refusal :=
  .next (if hasLinkLayer port then s.portDark port 2 else s)

/-- Sends a control flit: neither sequenced nor held, with the latest ACK (14 R384, R387). -/
def State.control (s : State) (port kind : Nat) (fields : List Nat) : State :=
  s.deal port (flitBytes 0 15 ((s.port port).expect + 4095) 0 0 0 (Config.controlPayload kind fields))

/-- LANE_SPARE_REQUEST (14 R382, R419): the receiver asks the far end in a control flit, and moves its end. Nothing happens
without a spare that trained. -/
def execLaneSpareRequest (port lane : Nat) (s : State) : Host.Outcome State Fault Refusal :=
  .next
    (if s.canSpare port lane then
      (if hasLinkLayer port then s.control port 0 [lane] else s).spareLane port lane
    else s)

/-- The laser source unit of a port is lit (01 R24, R25). -/
def State.lit (s : State) (port : Nat) : Bool := bits (s.fld Reg.flIlkLit) (port / 8) 1 = 1

/-- The image marks a host port in use: its CASCADE section may mark one unused, but never the one that the endpoint
uses (14 R379, R416; DEDUCED, log entry 115). -/
def State.hostMarked (s : State) (port : Nat) : Bool :=
  match s.image.bind Image.cascade with
  | none => true
  | some c => decide (bits c.useMask port 1 = 1 ∨ port = s.hostPort)

/-- A port that may train: the image marks it in use, or it is a host port that a lock without
FAILOVER has not set OFF (14 R379, R388, R416). -/
def State.inUse (s : State) (port : Nat) : Bool :=
  if isHostPort port then
    s.hostMarked port && (!s.flag Reg.kpFeatstatLocked || s.agreed 3 2 || decide (port = s.hostPort))
  else decide (s.fld (Reg.eavStateUse port) ≠ 7)

/-- TRAINING_START (14 R380, R383, R390): light is there on the lanes of the mask. The eight lowest lanes
that train carry traffic. OFF, DOWN and REFUSED become TRAINING; a port in REPLAY stays there. -/
def execTrainingStart (port lanes rtt : Nat) (s : State) : Host.Outcome State Fault Refusal :=
  let trained := lanesOf lanes
  let st := s.pstate port
  .next
    (if s.inUse port && s.lit port && decide (8 ≤ trained.length ∧ st ∈ [0, 1, 3, 4, 5]) then
      let p := s.port port
      let s := s.setPort port { p with
        bad := laneMask ((List.range 9).filter fun l => decide (l ∉ trained))
        nextLane := 0
        before := if st = 1 then p.before else st }
      let s := (s.setFld (Reg.eavStateLanes port) (laneMask (trained.take 8))).setFld
        (Reg.eavStateSpared port) 0xF
      let s := s.setFld (Reg.eavRttNs port) rtt
      let s := if isHostPort port then s.setFld (Reg.eavStateUse port) 4 else s
      if st = 3 then s else s.setFld (Reg.eavStateState port) 1
    else s)

/-- The agreed feature words (16 R436). -/
def State.agreedWords (s : State) : List Nat :=
  (List.range 4).map fun w =>
    if s.flag Reg.kpFeatstatLocked then
      (List.range 4).foldl (fun n j => n + s.fld (Reg.kpFeataccBits (4 * w + j)) * 2 ^ (32 * j)) 0
    else 0

/-- A port goes UP (14 R390, R391, R392): credits from the peer's identity flits, which EAV_CRED.MIN follows; from REPLAY
the retry buffer is sent again, else both ends start at SEQ 0 with empty retry buffers, and what waits is sent. On a
host port the endpoint's data-link layer goes on where it stood (R415). -/
def State.portUp (s : State) (port : Nat) (free : List Nat) : State :=
  let p := s.port port
  let old := if s.pstate port = 3 then 3 else p.before
  let s :=
    if s.pstate port = 3 then
      s.setPort port { p with
        credits := (List.range 3).map fun i => free.getD i 0
        owed := [0, 0, 0]
        early := 0
        out := p.out.drop (p.out.length - (768 - free.getD 0 0)) }
    else if isHostPort port then s.setPort port { p with linked := decide (port = s.hostPort) }
    else
      s.setPort port { p with
        nextSeq := 0, expect := 0, unacked := [], partMsg := [], partIn := [], nak := false,
        owed := [0, 0, 0], out := [], early := 0,
        credits := (List.range 3).map fun i => free.getD i 0 }
  let s := s.setFld (Reg.eavCredMin port) (min (s.fld (Reg.eavCredMin port)) ((s.port port).credits.getD 0 0))
  let replay := decide (s.pstate port = 3 ∨ port = s.hostPort)
  let s := (s.setFld (Reg.eavStateState port) 2).portEvent port 0x01 old
  if replay then s.resend port else s

/-- The free buffer of each credit class (14 R390, R395). -/
def State.freeBuffer (s : State) (port : Nat) : List Nat :=
  (List.range 3).map fun i => pool i - ((s.port port).inFlits.filter fun f => decide (f.cls = i)).length

/-- What a port's identity control flit carries (14 R390). -/
def State.identity (s : State) (port : Nat) : List Nat :=
  [s.ownCoord, port] ++ s.agreedWords ++ s.freeBuffer port

/-- IDENTITY_EXCHANGE (14 R390, R391, R397, R398): a port in TRAINING or REPLAY sends its identity, and hears its far
end. An axis port checks the peer's coordinates and port, every port with the link layer the feature words; a
host port has no identity check (14 R413). -/
def execIdentityExchange (port : Nat) (peer : Identity) (s : State) : Host.Outcome State Fault Refusal :=
  let wired := !isAxisPort port ||
    decide (peer.coord = s.neighbour (portAxis port) (portPlus port) ∧ peer.port = farPort port)
  let equal := !hasLinkLayer port || decide (peer.feats = s.agreedWords)
  .next
    (if s.pstate port = 1 ∨ s.pstate port = 3 then
      let s := if s.pstate port = 1 then s.dropPart port else s
      let s :=
        if hasLinkLayer port then
          (((s.control port 1 (s.identity port)).setFld (Reg.eavPeerCoord port) peer.coord).setFld (Reg.eavPeerPort port) peer.port).setFld
            (Reg.eavPeerValid port) 1
        else s
      if wired && equal then s.portUp port peer.free
      else
        let s := s.setFld (Reg.eavStateState port) 5
        let s := if wired then s else s.portEvent port 0x05 peer.port
        if equal then s else s.portEvent port 0x06 0
    else s)

/-! ### Transfers and tags -/

/-- An index that a port may allocate: no live transfer, and no quarantine (14 R404, R406). -/
def State.tagFree (s : State) (port idx : Nat) : Bool :=
  match (s.port port).tags.find? fun t => t.1 = idx with
  | none => true
  | some (_, t) => t.live.isNone && decide (t.until_ ≤ s.course.count.toNat)

/-- An entry of a port's tag table. -/
def State.tagEntry (s : State) (port idx : Nat) : TagEntry :=
  (((s.port port).tags.find? fun t => t.1 = idx).map Prod.snd).getD { epoch := 0, live := none, until_ := 0 }

/-- Replaces an entry of a port's tag table. -/
def State.setTag (s : State) (port idx : Nat) (t : TagEntry) : State :=
  let p := s.port port
  s.setPort port { p with tags := (p.tags.filter fun x => x.1 ≠ idx) ++ [(idx, t)] }

/-- Allocates a tag for a transfer of a queue's task, among the indices that lead to entry `e` of a
direction with `k` usable ports; the epoch advances modulo 16 (14 R399, R404). -/
def State.allocTag (s : State) (port e k queue : Nat) : Option (Nat × State) :=
  ((List.range 4096).find? fun i => decide (i % k = e) && s.tagFree port i).map fun i =>
    let ep := ((s.tagEntry port i).epoch + 1) % 16
    (i + ep * 4096, s.setTag port i { epoch := ep, live := some queue, until_ := 0 })

/-- A tag names a live transfer of a port (14 R405). -/
def State.tagLive (s : State) (port tag : Nat) : Bool :=
  let t := s.tagEntry port (tag % 4096)
  t.live.isSome && decide (t.epoch = tag / 4096 % 16)

/-- The transfer of a tag ends: the index is free, and the task that started it waits for one fewer
(12 R341). -/
def State.endTransfer (s : State) (port tag : Nat) : State :=
  let t := s.tagEntry port (tag % 4096)
  let s := s.setTag port (tag % 4096) { t with live := none }
  { s with bays := s.bays.map fun e => (e.1, { e.2 with
      running := e.2.running.map fun r => { r with tags := r.tags.filter fun x => x ≠ (port, tag) } }) }

/-- COMPLETION (14 R405). The message leaves its buffer (14 R395; log entry 29). -/
def execCompletion (port : Nat) (m : Msg) (s : State) : Host.Outcome State Fault Refusal :=
  let tag := m.tag
  let s := s.leaveMsg port m
  .next (if s.tagLive port tag then s.endTransfer port tag else s.bump (Reg.eavTagLate port) 1)

/-- TAG_QUARANTINE_END (14 R406): 1,024 courses after the voiding. -/
def execTagQuarantineEnd (port idx : Nat) (s : State) : Host.Outcome State Fault Refusal :=
  let t := s.tagEntry port idx
  .next (if t.until_ ≠ 0 ∧ t.until_ ≤ s.course.count.toNat then s.setTag port idx { t with until_ := 0 }
    else s)

/-- The flits of a queue's task that wait or stand in the retry buffer, not voided yet. -/
def Port.ofQueue (p : Port) (queue : Nat) : List Flit :=
  p.unacked.filter fun f => decide (f.queue = some queue ∧ f.typ ≠ 8)

/-- A port voids the transfers of a queue's task (12 R341, 14 R393, R406): what waits is discarded, flits in the retry
buffer become voided flits, the tags are quarantined, and every credit that the task's flits spent is back (12 R343),
those of acknowledged flits before the far end returns them (log entry 114). -/
def State.voidQueue (s : State) (port queue : Nat) : State :=
  let p := s.port port
  let mine := p.ofQueue queue
  let back (cls : Nat) : Nat := (mine.filter fun f => decide (creditClass f.typ = some cls)).length
  let spent := (p.out.filter fun o => decide (o = some queue)).length
  let until_ := s.course.count.toNat + 1024
  let s := s.setPort port { p with
    waiting := p.waiting.filter fun f => f.queue ≠ some queue
    unacked := p.unacked.map fun f =>
      if f.queue = some queue then { f with typ := 8, payload := [] } else f
    credits := (List.range 3).map fun i => min (pool i) (p.credits.getD i 0 + if i = 0 then spent else back i)
    early := p.early + (spent - back 0)
    out := p.out.filter fun o => decide (o ≠ some queue)
    tags := p.tags.map fun t =>
      if t.2.live = some queue then (t.1, { t.2 with live := none, until_ := until_ }) else t }
  s.bump (Reg.eavTagVoid port) mine.length

/-- No credit of a queue's tasks is outstanding, and no flit of them waits (12 R341). -/
def State.creditsHome (s : State) (queue : Nat) : Bool :=
  s.ports.all fun e => !e.2.out.contains (some queue) && !(e.2.waiting.any fun f => decide (f.queue = some queue))

/-! ### Messages -/

/-- COLLSEQ that a context's next collective on an axis will carry (14 R412). -/
def State.nextColl (s : State) (ctx axis : Nat) : Nat := Store.get s.collseq (4 * ctx + axis) 0

/-- A task is a SCOPE 0x2 REDUCE of a context on an axis. -/
def State.collTask (s : State) (ctx axis : Nat) (t : Task) : Bool :=
  decide (s.queueCtx t.queue = some ctx ∧ dOp t.desc = opReduce ∧ redScope t.desc = 2 ∧ redAxis t.desc = axis)

/-- A SCOPE 0x2 REDUCE of a context with this COLLSEQ still takes pieces on an axis: it runs, or was aborted and will run
again with its number (15 R428). -/
def State.collRuns (s : State) (ctx axis collseq : Nat) : Bool :=
  let again (t : Task) : Bool := s.collTask ctx axis t && decide (t.coll = some collseq)
  (s.bays.any fun e =>
    (e.2.running.any fun r => r.waiting && s.collTask ctx axis r.task && decide (r.coll = some collseq)) ||
      e.2.aborted.any (fun x => again x.task) || e.2.selected.any again) ||
    s.queues.any fun e => e.2.rerun.any again

/-- PIECE (14 R411, R412): held for the collective that the queues of its context run or will run next
on that axis, else discarded with its credits returned. -/
def execPiece (port : Nat) (m : Msg) (s : State) : Host.Outcome State Fault Refusal :=
  let axis := portAxis port
  .next
    (if !s.up || !isAxisPort port || decide (m.dest ≠ s.ownCoord) then s
    else if (s.context m.ctx).isSome &&
        (decide (s.nextColl m.ctx axis = m.collseq) || s.collRuns m.ctx axis m.collseq) then
      { s with held := s.held ++ [{ port := port, msg := m, spent := false }] }
    else (s.leaveMsg port m).portEvent port 0x09 (m.collseq % 2 ^ 16))

/-- The stream window of port 30 or 31 that a message names: TAG selects the window, whose context is
the message's, and the bytes lie inside (14 R417; log entry 30). -/
def State.window (s : State) (port : Nat) (m : Msg) (n : Nat) : Option StreamWindow :=
  match s.image.bind fun i => i.cascade with
  | none => none
  | some c =>
    match (c.windows.filter fun w => w.port = port)[m.tag % 4096]? with
    | none => none
    | some w => if w.ctx = m.ctx ∧ w.base + m.offset + n ≤ w.limit + 1 then some w else none

/-- A stream message outside every window (14 R417, R419). -/
def State.refuseStream (s : State) (port : Nat) (m : Msg) : State :=
  s.portEvent port 0x0B (m.offset / 2 ^ 16 % 2 ^ 16)

/-- A stream message arrives: its buffer is returned, and it acts inside its window. -/
def State.streamMsg (s : State) (port : Nat) (m : Msg) (n : Nat) (act : State → Nat → State) : State :=
  if !s.up || decide (port ≠ 30 ∧ port ≠ 31) then s
  else
    let s := s.leaveMsg port m
    match s.window port m n with
    | some w => act s (w.base + m.offset)
    | none => s.refuseStream port m

/-- STREAM_WRITE (14 R417). -/
def execStreamWrite (port : Nat) (m : Msg) (s : State) : Host.Outcome State Fault Refusal :=
  .next (s.streamMsg port m m.len fun s a => s.memPut (srcPort port) a (fit m.len m.data))

/-- STREAM_COUNT (14 R417): an 8-byte count. -/
def execStreamCount (port : Nat) (m : Msg) (s : State) : Host.Outcome State Fault Refusal :=
  .next (s.streamMsg port m 8 fun s a => s.memPut (srcPort port) a (fit 8 m.data))

/-- STREAM_READ (14 R417): the bytes go back as a stream write. -/
def execStreamRead (port : Nat) (m : Msg) (s : State) : Host.Outcome State Fault Refusal :=
  .next (s.streamMsg port m m.len fun s a =>
    let data := s.peekN a m.len
    let s := (s.noteRead (srcPort port) a m.len).1
    s.sendMsg port 1 none { m with mtype := 3, dest := m.src, src := s.ownCoord, data := data })

/-- An entry of the cascade ring, or a discard (14 R402, R403, 02 R59). The buffer of 02 R61 is the event ring's alone: an
entry goes to memory at once, also while the stacks are in self-refresh (DESIGN CHOICE, log entry 151). -/
def State.cascadeEntry (s : State) (bytes : List Byte) (coord : Nat) : State :=
  let w := s.fld Reg.evtCwriteIndex
  let size := 2 ^ s.fld Reg.evtCsizeLog2
  if s.flag Reg.evtCtlCen && decide ((w + 2 ^ 32 - s.fld Reg.evtCreadIndex) % 2 ^ 32 < size) then
    let base := (s.fld Reg.evtCbaseAddrLo + s.fld Reg.evtCbaseHiAddrHi * 2 ^ 32) / 4096 * 4096
    (s.memPut ⟨30, 3⟩ (base + w % size * 32)
      (fit 16 bytes ++ toLe 2 coord ++ List.replicate 14 0)).step1 Reg.evtCwriteIndex
  else s.bump Reg.evtClostCount 1

/-- EVENT_MESSAGE (14 R402, R403): the ridge writes a member's record into the cascade ring. A message that reaches its
DEST leaves the receiving buffer, whatever the module's role (14 R395; DEDUCED, log entry 127). -/
def execEventMessage (port : Nat) (m : Msg) (s : State) : Host.Outcome State Fault Refusal :=
  .next (if s.up && decide (m.dest = s.ownCoord) then
      let s := s.leaveMsg port m
      if s.fld Reg.kpBeaconRole = 1 then s.cascadeEntry m.data m.src else s
    else s)

/-- TRANSIT_FORWARD (14 R396, R399, R400): a message for another module goes to its next port, where it waits to be sent;
while none is UP it waits before it. Its buffer is returned when it has left. -/
def execTransitForward (port : Nat) (m : Msg) (s : State) : Host.Outcome State Fault Refusal :=
  let rest := s.inTransit.filter fun x => x ≠ (port, m)
  .next
    (if !s.up || !isAxisPort port || decide (m.dest = s.ownCoord) then s
    else match s.route (some port) m.dest m.tag with
      | some out =>
        if s.pstate out = 2 then
          State.sendVia { s with inTransit := rest } out (s.leavesAs out (some port) m) none (some port) m
        else { s with inTransit := rest ++ [(port, m)] }
      | none => { s with inTransit := rest ++ [(port, m)] })

/-- A message in transit that waits on an out port, none of it sent. -/
def Wait.holds (w : Wait) (port : Nat) (m : Msg) : Bool :=
  decide (w.via = some (port, m) ∧ w.bytes.length = msgSize m)

/-- TRANSIT_TIMEOUT (14 R400): a message that could not leave within 1 ms is discarded, and its credits
are returned. -/
def execTransitTimeout (port : Nat) (m : Msg) (s : State) : Host.Outcome State Fault Refusal :=
  .next
    (if (port, m) ∈ s.inTransit then
      State.leaveMsg { s with inTransit := s.inTransit.filter fun x => x ≠ (port, m) } port m
    else match (List.range 28).find? fun o => (s.port o).waiting.any fun w => w.holds port m with
      | some o =>
        let p := s.port o
        (s.setPort o { p with waiting := p.waiting.filter fun w => !w.holds port m }).leaveMsg port m
      | none => s)

end Sys2Proof.Machine
end

