-- ==== Sys2Proof/Machine/Memory.lean ====
section
/-! DEFINITION. The memory system's own commands: BAR2, the Loft, the Underlay and the stacks
(01 R31 to R33, 10). -/

namespace Sys2Proof.Machine

/-! ### BAR2 -/

/-- The module address of a BAR2 offset (01 R31). -/
def State.bar2Addr (s : State) (off : Nat) : Nat := s.fld Reg.kpApertureBase * 2 ^ 32 + off

/-- BAR2_READ (01 R33, 18 R490): module memory, marked poisoned on an uncorrectable sector; all ones
and a die-unpowered event in Dormer-2. -/
def execBar2Read (off len : Nat) (s : State) : Host.Outcome State Fault Refusal :=
  .next
    (if !s.reach .host then s
    else if s.transit.diesOff then
      { s.accessEvent .host 0x09 off with resp := .memory (List.replicate len 0xFF) false }
    else
      let a := s.bar2Addr off
      let data := s.peekN a len
      let (s, bad) := s.noteRead (srcPath .host) a len
      { s with resp := .memory data bad })

/-- BAR2_WRITE (01 R32, 10 R277, 18 R490): the enabled bytes enter the Underlay; discarded with a
die-unpowered event in Dormer-2. -/
def execBar2Write (off : Nat) (data : List (Option Byte)) (s : State) : Host.Outcome State Fault Refusal :=
  .next
    (if !s.reach .host then s
    else if s.transit.diesOff then s.accessEvent .host 0x09 off
    else s.memWrite (srcPath .host) (s.bar2Addr off) data)

/-! ### The Loft -/

/-- Set and tag of an address's line (10 R265). -/
def loftPlace (a : Nat) : Nat × Nat :=
  (bits a 7 15 ^^^ bits a 22 15, bits a 22 18)

/-- The Loft's keep window of a die that holds an address (10 R272). -/
def State.loftKept (s : State) (die a : Nat) : Bool :=
  (List.range 4).any fun w =>
    let base := s.fld (Reg.loftKeepBase die w) + 2 ^ 32 * s.fld (Reg.loftKeepBaseHi die w)
    let lim := s.fld (Reg.loftKeepLimit die w) + 2 ^ 32 * s.fld (Reg.loftKeepLimitHi die w)
    decide (lim ≠ 0 ∧ base ≤ a ∧ a ≤ lim)

/-- The line of a die's Loft that holds an address. -/
def State.loftLine (s : State) (die a : Nat) : Option LoftLine :=
  let (set, tag) := loftPlace a
  (s.loft.find? fun e => decide (e.1 = die ∧ e.2.set = set ∧ e.2.tag = tag)).map Prod.snd

/-- Pseudo-LRU bits of a set after an access to a way: the four tree nodes on its path point away
from it. Node k of a level of 2^j nodes is bit 2^j - 1 + k (10 R265; log entry 28). -/
def plruTouch (tree way : Nat) : Nat :=
  (List.range 4).foldl (fun t j =>
    putBits t (2 ^ j - 1 + way / 2 ^ (4 - j)) 1 (1 - bits way (3 - j) 1)) tree

/-- The way the pseudo-LRU bits point to. -/
def plruVictim (tree : Nat) : Nat :=
  (List.range 4).foldl (fun w j => 2 * w + bits tree (2 ^ j - 1 + w) 1) 0

/-- The way that a new line of a set takes: the lowest that holds none, else by pseudo-LRU order. -/
def State.loftVictim (s : State) (die set : Nat) : Nat :=
  let used := (s.loft.filter fun e => decide (e.1 = die ∧ e.2.set = set)).map fun e => e.2.way
  match (List.range 16).find? fun w => decide (w ∉ used) with
  | some w => w
  | none => plruVictim (Store.get s.plru (die * 32768 + set) 0)

/-- Notes an access to a way of a set. -/
def State.loftTouch (s : State) (die set way : Nat) : State :=
  let k := die * 32768 + set
  { s with plru := Store.set s.plru k (plruTouch (Store.get s.plru k 0) way) 0 }

/-- Makes sure a line holds the tag: the line found, or a new one with no valid sector (10 R266). -/
def State.loftAlloc (s : State) (die a : Nat) : LoftLine × State :=
  match s.loftLine die a with
  | some l => (l, s)
  | none =>
    let (set, tag) := loftPlace a
    let way := s.loftVictim die set
    let l := { set := set, way := way, tag := tag, sectors := [none, none, none, none] }
    (l, { s with loft := (s.loft.filter fun e =>
      !decide (e.1 = die ∧ e.2.set = set ∧ e.2.way = way)) ++ [(die, l)] })

/-- Replaces a line of a die's Loft. -/
def State.loftPut (s : State) (die : Nat) (l : LoftLine) : State :=
  { s with loft := s.loft.map fun e =>
      if e.1 = die ∧ e.2.set = l.set ∧ e.2.way = l.way then (die, l) else e }

/-- One sector of a line that a read names: a hit, or a fetch from the stack (10 R266, R273). A
poisoned sector is passed on and stays invalid; a read that is refused enters no line (01 R23, 10 R291). -/
def State.loftSector (s : State) (die line k : Nat) : State × List Byte × Bool :=
  let a := line * 128 + 32 * k
  if memLimit ≤ a ∨ s.retired a = true then
    let bs := s.peekN a 32
    let (s, bad) := s.noteRead ⟨die, 9⟩ a 32
    (s, bs, bad)
  else
    let (l, s) := s.loftAlloc die a
    let s := s.loftTouch die l.set l.way
    match l.sectors.getD k none with
    | some bs => (s.bump (Reg.loftHitCount die) 1, bs, false)
    | none =>
      let bs := s.peekN a 32
      let (s, bad) := s.noteRead ⟨die, 9⟩ a 32
      let s := s.bump (Reg.loftMissCount die) 1
      if bad then (s, bs, true)
      else (s.loftPut die { l with sectors := putAt l.sectors k (some bs) }, bs, false)

/-- LOFT_READ (10 R266, R273, R286, R287): a bay of a die reads the sectors of a line whose mask bits are
set; `corrected` counts Loft words in which a single bit was corrected, and `bad` is the index of a word
found uncorrectable: it is counted, the Loft records the event, and the answer carries the mark. -/
def execLoftRead (die addr sectors corrected : Nat) (bad : Option Nat) (s : State) :
    Host.Outcome State Fault Refusal :=
  .next
    (if !s.dieRuns die || !decide (die < 24) then s
    else
      let s := s.bump (Reg.loftEccCorr die) corrected
      let s := match bad with
        | some word => (s.bump (Reg.loftEccUncorr die) 1).raise ⟨die, 9⟩ 0x3 0x03 (satTo 0xFFFFFF word)
        | none => s
      let named := (List.range 4).filter fun k => bits sectors k 1 = 1
      let (s, data, poisoned) := named.foldl (fun acc k =>
        let (s, bs, p) := State.loftSector acc.1 die (addr / 128) k
        (s, acc.2.1 ++ bs, acc.2.2 || p)) (s, ([] : List Byte), false)
      { s with resp := .memory data (poisoned || bad.isSome) })

/-- Invalidates every Loft line outside the keep windows, and restarts the order of every set (10 R265,
R269). -/
def State.loftInvalidate (s : State) : State :=
  { s with
    loft := s.loft.filter fun e =>
      s.loftKept e.1 ((e.2.tag * 2 ^ 15 + (e.2.set ^^^ e.2.tag % 2 ^ 15)) * 128)
    plru := [] }

/-! ### The Underlay -/

/-- A source is a bay of a Rafter die, or one of its other units, whose writes the die's Loft follows. -/
def isBaySrc (src : Source) : Bool := decide (src.die < 24 ∧ src.unit < 9)

/-- A unit's write to memory: into the Underlay, and into the valid sectors of the own die's Loft when
a bay writes (10 R267, R277). -/
def State.unitWrite (s : State) (src : Source) (a : Nat) (data : List (Option Byte)) : State :=
  let s := s.memWrite src a data
  if isBaySrc src then s.loftUpdate src.die a data else s

/-- A unit of the module can send a request: its die has power, and that of a Rafter bay or a Gable die its clocks (18
R487). -/
def State.unitRuns (s : State) (src : Source) : Bool :=
  s.powered src.die && (s.clocked || !(isBaySrc src || decide (src.die = 28 ∨ src.die = 29)))

/-- UNDERLAY_WRITE (10 R267, R273, R277, R278, R282). -/
def execUnderlayWrite (src : Source) (addr : Nat) (data : List (Option Byte)) (s : State) :
    Host.Outcome State Fault Refusal :=
  .next (if s.up && !s.transit.diesOff && s.unitRuns src then s.unitWrite src addr data else s)

/-- The pseudo-channel of a stack offset (10 R274). -/
def pseudoChannel (o : Nat) : Nat :=
  bits o 8 6 ^^^ bits o 14 6 ^^^ bits o 20 6 ^^^ bits o 26 6 ^^^ bits o 32 4

/-- The 16 bank groups and banks of a stack offset, as one number (10 R274). -/
def bankOf (o : Nat) : Nat :=
  (bits o 16 2 ^^^ bits o 20 2) * 4 + (bits o 18 2 ^^^ bits o 22 2)

/-- Where a stack offset lies in its stack (10 R274). -/
structure StackPlace where
  channel : Nat
  /-- Bank group and bank, as one number. -/
  bank    : Nat
  row     : Nat
  /-- Column within the 1 KiB row. -/
  column  : Nat
  /-- Byte in the burst. -/
  byte    : Nat
deriving DecidableEq, Repr

/-- The controller's map of a stack offset (10 R274). -/
def stackPlace (o : Nat) : StackPlace :=
  { channel := pseudoChannel o, bank := bankOf o, row := bits o 20 16,
    column := bits o 14 2 * 2 ^ 8 + bits o 0 8, byte := bits o 0 5 }

/-- The entries of one pseudo-channel of a stack, oldest first. -/
def State.channelEntries (s : State) (stack channel : Nat) : List UEntry :=
  s.under.filter fun e => decide (stackOf (e.line * 128) = stack ∧
    pseudoChannel (e.line * 128 % 2 ^ 36) = channel)

/-- Sectors of an entry with a masked byte. -/
def drainable (e : UEntry) : Nat :=
  ((List.range 4).filter fun k => ((e.data.drop (32 * k)).take 32).any Option.isSome).length

/-- UNDERLAY_DRAIN (10 R280, R281): a pseudo-channel is free for writes, and its oldest entry has
waited the given core cycles. With grouping off the oldest entry drains; with grouping on all of the
channel's entries drain when a condition of R281 holds. -/
def execUnderlayDrain (stack channel waited : Nat) (s : State) : Host.Outcome State Fault Refusal :=
  let d := stackDie stack
  let es := s.channelEntries stack channel
  let sectors := es.foldl (fun n e => n + drainable e) 0
  let turns := s.liveFld (Reg.undGroupBatch d) ≤ sectors ∨
    s.liveFld (Reg.undGroupAge d) * 64 ≤ waited ∨ s.liveFld (Reg.undGroupHigh d) ≤ s.occupancy stack
  .next
    (if s.liveFld (Reg.undGroupEn d) = 0 then
      (es.take 1).foldl (fun (s : State) e => s.drainEntry e) s
    else if turns then es.foldl (fun (s : State) e => s.drainEntry e) s
    else s)

/-- Drains every entry of a stack, oldest first (10 R283). -/
def State.drainStack (s : State) (stack : Nat) : State :=
  (s.under.filter fun e => decide (stackOf (e.line * 128) = stack)).foldl
    (fun (s : State) e => s.drainEntry e) s

/-- Drains every Underlay. -/
def State.drainAll (s : State) : State := s.under.foldl (fun (s : State) e => s.drainEntry e) s

/-! ### The stacks -/

/-- A corrected sector: counted, and its page pending when the page's corrected sectors of the
interval reach the threshold (10 R288, R290). -/
def State.correctedSector (s : State) (a : Nat) : State :=
  let d := stackDie (stackOf a)
  let s := (s.bump (Reg.hbmEccCorr d) 1).noteErr a
  let n := Store.get s.reliab.pageCorr (pageOf a) 0 + 1
  let s : State := { s with reliab := { s.reliab with
    pageCorr := Store.set s.reliab.pageCorr (pageOf a) n 0 } }
  if s.fld (Reg.hbmRetireThresh d) ≤ n then s.pendPage a else s

/-- STACK_READ (10 R275, R279, R288, R289, R291, 01 R23): the controller serves the read of one sector;
`ecc` is what its code finds. A sector already poisoned is uncorrectable. -/
def execStackRead (src : Source) (addr : Nat) (ecc : Ecc) (s : State) : Host.Outcome State Fault Refusal :=
  let a := addr / 32 * 32
  .next
    (if !s.up || s.transit.diesOff then s
    else
      let data := s.peekN a 32
      let s :=
        if memLimit ≤ a ∨ s.retired a then s
        else match ecc with
          | .clean => s
          | .corrected => if a ∈ s.poison then s else s.correctedSector a
          | .uncorrectable => s.setPoison a true
      let (s, bad) := s.noteRead src a 32
      { s with resp := .memory data bad })

/-- REFRESH (10 R276): refreshing keeps every byte; its bandwidth is timing alone. -/
def execRefresh (_stack : Nat) (s : State) : Host.Outcome State Fault Refusal := .next s

/-- REFRESH_RATE_CHANGE (10 R276, R293): a reading of the stack's sensor. -/
def execRefreshRateChange (stack degC : Nat) (s : State) : Host.Outcome State Fault Refusal :=
  let d := stackDie stack
  .next
    (if !s.powered d then s
    else
      let s := s.setFld (Reg.hbmTempDegc d) degC
      if !s.flag (Reg.hbmTempHot d) && decide (85 < degC) then
        (s.setFld (Reg.hbmTempHot d) 1).raise (srcCtl stack) 0x3 0x09 1
      else if s.flag (Reg.hbmTempHot d) && decide (degC ≤ 83) then
        (s.setFld (Reg.hbmTempHot d) 0).raise (srcCtl stack) 0x3 0x09 0
      else s)

end Sys2Proof.Machine
end

