-- ==== Sys2Proof/Machine/Flags.lean ====
section
/-! DEFINITION. The counters and flags that a task leaves: the counting registers of its bay, the IEEE
flags, the completion status word and the signalled peg (03 R90, 04 R116, R117, 06 R170, 09 R226,
R227). -/

namespace Sys2Proof.Machine

/-- Adds what a task counted to the counters of a bay (03 BAY_CVT0 and BAY_CVT1, 04 BAY_FAST0 and
BAY_FAST1, 06 BAY_ROWST0 and BAY_ROWST1, 08 BAY_ATTN0 and BAY_ATTN1). -/
def State.addCnt (s : State) (b : PBay) (c : Cnt) : State :=
  let s := s.bump (Reg.bayCvt0Sat b) c.cvtSat
  let s := s.bump (Reg.bayCvt0Nanz b) c.cvtNanz
  let s := s.bump (Reg.bayCvt1Flush b) c.cvtFlush
  let s := s.bump (Reg.bayFast0Flush b) c.fflush
  let s := s.bump (Reg.bayFast0Sat b) c.fsat
  let s := s.bump (Reg.bayFast1Nan b) c.fnan
  let s := s.bump (Reg.bayFast1Iovf b) c.iovf
  let s := s.bump (Reg.bayRowst0Clamp b) c.clamp
  let s := s.bump (Reg.bayRowst0Sumsat b) c.sumsat
  let s := s.bump (Reg.bayRowst1Varneg b) c.varneg
  let s := s.bump (Reg.bayRowst1Nanrow b) c.nanrow
  let s := s.bump (Reg.bayAttn0Skip b) c.skip
  s.bump (Reg.bayAttn1Run b) c.run

/-- Sets the IEEE flags of a STRICT task in BAY_SFLAGS (04 R116). -/
def State.addFlags (s : State) (b : PBay) (flags : Nat) : State :=
  let off := (Reg.baySflagsInexact b).off
  s.setReg off (s.reg off ||| BitVec.ofNat 32 (flags % 32))

/-- Places of the status bits (09 R226). -/
def stDone : Nat := 2 ^ 0
def stNoop : Nat := 2 ^ 1
def stRefused : Nat := 2 ^ 2
def stMalformed : Nat := 2 ^ 3
def stPageFault : Nat := 2 ^ 4
def stPoisoned : Nat := 2 ^ 5
def stSlipped : Nat := 2 ^ 6
def stRange : Nat := 2 ^ 7
def stEmpty : Nat := 2 ^ 8
def stSumsat : Nat := 2 ^ 9
def stVarneg : Nat := 2 ^ 10
def stQfull : Nat := 2 ^ 11

/-- A status bit if a condition holds. -/
def stIf (c : Bool) (bit : Nat) : Nat := if c then bit else 0

/-- The completion status (09 R226): its flags with the IEEE flags in bits 20 to 16, the die, the
physical bay and the cycles. -/
def statusWord (flags : Nat) (b : PBay) (cycles : Nat) : Nat :=
  flags % 2 ^ 21 + b.die % 32 * 2 ^ 21 + b.pbay % 16 * 2 ^ 26 + satTo 0xFFFFFFFF cycles * 2 ^ 32

/-- The lowest of the physical bays that formed a part of a task, as the status names it (09 R226); `b` is the
bay that selected it, for a task of no parts. -/
def statusBay (b : PBay) (r : Running) : PBay :=
  match r.sflags with
  | [] => b
  | p :: ps => ps.foldl (fun m q => if q.1.pbay < m.pbay then q.1 else m) p.1

/-- A bay writes the completion status when STATEN is 1 (09 R226, R227). -/
def State.writeStatus (s : State) (b : PBay) (t : Task) (flags cycles : Nat) : State :=
  if dStatEn t.desc then
    s.unitWrite (srcBay b) (dStatus t.desc) ((toLe 8 (statusWord flags b cycles)).map some)
  else s

/-- Adds SIGADD to SIGPEG when SIGEN is 1 (09 R222, 11 R307). -/
def State.signal (s : State) (b : PBay) (t : Task) : State :=
  if dSigEn t.desc then
    s.sendPeg (dSigPeg t.desc)
      { op := .add, value := BitVec.ofNat 32 (dSigAdd t.desc), die := b.die, ctx := (s.queueCtx t.queue).getD 0 }
  else s

/-- The statuses that end a task within its checks state the cycles they took, at most 32 (09 R230):
an open value (log entry 11). -/
def State.checkCycles (s : State) : Nat × State :=
  let (n, s) := s.takeFree
  (n % 33, s)

end Sys2Proof.Machine
end

