-- ==== Sys2Proof/Machine/Lath.lean ====
section
/-! DEFINITION. The banks of a Lath, and one core cycle of them: slot T with its priorities, slot P with its
contests, and the counters of refused requests (10 R261 to R264). -/

namespace Sys2Proof.Machine

/-- The bank of a Lath byte address (10 R261). -/
def lathBank (a : Nat) : Nat := (bits a 5 5 ^^^ bits a 10 5) ^^^ bits a 15 5

/-- The bank row of a Lath byte address (10 R261). -/
def lathRow (a : Nat) : Nat := bits a 10 12

/-- The sectors that requests name, each once. -/
def lathSectors (asks : List Nat) : List Nat := (asks.map fun a => a / 32 * 32).eraseDups

/-- What a requester came to in a slot. -/
structure Served where
  granted : List Nat
  /-- Banks taken in the slot, by it and by those before it. -/
  taken   : List Nat
  refused : Nat
deriving DecidableEq, Repr

/-- The requests of one requester in order, of which a limit and the banks taken before leave some (10 R263). -/
def serve (limit : Nat) (taken : List Nat) (asks : List Nat) : Served :=
  (lathSectors asks).foldl (fun (v : Served) a =>
    if v.granted.length < limit ∧ lathBank a ∉ v.taken then
      { v with granted := v.granted ++ [a], taken := lathBank a :: v.taken }
    else { v with refused := v.refused + 1 })
    { granted := [], taken := taken, refused := 0 }

/-- Slot T: the stationary path, then the gutter write path, then the feeder fetch engine (10 R263). -/
def slotT (q : LathAsks) (gutters : List Nat) : Served × Served :=
  let st := serve 8 [] q.station
  let gut := serve 8 st.taken gutters
  (gut, serve 16 gut.taken q.feed)

/-- How slot P stands while its banks are decided. -/
structure SlotP where
  fill       : Nat
  purlin     : Nat
  purlinLost : Bool
deriving DecidableEq, Repr

/-- One bank of slot P: a contest goes to the requester that lost the one before (10 R264). -/
def SlotP.bank (v : SlotP) (q : LathAsks) (k : Nat) : SlotP :=
  let f := (q.fill.any fun a => lathBank a = k) && decide (v.fill < 16)
  let p := (q.purlin.any fun a => lathBank a = k) && decide (v.purlin < 16)
  if f && p then
    if v.purlinLost then { v with purlin := v.purlin + 1, purlinLost := false }
    else { v with fill := v.fill + 1, purlinLost := true }
  else if f then { v with fill := v.fill + 1 }
  else if p then { v with purlin := v.purlin + 1 }
  else v

/-- Slot P: the banks in ascending order (DESIGN CHOICE where a cycle has several contests; log entry 98). -/
def slotP (q : LathAsks) (purlinLost : Bool) : SlotP :=
  (List.range 32).foldl (fun v k => v.bank q k) { fill := 0, purlin := 0, purlinLost := purlinLost }

/-- One core cycle of a bay's Lath banks: what is refused is counted, and the loser of the last contest is kept
(10 R263, R264, BAY_LATHC0 and BAY_LATHC1; log entry 98). -/
def State.lathCycle (s : State) (b : PBay) (q : LathAsks) (gutters : List Nat) : State :=
  let (gut, feed) := slotT q gutters
  let v := s.bay b
  let p := slotP q v.purlinLost
  let s := s.setBay b { v with purlinLost := p.purlinLost }
  let s := s.bump (Reg.bayLathc0Feed b) feed.refused
  let s := s.bump (Reg.bayLathc0Gut b) gut.refused
  let s := s.bump (Reg.bayLathc1Fill b) ((lathSectors q.fill).length - p.fill)
  s.bump (Reg.bayLathc1Purl b) ((lathSectors q.purlin).length - p.purlin)

end Sys2Proof.Machine
end

