-- ==== Sys2Proof/Machine/Gutter.lean ====
section
/-! DEFINITION. What leaves a bay: outputs on their way to memory or a Lath, the gutter write path, and the cycles of the
array of a bay with their counters (05 R130 to R133, R140, R145, 09 R227, 10 R261 to R264, R267, 17 R460). -/

namespace Sys2Proof.Machine

/-! ### Outputs -/

/-- Bytes of a granule of a Lath (17 R460). -/
def granule : Nat := 0x10000

/-- The granules that a write of a Lath touches. -/
def granulesOf (w : OutWrite) : List Nat :=
  (List.range ((w.addr + w.data.length - 1) / granule - w.addr / granule + 1)).map fun i => w.addr / granule + i

/-- Granules of a bay's Lath are written, and no longer stale (17 R460). -/
def State.freshen (s : State) (w : OutWrite) : State :=
  match w.space with
  | .mem => s
  | .lath x =>
    let v := s.bay x
    let left := v.stale.filter fun g => !(granulesOf w).contains g
    if v.stale.isEmpty then s else s.setBay x { v with stale := left }

/-- An output reaches memory or a Lath (05 R131, 09 R227, 10 R267). -/
def State.emitOut (s : State) (w : OutWrite) : State :=
  match w.space with
  | .mem => s.unitWrite (srcBay w.bay) w.addr w.data
  | .lath x => (s.lathWrite x w.addr w.data).freshen w

/-- Outputs of one bay that follow one another in the list and in a space leave as one write: a keep
window or a retired page records one event for it, not one for each element (DEDUCED, log entry 19). -/
def joinOuts (l : List OutWrite) : List OutWrite :=
  match l with
  | [] => []
  | w :: t =>
    match joinOuts t with
    | [] => [w]
    | x :: u =>
      if x.bay = w.bay ∧ x.space = w.space ∧ w.addr + w.data.length = x.addr then
        { w with data := w.data ++ x.data } :: u
      else w :: x :: u

/-! ### The gutter write path -/

/-- The output belongs to an entry of a bay's gutter. -/
def OutWrite.inEntry (w : OutWrite) (b : PBay) (column : Nat) (k : Nat × Nat) : Bool :=
  decide (w.bay = b ∧ w.entry = k) && w.gutters.contains column

/-- The outputs that wait for an entry of a gutter alone: what its write writes. -/
def entryOuts (b : PBay) (column : Nat) (k : Nat × Nat) (l : List OutWrite) : List OutWrite :=
  l.filter fun w => w.inEntry b column k && decide (w.gutters = [column])

/-- The outputs that are left once an entry of a gutter is gone. -/
def takeEntry (b : PBay) (column : Nat) (k : Nat × Nat) (l : List OutWrite) : List OutWrite :=
  l.filterMap fun w =>
    if w.inEntry b column k then
      (if w.gutters = [column] then none else some { w with gutters := w.gutters.erase column })
    else some w

/-- A running task makes its passes in a half of the array, of which the low one stands for the full array. -/
def Running.inHalf (r : Running) (half : Nat) : Bool := decide (r.half = half ∨ (r.half = 2 ∧ half = 0))

/-- The running task of a die, by bay, that has outputs in an entry of a gutter. -/
def State.entryTask (s : State) (b : PBay) (half column : Nat) (k : Nat × Nat) : Option (PBay × Nat × Running) :=
  (dieBays b.die).findSome? fun o =>
    (s.bay o).running.zipIdx.findSome? fun (r, i) =>
      if r.inHalf half && r.outs.any fun w => w.inEntry b column k then some (o, i, r) else none

/-- An entry of a gutter is written: its outputs leave their task (05 R131). Elements beyond the extents of the task
have none (09 R243). -/
def State.writeEntry (s : State) (b : PBay) (half column : Nat) (k : Nat × Nat) : State :=
  match s.entryTask b half column k with
  | none => s
  | some (o, i, r) =>
    let v := s.bay o
    let s := s.setBay o { v with running := (v.running.zipIdx).map fun (x, n) =>
      if n = i then { x with outs := takeEntry b column k x.outs } else x }
    (entryOuts b column k r.outs).foldl State.emitOut s

/-- The sectors of the Lath that an output is written to. -/
def OutWrite.sectors (w : OutWrite) : List Nat :=
  (List.range ((w.addr + w.data.length - 1) / 32 - w.addr / 32 + 1)).map fun i => (w.addr / 32 + i) * 32

/-- The sectors of a bay's Lath that an entry of a gutter is written to. -/
def State.entryAsks (s : State) (b : PBay) (half column : Nat) (k : Nat × Nat) : List Nat :=
  match s.entryTask b half column k with
  | none => []
  | some (_, _, r) => (entryOuts b column k r.outs).flatMap fun w => if w.space = .lath b then w.sectors else []

/-! ### Cycles of the array -/

/-- The freeze counters, BAY_FRZWHO and BAY_TRUSS.FROZEN for one cycle (05 R133). -/
def State.countFreeze (s : State) (b : PBay) (f : Freeze) : State :=
  let s := match f.dry with
    | some r => ((s.bump (Reg.bayFrzdryCount b) 1).setFld (Reg.bayFrzwhoRow b) r).setFld (Reg.bayFrzwhoRowv b) 1
    | none => s
  let s := match f.full with
    | some c => ((s.bump (Reg.bayFrzfullCount b) 1).setFld (Reg.bayFrzwhoCol b) c).setFld (Reg.bayFrzwhoColv b) 1
    | none => s
  (s.bump (Reg.bayFrztotCount b) (if f.frozen then 1 else 0)).setFlag (Reg.bayTrussFrozen b) f.frozen

/-- BAY_TRUSS as the passes in the array give it; TALLY and CLASS are 0 while no pass runs, BUSY and SPLIT once the gutters
are empty too (05 R145; DESIGN CHOICE, log entry 109). -/
def State.trussWord (s : State) (b : PBay) : State :=
  let t := (s.bay b).truss
  let s := (s.setFlag (Reg.bayTrussBusy b) (!t.idle)).setFlag (Reg.bayTrussSplit b) (!t.idle && t.split)
  (s.setFlag (Reg.bayTrussTally b) (t.running.any Pass.tally)).setFld (Reg.bayTrussClass b)
    ((t.running.map Pass.cls).getD 0)

/-- The fullest gutter of a bay's array, the lowest of several. -/
def Truss.fullest (t : Truss) : GutterPort :=
  let best := ([0, 1].flatMap fun h => (t.half h).gutters.zipIdx.map fun g => (h, g.2, g.1.length)).foldl
    (fun (m : Nat × Nat × Nat) x => if m.2.2 < x.2.2 then x else m) (0, 0, 0)
  ⟨best.1, best.2.1⟩

/-- The heads of the gutters with the sectors that they still ask for (05 R131, 10 R263): the given gutter first, then the
others from it on, low half before high (DESIGN CHOICE, log entry 98). -/
def State.headAsks (s : State) (b : PBay) (port : GutterPort) : List ((Nat × Nat) × List Nat) :=
  let t := (s.bay b).truss
  ((List.range 128).flatMap fun i => [port.half, 1 - port.half].map fun h => (h, (port.column + i) % 128)).filterMap
    fun (h, j) => (((t.half h).gutters.getD j []).head?).map fun e =>
      ((h, j), (s.entryAsks b h j (e.row, e.col)).filter fun a => !(t.half h).granted.contains (j, a))

/-- The sectors that the heads of a half have been granted by the end of a cycle. -/
def grantsOf (heads : List ((Nat × Nat) × List Nat)) (granted : List Nat) (half : Nat) : List (Nat × Nat) :=
  (heads.filter fun x => x.1.1 = half).flatMap fun x => (x.2.filter granted.contains).map fun a => (x.1.2, a)

/-- One cycle of the array of a bay with its Lath banks, beside the requests of `asks` (05 R131, 10 R262, R263): a head
keeps the sectors it is granted, and is written in the cycle in which the last is; one whose bank another has taken
asks in vain. -/
def State.arrayCycle (s : State) (b : PBay) (port : GutterPort) (asks : LathAsks) : State :=
  let t := (s.bay b).truss
  let all := s.headAsks b port
  let taken (h j : Nat) : Bool := t.heldBy h j
  let heads := all.filter fun x => !taken x.1.1 x.1.2
  let granted := (slotT asks (heads.flatMap Prod.snd)).1.granted
  let held (h j : Nat) : Bool :=
    all.any fun x => decide (x.1 = (h, j)) && (taken h j || x.2.any fun a => !granted.contains a)
  let s := s.lathCycle b asks (heads.flatMap Prod.snd)
  let s := s.bump (Reg.bayLathc0Gut b) (lathSectors ((all.filter fun x => taken x.1.1 x.1.2).flatMap Prod.snd)).length
  let s := s.countFreeze b t.freeze
  let keep (x : TrussHalf) (h : Nat) : TrussHalf := { x with granted := x.granted ++ grantsOf heads granted h }
  let t' : Truss := { t with low := keep t.low 0, high := keep t.high 1 }
  let s := s.setBay b { s.bay b with truss := t'.tick held }
  let s := (t.low.leaving (held 0)).foldl (fun (s : State) x => s.writeEntry b 0 x.1 (x.2.row, x.2.col)) s
  let s := (t.high.leaving (held 1)).foldl (fun (s : State) x => s.writeEntry b 1 x.1 (x.2.row, x.2.col)) s
  s.trussWord b

/-- A cycle in which nothing is known to ask for the banks but the gutters, the fullest first (log entry 98). -/
def State.arrayTick (s : State) (b : PBay) : State :=
  s.arrayCycle b (s.bay b).truss.fullest { station := [], feed := [], fill := [], purlin := [] }

/-- Cycles of the array of a bay until a condition on it holds, at most `fuel`. -/
def State.arrayRun (s : State) (b : PBay) (stop : Truss → Bool) (fuel : Nat) : State :=
  match fuel with
  | 0 => s
  | n + 1 => if stop (s.bay b).truss then s else (s.arrayTick b).arrayRun b stop n

/-- What a half holds ends in the array (05 R140, R145). -/
def State.emptyHalf (s : State) (b : PBay) (half : Nat) : State :=
  let v := s.bay b
  (s.setBay b { v with truss := v.truss.setHalf half TrussHalf.empty }).trussWord b

/-- The passes of a half run to their ends, and its results are written. -/
def State.drainHalf (s : State) (b : PBay) (half : Nat) : State :=
  let t := (s.bay b).truss
  s.arrayRun b (fun t => (t.half half).idle) t.horizon

/-- GUTTER_WRITE (05 R131, 10 R261 to R264): one core cycle of a bay, in which the heads of its gutters ask for their
banks beside the requests of `asks`. -/
def execGutterWrite (b : PBay) (port : GutterPort) (asks : LathAsks) (s : State) : Host.Outcome State Fault Refusal :=
  .next
    (if 8 < b.pbay ∨ 24 ≤ b.die ∨ 1 < port.half ∨ 128 ≤ port.column ∨ s.dieRuns b.die = false then s
    else s.arrayCycle b port asks)

end Sys2Proof.Machine
end

