-- ==== Sys2Proof/Machine/Fault.lean ====
section
/-! DEFINITION. Bay faults: detection, the abort of a task, preparation of the spare, isolation, loss,
and the return of aborted tasks to their queues (10 R287, 17 R455 to R462). -/

namespace Sys2Proof.Machine

/-- The granules that a range of a Lath touches; the stream-slot bytes are never stale (12 R338, 17
R460). -/
def granulesIn (off n : Nat) : List Nat :=
  let hi := min (off + n) 0x3FF000
  if off < hi then (List.range ((hi - 1) / granule - off / granule + 1)).map fun i => off / granule + i
  else []

/-- The occupant context of a physical bay (12 R325, R346). -/
def State.occupant (s : State) (b : PBay) : Option Nat :=
  if s.flag (Reg.baySchedOccv b) then some (s.fld (Reg.baySchedOcc b)) else none

/-- Makes a context the occupant of a bay. -/
def State.occupy (s : State) (b : PBay) (ctx : Option Nat) : State :=
  match ctx with
  | some c => (s.setFld (Reg.baySchedOcc b) c).setFld (Reg.baySchedOccv b) 1
  | none => (s.setFld (Reg.baySchedOcc b) 0).setFld (Reg.baySchedOccv b) 0

/-- How far a task of a queue lies behind its HEAD: the earliest lies farthest. -/
def behind (head : Nat) (t : Task) : Nat := (head + 2 ^ 32 - t.pos) % 2 ^ 32

/-- Puts a task in its place among those returned to its queue: ring order never changes (12 R329, 17 R461). -/
def insertTask (head : Nat) (t : Task) (l : List Task) : List Task :=
  match l with
  | [] => [t]
  | u :: r => if behind head u < behind head t then t :: u :: r else u :: insertTask head t r

/-- Returns tasks to their queues, ahead of every later task of the queue (12 R329, 17 R461). -/
def State.putBack (s : State) (ts : List Task) : State :=
  ts.foldl (fun (s : State) t =>
    let q := s.queue t.queue
    s.setQueue t.queue { q with rerun := insertTask q.head t q.rerun }) s

/-- Takes the tasks selected on a bay, but not started, that meet a test; they leave every bay of their groups. -/
def State.unselect (s : State) (b : PBay) (p : Task → Bool) : List Task × State :=
  let ts := (s.bay b).selected.filter p
  (ts, if ts.isEmpty then s else
    s.bays.foldl (fun (s : State) e =>
      let x : PBay := ⟨e.1 / 9, e.1 % 9⟩
      let v := s.bay x
      s.setBay x { v with selected := v.selected.filter fun t => !ts.contains t }) s)

/-- A bay reset (05 R145, 18 R485): the sub-window's registers return to their after-reset values, the
Lath is lost, and nothing is left in the bay. A bay that is powered down stays so. -/
def State.bayReset (s : State) (b : PBay) : State :=
  let off := (s.bay b).off
  let s := (s.unselect b fun _ => true).2
  let s := s.resetRegs fun o => decide (bayBase b ≤ o ∧ o < bayBase b + 0x10000)
  (s.lathClear b).setBay b { BayState.empty with off := off }

/-- Tasks that were selected on a bay and never started go back to their queues. -/
def State.releaseSelected (s : State) (b : PBay) : State :=
  let (ts, s) := s.unselect b fun _ => true
  s.putBack ts

/-- The bays that form a part of a running task. -/
def Running.bays (r : Running) : List PBay := (r.sflags.map Prod.fst).eraseDups

/-- What a task performs outside its bay has taken effect: of PEG, TIE and MEDIA tasks. -/
def Running.hasActed (r : Running) : Bool :=
  r.task.acted || decide (r.phase = 1 ∧ (dOp r.task.desc = opPeg ∨ dOp r.task.desc = opTie ∨ dOp r.task.desc = opMedia))

/-- Ports on which a running task's transfers run. -/
def portsOf (r : Running) : List Nat := (r.tags.map Prod.fst).eraseDups

/-- Ports that hold something of a queue's task: a live transfer, a flit, or a credit (12 R341, R343). -/
def State.portsWith (s : State) (queue : Nat) : List Nat :=
  (s.ports.filter fun e => e.2.out.contains (some queue) || (e.2.waiting.any fun w => decide (w.queue = some queue)) ||
    (e.2.unacked.any fun f => decide (f.queue = some queue)) || e.2.tags.any fun t => decide (t.2.live = some queue)).map
    Prod.fst

/-- A running task as one that bay `b` has aborted. -/
def Running.aborted (r : Running) (b : PBay) (cause : Nat) : Abort :=
  { task := { r.task with acted := r.hasActed, coll := r.coll }, cause := cause, overlaps := r.overlaps,
    ran := statusBay b r, slipped := r.slipped }

/-- A task is aborted (10 R287, 12 R339, R341, 17 R461): what it has not written is dropped, its
transfers are voided, nothing is signalled and its slot is not written back. It waits to return to the
head of its queue; later tasks of the queue that were selected and have not started return behind it. A
collective keeps its number (DEDUCED from 14 R412; log entry 32), and the pieces it has taken wait for its re-run (15 R428;
DESIGN CHOICE, log entry 143). What a PEG, TIE or MEDIA task has performed
stands, and its re-run does not perform it again (17 R463; log entry 39). Its half of each array that it used is
empty (05 R140). -/
def State.abortTask (s : State) (b : PBay) (r : Running) (cause : Nat) : State :=
  let s := r.bays.foldl (fun (s : State) x => s.emptyHalf x r.half) s
  let s : State := { s with held := s.held ++ r.taken.map fun (h : Held) => { h with spent := true } }
  let v := s.bay b
  let s := s.setBay b { v with
    running := v.running.filter fun x => x ≠ r, aborted := v.aborted ++ [r.aborted b cause] }
  let s := (s.portsWith r.task.queue).foldl (fun (s : State) p => s.voidQueue p r.task.queue) s
  s.bays.foldl (fun (s : State) e =>
    let (ts, s) := s.unselect ⟨e.1 / 9, e.1 % 9⟩ fun t => decide (t.queue = r.task.queue)
    s.putBack ts) s

/-- The spare physical bay of a die; none when no spare remains (01 BAY_SPARE). -/
def State.spareOf (s : State) (die : Nat) : Option PBay :=
  if s.fld (Reg.baySpareSpare die) = 0xF then none else some ⟨die, s.fld (Reg.baySpareSpare die)⟩

/-- The spare of a die already stands in for a faulty bay. -/
def State.spareTaken (s : State) (die : Nat) : Bool := s.reliab.preparing.any fun e => e.1 = die

/-- A physical bay is retired (01 BAY_SPARE). -/
def State.bayRetired (s : State) (b : PBay) : Bool := bits (s.fld (Reg.baySpareRetired b.die)) b.pbay 1 = 1

/-- A bay fault is recorded in BAY_FAULT (17). -/
def State.recordFault (s : State) (b : PBay) (cause : Nat) : State :=
  let s := s.setFld (Reg.bayFaultPbay b.die) b.pbay
  let s := s.setFld (Reg.bayFaultCause b.die) cause
  let s := s.setFld (Reg.bayFaultValid b.die) 1
  s.setFld (Reg.bayFaultCourse b.die) (s.course.count.toNat % 2 ^ 24)

/-- The stale granules below LATHSAVE that a fault during a swap leaves for the outgoing context
(17 R460). -/
def State.loseSave (s : State) (b : PBay) (l : Nat) : State :=
  match (s.bay b).swap with
  | some w =>
    (match w.out with
     | some c =>
       let n := ((s.context c).map Context.lathSave).getD 0
       if w.done then s
       else { s with reliab := { s.reliab with
         lostSaves := s.reliab.lostSaves ++ [(c, b.die, l, List.range (ceilDiv n granule))] } }
     | none => s)
  | none => s

/-- The spare itself faults (17 R459): with a bay that it stands in for, both are retired and the
logical bay is lost; idle, it is retired alone (log entry 33). -/
def State.spareFault (s : State) (b : PBay) : State :=
  let r := s.reliab
  match r.preparing.find? fun e => e.1 = b.die with
  | some (_, l, p, _, _) =>
    { s with reliab := { r with
      preparing := r.preparing.filter fun e => e.1 ≠ b.die
      losing := r.losing ++ [(b.die, some l, [p, b.pbay])] } }
  | none => { s with reliab := { r with losing := r.losing ++ [(b.die, none, [b.pbay])] } }

/-- The spare of the die is prepared for the logical bay of a faulty bay; with no spare, or one already taken, the
bay will be lost (17 R457, R459). -/
def State.callSpare (s : State) (b : PBay) (l cause : Nat) : State :=
  let r := s.reliab
  if s.spareOf b.die = none ∨ s.spareTaken b.die = true then
    { s with reliab := { r with losing := r.losing ++ [(b.die, some l, [b.pbay])] } }
  else { s with reliab := { r with preparing := r.preparing ++ [(b.die, l, b.pbay, cause, false)] } }

/-- A bay that serves a logical bay is out of use from now on: its swap ends unfinished (17 R460), and what is
selected on it returns, but for a bay that weathering retires. -/
def State.leaveBay (s : State) (b : PBay) (l cause : Nat) : State :=
  let s := s.loseSave b l
  let s := s.setBay b { s.bay b with faulty := some (cause, l), swap := none }
  if cause = 3 then s else s.releaseSelected b

/-- A bay is found faulty (17 R455, R457, R459): recorded; preparation of the spare begins, or, with no
spare or one already taken, the bay will be lost. Tasks selected on it that have not started return to
their queues; a bay retired by weathering runs them. -/
def State.bayFault (s : State) (b : PBay) (cause : Nat) : State :=
  if (s.bay b).faulty.isSome ∨ s.bayRetired b = true then s
  else
    let s := s.recordFault b cause
    match s.logical b with
    | none =>
      let s := s.setBay b { s.bay b with faulty := some (cause, 8) }
      if s.spareOf b.die = some b then s.spareFault b else s
    | some l => (s.leaveBay b l.lbay cause).callSpare b l.lbay cause

/-- Aborts every task that runs on a bay, and finds the bay faulty. -/
def State.faultWithTasks (s : State) (b : PBay) (cause : Nat) : State :=
  let s := (dieBays b.die).foldl (fun (s : State) o =>
    ((s.bay o).running.filter fun r => decide (o = b) || (s.groupOf r.task).contains b).foldl
      (fun (s : State) r => s.abortTask o r cause) s) s
  s.bayFault b cause

/-! ### Preparation of the spare -/

/-- Bytes of module memory as a list to write. -/
def State.memBytes (s : State) (a n : Nat) : List (Option Byte) := (s.peekN a n).map some

/-- The spare's Lath under 17 R457 and its stale granules under R460: those not wholly inside LATHSAVE
to LATHLOAD − 1 (DEDUCED; log entry 34). -/
def State.prepareLath (s : State) (spare : PBay) (l : Nat) (occ : Option Context) : State :=
  let s := s.lathClear spare
  match occ with
  | none => s
  | some c =>
    let n := c.lathLoad - c.lathSave
    let a := c.preBase + (8 * spare.die + l) * n
    let (s, _) := s.noteRead (srcBay spare) a n
    let s := s.lathWrite spare c.lathSave (s.memBytes a n)
    s.setBay spare { s.bay spare with
      stale := (List.range 64).filter fun g =>
        !decide (c.lathSave ≤ g * granule ∧ (g + 1) * granule ≤ c.lathLoad) }

/-- SPARE_PREPARED (17 R457): the load of a die's spare ends. -/
def execSparePrepared (die : Nat) (s : State) : Host.Outcome State Fault Refusal :=
  .next (if !s.clocked then s
    else match s.reliab.preparing.find? fun e => decide (e.1 = die) && !e.2.2.2.2, s.spareOf die with
    | some (d, l, p, cause, _), some spare =>
      let occ := (s.occupant ⟨die, p⟩).bind s.context
      let s := s.prepareLath spare l occ
      let s := s.raise (srcDie die) 0x9 0x03 spare.pbay
      { s with reliab := { s.reliab with preparing := s.reliab.preparing.map fun e =>
        if e.1 = die then (d, l, p, cause, true) else e } }
    | _, _ => s)

/-! ### At the boundary -/

/-- Sets the field of BAY_MAP for a logical bay. -/
def State.mapBay (s : State) (die l p : Nat) : State :=
  s.setFld (Reg.bayMapLog die) (putBits (s.fld (Reg.bayMapLog die)) (4 * l) 4 p)

/-- Marks a physical bay retired. -/
def State.retireBay (s : State) (b : PBay) : State :=
  s.setFld (Reg.baySpareRetired b.die) (putBits (s.fld (Reg.baySpareRetired b.die)) b.pbay 1 1)

/-- An aborted task returns for its re-run, or is not re-run (17 R461, R462). `b` is the bay that now
serves its logical bay (DEDUCED; log entry 35); the status names the bay that ran the task (09 R226). -/
def State.rerunTask (s : State) (b : PBay) (x : Abort) : State :=
  if x.overlaps then
    let (cycles, s) := s.takeFree
    (s.writeStatus x.ran x.task (stPoisoned + stIf x.slipped stSlipped) (cycles % 2 ^ 32)).raise (srcBay b) 0x9 0x06
      x.task.queue
  else
    (s.putBack [x.task]).raise (srcBay b) 0x9 0x05 (x.task.queue + x.cause * 2 ^ 14)

/-- The aborted tasks of a bay return. -/
def State.rerunAll (s : State) (b now : PBay) : State :=
  let v := s.bay b
  let s := s.setBay b { v with aborted := [] }
  v.aborted.foldl (fun (s : State) x => s.rerunTask now x) s

/-- The bay leaves service: bay reset, powered down (17 R458). -/
def State.closeBay (s : State) (b : PBay) : State :=
  let s := s.bayReset b
  s.setBay b { s.bay b with off := true }

/-- A fault whose preparation has ended isolates its bay when no task of it runs across the boundary
(17 R458, 05 R142): the spare takes the logical number. -/
def State.isolate (s : State) (die l p cause : Nat) : State :=
  let b : PBay := ⟨die, p⟩
  match s.spareOf die with
  | none => s
  | some spare =>
    if decide (8 < b.pbay) || !(s.runningOn b).isEmpty then s
    else
      let occ := s.occupant b
      let s := s.mapBay die l spare.pbay
      let s := (s.retireBay b).setFld (Reg.baySpareSpare die) 0xF
      let s := s.raise (srcDie die) 0x9 0x02 (p + cause * 2 ^ 4)
      let s := s.releaseSelected b
      let s := s.rerunAll b spare
      let s := (s.closeBay b).occupy spare occ
      { s with reliab := { s.reliab with
        preparing := s.reliab.preparing.filter fun e => decide (e.1 ≠ die ∨ e.2.2.1 ≠ p) } }

/-- A bay without a spare leaves service, and its logical bay is lost (17 R459). -/
def State.loseBay (s : State) (die : Nat) (l : Option Nat) (ps : List Nat) : State :=
  let bays := ps.map fun p => (⟨die, p⟩ : PBay)
  if bays.any fun b => decide (8 < b.pbay) || !(s.runningOn b).isEmpty then s
  else
    let s := bays.foldl (fun (s : State) b =>
      let s := s.retireBay b
      let s := if s.spareOf die = some b then s.setFld (Reg.baySpareSpare die) 0xF else s
      let s := s.releaseSelected b
      (s.rerunAll b b).closeBay b) s
    let s := match l with
      | some l =>
        let s := s.setFld (Reg.baySpareInservice die) (s.fld (Reg.baySpareInservice die) - 1)
        (s.mapBay die l 0xF).raise (srcDie die) 0x9 0x04 l
      | none => s
    { s with reliab := { s.reliab with losing := s.reliab.losing.filter fun e => e ≠ (die, l, ps) } }

/-- Offsets 0 to 15 of a boundary (02 R40, 17 R458, R459, R461): isolations, losses, and the tasks
aborted on bays that stay in service. -/
def State.faultBoundary (s : State) : State :=
  let s := s.reliab.preparing.foldl (fun (s : State) (die, l, p, cause, ready) =>
    if ready then s.isolate die l p cause else s) s
  let s := s.reliab.losing.foldl (fun (s : State) (die, l, ps) => s.loseBay die l ps) s
  s.bays.foldl (fun (s : State) e =>
    let b : PBay := ⟨e.1 / 9, e.1 % 9⟩
    if (s.bay b).faulty.isNone then s.rerunAll b b else s) s

/-! ### The rows that find a fault -/

/-- WATCHDOG_EXPIRE (17 R455, cause 0x4). -/
def execWatchdogExpire (b : PBay) (s : State) : Host.Outcome State Fault Refusal :=
  .next (if (s.runningOn b).isEmpty then s else s.faultWithTasks b 4)

/-- An uncorrectable word of a bay's stores is counted and recorded (10 R287, R288). -/
def State.badWord (s : State) (b : PBay) (word : Option Nat) : State :=
  match word with
  | none => s
  | some w => (s.bump (Reg.bayEccUncorr b) 1).raise (srcBay b) 0x3 0x03 (satTo 0xFFFFFF w)

/-- What the SECDED codes find in the words of bay `x` that a task of bay `b` reads (10 R286, R287, 17 R455 cause 0x0):
corrected words are counted; an uncorrectable one aborts the task and faults the bay whose word it is. -/
def State.sramRead (s : State) (b x : PBay) (t : Task) (e : Sram) : State :=
  let s := (s.bump (Reg.bayEccCorr x) e.corrected).badWord x e.bad
  if e.bad.isNone then s
  else
    let s := match (s.bay b).running.find? fun r => decide (r.task = t) with
      | some r => s.abortTask b r 0
      | none => s
    s.bayFault x 0

/-- Sets BAY_TRUSS.FAULTLO and FAULTHI for a half (05 R140, R142). -/
def State.markTruss (s : State) (b : PBay) (half : Nat) : State :=
  let s := if half ≠ 1 then s.setFld (Reg.bayTrussFaultlo b) 1 else s
  if half ≠ 0 then s.setFld (Reg.bayTrussFaulthi b) 1 else s

/-- The task of a faulting half is aborted (05 R141, 17 R473): POISONED in its status, and a Truss-fault
event. -/
def State.trussAbort (s : State) (b o : PBay) (half : Nat) (r : Running) : State :=
  let (cycles, s) := s.takeFree
  let s := s.writeStatus (statusBay b r) r.task (stPoisoned + stIf r.slipped stSlipped) (cycles % 2 ^ 32)
  let s := s.raise (srcBay b) 0x9 0x01 (r.task.queue + half * 2 ^ 14)
  s.abortTask o r 1

/-- A fault in cycle `cycle` (05 R140): the array runs to the end of that cycle under the freeze rule, and then
what the faulting half holds is discarded unwritten; both halves' for a fault of the full array. -/
def State.faultArray (s : State) (b : PBay) (half cycle : Nat) : State :=
  let s := s.arrayRun b (fun t => decide (cycle < t.cycle)) (cycle + 1 - (s.bay b).truss.cycle)
  if half = 2 then (s.emptyHalf b 0).emptyHalf b 1 else s.emptyHalf b half

/-- TRUSS_FAULT (05 R140 to R142, 10 R287, 17 R455 cause 0x1): a parity error or an uncorrectable word in a half or
the full array. Only the faulting half's task is aborted. -/
def execTrussFault (b : PBay) (u : TrussUpset) (s : State) : Host.Outcome State Fault Refusal :=
  let half := u.half
  .next
    (if 8 < b.pbay ∨ 24 ≤ b.die ∨ 2 < half ∨ s.dieRuns b.die = false then s
    else
      let s := (s.markTruss b half).badWord b u.word
      let s := s.faultArray b half u.cycle
      let s := (dieBays b.die).foldl (fun (s : State) o =>
        ((s.bay o).running.filter fun r =>
          (decide (o = b) || (s.groupOf r.task).contains b) &&
            decide (half = 2 ∨ r.half = 2 ∨ r.half = half)).foldl
          (fun (s : State) r => s.trussAbort b o half r) s) s
      s.bayFault b 1)

/-- A transfer of a task waits on a port in REPLAY (14 R394). -/
def State.stalledPorts (s : State) (r : Running) : List Nat :=
  (portsOf r).filter fun p => decide (s.pstate p = 3)

/-- TASK_OVERRUN_ABORT (02 R46, 14 R394, 17 R456): a task that still runs at the second boundary after
its course. With a transfer that waits on a port in REPLAY the fault is the port's, else the bay's: of a group, that
of the bay that selected the task, whose fault alone 17 R464 bounds; that bay records the overrun too (DESIGN CHOICE, log
entries 36 and 130). -/
def execTaskOverrunAbort (l : Bay) (queue : Nat) (s : State) : Host.Outcome State Fault Refusal :=
  .next (match s.physical l with
    | none => s
    | some b =>
      match (s.bay b).running.find? fun r => decide (r.task.queue = queue) with
      | none => s
      | some r =>
        if s.course.count.toNat < r.course + 2 then s
        else
          let s := s.raise (srcBay b) 0x1 0x02 queue
          let ports := s.stalledPorts r
          if ports.isEmpty then
            (s.abortTask b r 2).bayFault b 2
          else
            (ports.foldl (fun (s : State) p => s.portEvent p 0x08 queue) s).abortTask b r 6)

/-- A port declared DOWN fails the transfers of tasks, which are aborted with cause 0x6 (14 R392, R394,
17 R455). -/
def State.failTransfers (s : State) (port : Nat) : State :=
  s.bays.foldl (fun (s : State) e =>
    let b : PBay := ⟨e.1 / 9, e.1 % 9⟩
    ((s.bay b).running.filter fun r => (portsOf r).contains port).foldl
      (fun (s : State) r => (s.portEvent port 0x07 r.task.queue).abortTask b r 6) s) s

end Sys2Proof.Machine
end

