-- ==== Sys2Proof/Machine/Tasks.lean ====
section
/-! DEFINITION. Running a selected task: the checks at its start, the stream slot, the outputs it forms,
and its completion (09 R226 to R233, 12 R338, 17 R460). -/

namespace Sys2Proof.Machine

/-! ### Which row runs a task -/

/-- The row that runs a task: its opcode, and for REDUCE, PEG, TIE and MEDIA the kind or operation. A
task whose field names no operation is met by the first row of its opcode, and one whose OPCODE names no
task by the row of its plan record's opcode, or by GEMM where PLAN names no record either: that row then finds it
malformed (09 R230; log entry 37). -/
def State.rowOf (s : State) (t : Task) : Nat × Nat :=
  let d := t.desc
  let names (op : Nat) : Bool := decide (1 ≤ op ∧ op ≤ 0xE)
  let planned := ((s.plan (dPlan d)).map Plan.opcode).getD opGemm
  let op := if names (dOp d) then dOp d else if names planned then planned else opGemm
  let sub :=
    if dOp d = opReduce then (if redKind d ≤ 5 then redKind d else 0)
    else if dOp d = opPeg then (if 1 ≤ le d 34 1 ∧ le d 34 1 ≤ 3 then le d 34 1 else 1)
    else if dOp d = opTie then (if le d 34 1 = 2 then 2 else 1)
    else if dOp d = opMedia then (if le d 49 1 ≤ 2 then le d 49 1 else 0)
    else if op = opPeg ∨ op = opTie then 1 else 0
  (op, sub)

/-- A task runs passes of a half when it is one of a split pair: GEMM, CONV, and ATTN without the element-wise
step of FINAL 0. The element-wise path never runs in split mode, and the Purlin unit has no halves (05 R137,
R144). -/
def splits (d : List Byte) : Bool :=
  decide (dOp d = opGemm ∨ dOp d = opConv ∨
    (dOp d = opAttn ∧ (dbits d 108 0 1 = 1 ∨ dbits d 108 1 1 = 1 ∨ dbits d 108 4 1 = 1)))

/-- The half in which a task of a split pair runs: the low half for the lower plan record (DESIGN CHOICE,
05 R137; log entry 38); 2 is the whole bay. -/
def State.halfOf (s : State) (t : Task) : Nat :=
  match (s.plan (dPlan t.desc)).bind Plan.pair with
  | some q => if !splits t.desc then 2 else if dPlan t.desc ≤ q then 0 else 1
  | none => 2

/-- A task may start beside those that run on a bay: nothing runs, or the partner of its split pair in
the other half (05 R137). -/
def State.canStart (s : State) (b : PBay) (t : Task) : Bool :=
  (s.runningOn b).all fun r =>
    decide (s.halfOf t ≠ 2 ∧ r.half ≠ 2 ∧ r.half ≠ s.halfOf t) &&
      decide ((s.plan (dPlan t.desc)).bind Plan.pair = some (dPlan r.task.desc))

/-- A bay starts tasks: it is in service and not found faulty, except for a bay that weathering retires
(17 R455, R458). -/
def BayState.starts (v : BayState) : Bool :=
  !v.off && (match v.faulty with | none => true | some (c, _) => decide (c = 3))

/-- The bays that run a task of which a bay is the lowest: that bay, and the others of its group (12 R329). -/
def State.teamOf (s : State) (b : PBay) (t : Task) : List PBay := b :: (s.groupOf t).filter fun x => decide (x ≠ b)

/-- A bay has reached a task in its own order, and may start it (12 R329). -/
def State.reached (s : State) (t : Task) (b : PBay) : Bool :=
  decide ((s.bay b).selected.head? = some t) && (s.bay b).starts && s.canStart b t

/-- The front task that a logical bay would start, when a row names it: the lowest bay of its group starts it once
every bay of the group has reached it (12 R329). -/
def State.frontTask (s : State) (l : Bay) (row : Nat × Nat) : Option (PBay × Task) :=
  match s.physical l with
  | none => none
  | some b =>
    match (s.bay b).selected with
    | [] => none
    | t :: _ =>
      if decide ((s.groupOf t).headD b = b) && (s.teamOf b t).all (s.reached t) && decide (s.rowOf t = row) &&
          s.image.isSome then some (b, t)
      else none

/-- A task leaves the front of a bay's order. -/
def State.dropFront (s : State) (t : Task) (b : PBay) : State :=
  let v := s.bay b
  s.setBay b { v with selected := if v.selected.head? = some t then v.selected.tail else v.selected }

/-- Takes the front task from the orders of all bays that run it. -/
def State.popSelected (s : State) (b : PBay) : State :=
  match (s.bay b).selected with
  | [] => s
  | t :: _ => ((s.teamOf b t).reverse).foldl (fun (s : State) x => s.dropFront t x) s

/-! ### The checks -/

/-- What the checks of a task come to (09 R230). -/
inductive Verdict where
  | malformed (off : Option Nat)
  | refused (code : Nat)
  | pageFault (page : Nat)
  | noop
  | runs
deriving DecidableEq, Repr

/-- The checks in order (09 R230). -/
def State.verdict (s : State) (t : Task) : Verdict :=
  match s.judge t.queue with
  | none => .malformed none
  | some j =>
    match firstFail (j.fails t.desc t.bwd) with
    | some (_, off) => .malformed off
    | none =>
      match (s.plan (dPlan t.desc)).bind fun p => exceeds p t.desc with
      | some c => .refused c
      | none =>
        match s.pageFault t.desc with
        | some p => .pageFault p
        | none => if zeroShape t.desc then .noop else .runs

/-- The event of a task that a check stops: class 0x2 (09 R228). -/
def State.verdictEvent (s : State) (b : PBay) (t : Task) (v : Verdict) : State :=
  match v with
  | .malformed (some off) => s.raise (srcBay b) 0x2 0x02 (t.queue + off % 128 * 2 ^ 14)
  | .malformed none => s.raise (srcBay b) 0x2 0x02 (t.queue + 2 ^ 21)
  | .refused c => s.raise (srcBay b) 0x2 0x01 (t.queue + c * 2 ^ 14)
  | .pageFault p => s.raise (srcBay b) 0x2 0x03 (t.queue + p % 1024 * 2 ^ 14)
  | _ => s

/-- The status bits of a task that a check ends. -/
def verdictFlags (v : Verdict) : Nat :=
  match v with
  | .malformed _ => stMalformed
  | .refused _ => stRefused
  | .pageFault _ => stPageFault
  | .noop => stDone + stNoop
  | .runs => stDone

/-- A task that a check ends: its event, its status, and, as a no-op, its signal (09 R232, R233). -/
def State.endAtCheck (s : State) (b : PBay) (t : Task) (v : Verdict) : State :=
  let s := s.verdictEvent b t v
  let (cycles, s) := s.checkCycles
  let s := s.writeStatus b t (verdictFlags v) cycles
  if v = .noop then s.signal b t else s

/-! ### The stream slot and stale granules -/

/-- The stream slot of a task's queue (12 R337). -/
def State.slotOf (s : State) (t : Task) : Option Nat := (s.queueEntry t.queue).bind QueueEntry.slot

/-- The slot's copy in the Lath (12 R338). -/
def slotBase : Nat := 0x3FF000

/-- Copies the stream slot into the Lath before the first fetch (12 R338). -/
def State.slotIn (s : State) (b : PBay) (t : Task) : State :=
  match s.slotOf t with
  | some n => s.lathWrite b slotBase ((List.range 4096).map fun i => some (s.slotPeek n i))
  | none => s

/-- Writes the stream slot back after the last output (12 R338). -/
def State.slotOut (s : State) (b : PBay) (t : Task) : State :=
  match s.slotOf t with
  | some n => s.slotWrite n 0 ((List.range 4096).map fun i => s.lathPeek b (slotBase + i))
  | none => s

/-- What a task reads through bay `x` for the bay `b` that runs it: of a GEMM or CONV its own part, of a MEDIA task the
planes of its parameter block. -/
def State.readsOn (s : State) (b x : PBay) (t : Task) : List Span :=
  let d := t.desc
  if dOp d = opGemm ∨ dOp d = opConv then s.ownSpans b x t
  else if dOp d = opMedia then
    match (s.judge t.queue).bind fun j => j.blockOf d with
    | some k => (mediaIns k d).flatMap Prod.snd
    | none => []
  else s.taskRuns d t.bwd

/-- The lowest stale granule that a task would read in a Lath of its group (17 R460). -/
def State.staleRead (s : State) (b : PBay) (t : Task) : Option Nat :=
  let bays := if dOp t.desc = opGemm ∨ dOp t.desc = opConv ∨
      (dOp t.desc = opReduce ∧ redScope t.desc = 0) then b :: s.groupOf t else [b]
  let hits := bays.flatMap fun x =>
    if (s.bay x).stale.isEmpty then []
    else ((s.readsOn b x t).filter fun r => r.lath).flatMap fun r =>
      (granulesIn r.addr r.size).filter fun g => decide (g ∈ (s.bay x).stale)
  hits.foldl (fun m g => match m with | none => some g | some y => some (min y g)) none

/-- An orphaned task is not run (17 R460). -/
def State.orphan (s : State) (b : PBay) (t : Task) (g : Nat) : State :=
  let (cycles, s) := s.checkCycles
  (s.writeStatus b t stPoisoned cycles).raise (srcBay b) 0x9 0x07 (t.queue + g * 2 ^ 14)

/-! ### Running -/

/-- The results of a task by the bay that forms them. -/
abbrev Parts := List (PBay × Result)

/-- A new running task, with the outputs of its parts. -/
def newRunning (s : State) (t : Task) (overlaps : Bool) (parts : Parts) : Running :=
  let cnt := parts.foldl (fun c p => c.plus p.2.cnt) Cnt.none
  { task := t, half := s.halfOf t, course := s.course.count.toNat,
    outs := parts.flatMap fun p => p.2.outs, flags := cnt.status + cnt.flags % 32 * 2 ^ 16,
    sflags := parts.map fun p => (p.1, p.2.cnt.flags), slipped := false, waiting := false, phase := 0, got := 0,
    tags := [], overlaps := overlaps, coll := t.coll, pages := s.pagesOf t.desc }

/-- The task runs with these parts: what they count is counted, and their outputs stand ready. -/
def State.runParts (s : State) (b : PBay) (t : Task) (overlaps : Bool) (parts : Parts) : State :=
  let r := newRunning s t overlaps parts
  let s := parts.foldl (fun (s : State) p => s.addCnt p.1 p.2.cnt) s
  let v := s.bay b
  s.setBay b { v with running := v.running ++ [r] }

/-- The target bay of a MOVE of kind 0x2 is one of the task's own (09 R257). -/
def State.ownTarget (s : State) (b : PBay) (t : Task) : Bool :=
  decide (dOp t.desc = opMove ∧ le t.desc 64 1 = 2) &&
    (s.physical ⟨dbits t.desc 65 0 5, dbits t.desc 66 0 3⟩ == some b)

/-- An output range of the task overlaps one of its input ranges: of a MEDIA task, one of those that its parameter block
gives it (17 R462). -/
def State.overlapsOf (s : State) (b : PBay) (t : Task) : Bool :=
  match s.judge t.queue with
  | none => false
  | some j => s.overlaps t.desc t.bwd (j.members t.desc) (s.ownTarget b t) || j.mediaOverlaps t.desc

/-- What the bay sequencer and the firmware read for a task before its inputs: its descriptor and backward record (09
R224), a parameter block or the open session's (13 R349), and, once checks 1 and 2 have passed, its page-table entries
(08 R212). -/
def State.sequencerRuns (s : State) (t : Task) (v : Verdict) : List Span :=
  let d := t.desc
  (match s.queueEntry t.queue with
   | some e => memSpan (e.ring + t.pos % 2 ^ e.log2 * 128) 128
   | none => []) ++
  (if dOp d = opAttn ∧ dbits d 108 0 1 = 1 then memSpan (dbits d 112 0 40) 64 else []) ++
  (match (s.judge t.queue).bind fun j => j.blockAt d with
   | some a => memSpan a 128
   | none => []) ++
  (match v with
   | .malformed _ => []
   | .refused _ => []
   | _ => if dOp d = opAttn ∨ dOp d = opKvappend then entryRuns d else [])

/-- A task past its checks reads its inputs (10 R289, 17 R462): `act` runs it, unless a sector it read
is poisoned, which aborts it with cause 0x5. -/
def State.runTask (s : State) (b : PBay) (t : Task) (act : State → PBay → Task → Bool → State) : State :=
  let ov := s.overlapsOf b t
  let (s, bad) := s.noteRuns (srcBay b) (s.taskRuns t.desc t.bwd)
  if bad then
    let r := newRunning s t ov []
    s.abortTask b r 5
  else act s b t ov

/-- A selected task as it is read and judged: the stream slot is in, and what the reads of the sequencer record is
recorded; the verdict; and whether a sector read was poisoned (10 R289, 12 R338). -/
def State.readTask (s : State) (b : PBay) (t : Task) : State × Verdict × Bool :=
  let s := (s.popSelected b).slotIn b t
  let v := s.verdict t
  let (s, bad) := s.noteRuns (srcBay b) (s.sequencerRuns t v)
  (s, v, bad)

/-- The start of the front task of a logical bay by its row (09 R230, 10 R286, R287, R289, 12 R338, 17 R460): `m` and `e`
say what the SECDED codes find, and in which of its bays. -/
def State.startTask (s : State) (l : Bay) (row : Nat × Nat) (act : State → PBay → Task → Bool → State)
    (m : Nat := 0) (e : Sram := ⟨0, none⟩) : State :=
  match s.frontTask l row with
  | none => s
  | some (b, t) =>
    let x := (s.teamOf b t).getD m b
    let (s, v, bad) := s.readTask b t
    if bad then s.abortTask b (newRunning s t (s.overlapsOf b t) []) 5
    else match v with
      | .runs =>
        (match s.staleRead b t with
         | some g => s.orphan b t g
         | none => (s.runTask b t act).sramRead b x t e)
      | v => s.endAtCheck b t v

/-- The start of a task whose outputs follow from its operands alone. -/
def State.startPlain (s : State) (l : Bay) (op : Nat) (f : State → PBay → Task → Parts) (m : Nat) (e : Sram) : State :=
  s.startTask l (op, 0) (fun s b t ov => s.runParts b t ov (f s b t)) m e

/-! ### Outputs and completion -/

/-- A slip ends (02 R43, R44): counted and recorded on every bay of the group (DESIGN CHOICE, log entry 130). -/
def State.endSlip (s : State) (b : PBay) (t : Task) (past : Nat) : State :=
  (b :: (s.groupOf t).filter fun x => x ≠ b).foldl (fun (s : State) x =>
    let s := (s.bump (Reg.baySlipCount x) 1).setFld (Reg.baySlipLast x) (satTo 0xFFFF past)
    s.raise (srcBay x) 0x1 0x01 (t.queue + satTo 0x3FF (past / 32) * 2 ^ 14)) s

/-- The completion of a running task (09 R227, 12 R338): outputs, stream slot, flags, status, signal. Each bay
sets the IEEE flags of its own part, and the bay that the status names all of them (04 R116). What the task has not yet
written leaves now: its passes have come to their ends, and those that no PASS_START told of have run (log entry 22). -/
def State.complete (s : State) (b : PBay) (r : Running) (cycles past : Nat) : State :=
  let s := (joinOuts r.outs).foldl State.emitOut s
  let s := s.slotOut b r.task
  let s := r.sflags.foldl (fun (s : State) p => s.addFlags p.1 p.2) s
  let s := s.addFlags (statusBay b r) (r.flags / 2 ^ 16)
  let s := if r.slipped then s.endSlip b r.task past else s
  let s := s.writeStatus (statusBay b r) r.task (stDone + r.flags + stIf r.slipped stSlipped) cycles
  let s := s.signal b r.task
  let v := s.bay b
  let s := s.setBay b { v with running := v.running.filter fun x => x ≠ r }
  r.bays.foldl (fun (s : State) x => s.emptyHalf x r.half) s

/-- The passes of a running task come to their ends in every array that it uses, and what they leave is written
(05 R131, R134). -/
def State.drainTask (s : State) (r : Running) : State :=
  r.bays.foldl (fun (s : State) x => s.drainHalf x r.half) s

/-- The running task of a queue on a bay that can complete: its transfers have ended, and their credits are back
(12 R341). -/
def State.completing (s : State) (b : PBay) (queue : Nat) : Option Running :=
  (s.bay b).running.find? fun r => decide (r.task.queue = queue ∧ r.waiting = false ∧ r.tags = []) &&
    s.creditsHome queue

/-- TASK_COMPLETE (09 R226, R227, 12 R341, 02 R44): a running task whose transfers have ended, with
their credits returned, completes
after `cycles` core cycles; `past` counts those beyond the boundary it slipped over. -/
def execTaskComplete (l : Bay) (queue cycles past : Nat) (s : State) : Host.Outcome State Fault Refusal :=
  .next (match s.physical l with
    | none => s
    | some b =>
      match s.completing b queue with
      | none => s
      | some r =>
        let s := s.drainTask r
        match s.completing b queue with
        | none => s
        | some r => s.complete b r cycles past)

end Sys2Proof.Machine
end

