-- ==== Sys2Proof/Machine/Attn.lean ====
section
/-! DEFINITION. ATTN: score passes, masks and skips, exponentials and block exponents, value passes and
their combination, partials, the final step, and the backward pass (08 R192 to R219, 09 R250 to R252). -/

namespace Sys2Proof.Machine

/-- The arithmetic of every stage of ATTN: fast mode under OVF, accumulating in FP32, no operand flushed
(06 R146). -/
def attnArith (ovf : Bool) : Arith :=
  { strict := false, ovf := ovf, rnd := .even, tally := false, flushIn := false }

/-! ### Score passes -/

/-- The slate sum of a cache form: the scale decides it after the products (08 R197). -/
def scaledSlate (qs prods : List Val) (scale : Val) : Val :=
  match scale with
  | .nan => .nan
  | .inf _ => .nan
  | .fin _ n _ _ =>
    if n = 0 then (if qs.all Val.isFin then Val.zero else .nan)
    else
      let v := slateExact { prods := prods, scale := some 0 }
      if v.isZero then Val.zero else v.mul scale

/-- A slate sum rounded and added (04 R100, R101). -/
def stepExact (ar : Arith) (acc v : Val) : Val × Cnt :=
  let (x, c) := roundAcc ar v
  let (r, c') := roundAcc ar (acc.add x)
  (r, c.plus c')

/-- The products of a row of elements with a cached token over the first `n` slates of 32 head-dimension positions
(08 R195 stage 1, R196, R197). -/
def State.keyDotTo (s : State) (ar : Arith) (fmt dim n : Nat) (qs : List Val) (page slot : Nat) : Val × Cnt :=
  (List.range n).foldl (fun acc c =>
    let q := (qs.drop (32 * c)).take 32
    let prods := q.zipIdx.map fun (x, i) => x.mul (decodeElem fmt (s.kvCode fmt dim page slot (32 * c + i)))
    let v :=
      if cacheForm fmt then scaledSlate q prods (decodeElem fBF16 (s.kvScale fmt dim page slot c))
      else slateExact { prods := prods, scale := some 0 }
    let (r, n) := stepExact ar acc.1 v
    (r, acc.2.plus n)) (Val.zero, Cnt.none)

/-- The products over all head-dimension positions. -/
def State.keyDot (s : State) (ar : Arith) (fmt dim : Nat) (qs : List Val) (page slot : Nat) : Val × Cnt :=
  s.keyDotTo ar fmt dim (dim / 32) qs page slot

/-- The scaled score of a row and a key (08 R195 stages 1 and 2). -/
def State.score (s : State) (ar : Arith) (a : Attn) (qs : List Val) (page j : Nat) : Val × Cnt :=
  let (v, c) := s.keyDot ar a.kvfmt a.dim qs page (j % 128)
  let (code, c') := roundFast fp32 ar.ovf (v.mul a.scale)
  (decodeElem fFP32 code, c.plus c')

/-- The page of a key block, and of its values. -/
def Attn.kpage (a : Attn) (blk : Nat) : Nat := a.kpages.getD blk 0
def Attn.vpage (a : Attn) (blk : Nat) : Nat := a.vpages.getD blk 0

/-- The parameters of a task with the pages that it has read. -/
def pagedAttn (d : List Byte) (pages : List Nat × List Nat) : Attn :=
  { attnOf d with kpages := pages.1, vpages := pages.2 }

/-! ### The state of a row -/

/-- The running state of a query row: A, G and Σ (08 R204), whether it is a NaN row (08 R205), whether a score of its
own is NaN (06 R161), and whether Σ has saturated (06 R161). -/
structure RowState where
  acc    : List Val
  g      : Option Int
  sum    : Val
  sumsat : Bool
  nan    : Bool
  own    : Bool
deriving DecidableEq, Repr

/-- A row that starts empty (08 R204). -/
def RowState.empty : RowState := { acc := [], g := none, sum := Val.zero, sumsat := false, nan := false, own := false }

/-- An addition into Σ: one rounding to Tally64, held at the largest value (06 R160, R161). -/
def tallyAdd (sum e : Val) : Val × Bool :=
  let (c, n) := roundFast tally64 false (sum.add e)
  (decodeElem fTally c, decide (n.fsat = 1))

/-- Σ takes an exponential or a partial's Σ. -/
def RowState.add (r : RowState) (e : Val) : RowState :=
  let (v, sat) := tallyAdd r.sum e
  { r with sum := v, sumsat := r.sumsat || sat }

/-- Combination of a partial with block exponent `b` (08 R204). -/
def RowState.combine (ovf : Bool) (r : RowState) (p : List Val) (b : Int) : RowState × Cnt :=
  match r.g with
  | none => ({ r with acc := p, g := some b }, Cnt.none)
  | some g =>
    let h := max g b
    let (acc, c) := mapCnt (r.acc.zip p) fun (x, y) =>
      let (code, c) := roundFast fp32 ovf ((x.mul (pow2 (g - h))).add (y.mul (pow2 (b - h))))
      (decodeElem fFP32 code, c)
    ({ r with acc := acc, g := some h }, c)

/-- A partial record of a row joins the state (08 R205, R208, 09 R251). -/
def State.takePartial (s : State) (b : PBay) (ovf : Bool) (dim addr : Nat) (r : RowState) : RowState × Cnt :=
  let raw := s.fetch b false addr (partialBytes dim)
  let g := le raw (4 * dim + 8) 4
  if g = 0x80000000 then (r, Cnt.none)
  else
    let p := (List.range dim).map fun i => decodeElem fFP32 (le raw (4 * i) 4)
    let sum := decodeElem fTally (le raw (4 * dim) 8)
    let (r, c) := r.combine ovf p (ofTwos 32 g)
    let r := r.add sum
    ({ r with nan := r.nan || sum.isNan || p.any Val.isNan }, c)

/-! ### A key block -/

/-- What a key gives: its exponential, and whether its kept score was NaN or clamped. -/
structure KeyExp where
  exp_  : Val
  nan   : Bool
  cnt   : Cnt
deriving DecidableEq, Repr

/-- The clamp of a kept score, counted (06 R160, R161, 08 R171). -/
def clampCnt (x : Val) : Val × Cnt :=
  let (c, hit) := clampScore x
  (c, if hit then { Cnt.none with clamp := 1, status := stRange } else Cnt.none)

/-- Stage 3 for one key: a masked score gives +0 whatever its value (08 R199); a kept NaN makes the row a
NaN row (06 R161). The roundings that formed the score of stages 1 and 2 are counted, masked or not (DESIGN CHOICE, log
entry 152). -/
def State.keyExp (s : State) (ar : Arith) (a : Attn) (qs : List Val) (page r j : Nat) : KeyExp :=
  let (x, c) := s.score ar a qs page j
  if !a.kept r j then { exp_ := Val.zero, nan := false, cnt := c }
  else if x.isNan then { exp_ := .nan, nan := true, cnt := c }
  else
    let (y, c') := clampCnt x
    { exp_ := expTally y, nan := false, cnt := c.plus c' }

/-- The block exponent: the greatest exponent among the nonzero exponentials (08 R201). -/
def blockExp (es : List Val) : Option Int :=
  es.foldl (fun m e =>
    if e.isFin && !e.isZero then
      (match m with
       | none => some e.expo
       | some k => some (max k e.expo))
    else m) none

/-- The value pass of a block: one partial element per head-dimension position, keys ascending (08 R202,
R203). -/
def State.valuePass (s : State) (ar : Arith) (a : Attn) (ps : List Val) (page : Nat) (keys : List Nat) :
    List Val × Cnt :=
  mapCnt (List.range a.dim) fun i =>
    dotFast ar Val.zero (slatesOf ((ps.zip keys).map fun (p, j) =>
      (p, s.kvElem a.kvfmt a.dim page (j % 128) i)) fun _ => some 0)

/-- The rebased exponentials of a row's keys, in BF16 (08 R201). -/
def rebase (ar : Arith) (e : Int) (ks : List KeyExp) : List Val × Cnt :=
  mapCnt ks fun k =>
    let (code, n) := convert ar fBF16 (k.exp_.mul (pow2 (-e)))
    (decodeElem fBF16 code, n)

/-- What the keys of a block give a row (08 R195 stages 1 to 3). -/
def State.blockExps (s : State) (ar : Arith) (a : Attn) (qs : List Val) (r blk : Nat) : List KeyExp :=
  (a.keysOf blk).map fun j => s.keyExp ar a qs (a.kpage blk) r j

/-- A row and a key block that runs (08 R195, R201 to R204). -/
def State.rowBlock (s : State) (ar : Arith) (a : Attn) (qs : List Val) (r : Nat) (st : RowState) (blk : Nat) :
    RowState × Cnt :=
  let keys := a.keysOf blk
  let ks := s.blockExps ar a qs r blk
  let c := ks.foldl (fun c k => c.plus k.cnt) Cnt.none
  let st := (keys.zip ks).foldl (fun (st : RowState) (j, k) =>
    if a.kept r j then (if k.nan then { st with nan := true, own := true } else st.add k.exp_) else st) st
  match blockExp (ks.map KeyExp.exp_) with
  | none => (st, c)
  | some e =>
    let (ps, c1) := rebase ar e ks
    let (part, c2) := s.valuePass ar a ps (a.vpage blk) keys
    let (st, c3) := st.combine ar.ovf part e
    (st, ((c.plus c1).plus c2).plus c3)

/-- A row through its partials and the blocks that run for its group, in ascending order (08 R195, R208). A row that a
score of its own makes NaN takes no step of 06 R160, so it counts no clamp (06 R161, R171). -/
def State.rowForward (s : State) (b : PBay) (ar : Arith) (a : Attn) (d : List Byte) (r : Nat) : RowState × Cnt :=
  let qs := s.rowValues b (refAt d 32) a.dim r
  let start := (s.partArrays d).foldl (fun acc p =>
    let (st, c) := s.takePartial b ar.ovf a.dim (p + r * partialBytes a.dim) acc.1
    (st, acc.2.plus c)) (RowState.empty, Cnt.none)
  let (st, c) := ((List.range a.blocks).filter fun k => a.runs (r / 128) k).foldl (fun acc k =>
    let (st, c) := s.rowBlock ar a qs r acc.1 k
    (st, acc.2.plus c)) start
  ({ st with nan := st.nan || st.sum.isNan }, if st.own then { c with clamp := 0, status := 0 } else c)

/-! ### The final step -/

/-- The outputs of a row that has an exponent and is no NaN row (08 R206). -/
def finalRow (ar : Arith) (final ofmt : Nat) (st : RowState) : List Nat × Cnt :=
  let f := (floatOf ofmt).getD fp32
  let sum := st.sum.mul (pow2 (-(st.g.getD 0)))
  if final = 0 then
    let (rc, c) := sfuBuiltin ar.ovf 0x04 fBF16 sum
    let r := decodeElem fBF16 rc
    let (ys, c') := mapCnt st.acc fun x =>
      let (ac, n) := convert ar fBF16 x
      let (y, n') := roundFast f ar.ovf ((decodeElem fBF16 ac).mul r)
      (y, n.plus n')
    (ys, c.plus c')
  else
    let (rc, c) := sfuBuiltin ar.ovf 0x04 fFP32 sum
    let (ys, c') := mapCnt st.acc fun x => roundFast f ar.ovf (x.mul (decodeElem fFP32 rc))
    (ys, c.plus c')

/-- L = ln Σ to FP32 (06 R153, 08 R217, R218). -/
def lnSum (ovf : Bool) (sum : Val) : Nat × Cnt := sfuBuiltin ovf 0x02 fFP32 sum

/-- What the row counts at its end: a NaN row once, and saturation of Σ once unless a score of its own is NaN (06 R161,
R171). -/
def RowState.counts (st : RowState) : Cnt :=
  let c := if st.sumsat && !st.own then { Cnt.none with sumsat := 1, status := stSumsat } else Cnt.none
  if st.nan then { c with nanrow := 1 } else c

/-- A normalised row: NaN row, empty row, or final step, which under FINAL 0 leaves the Truss by its gutters (05 R144, 08
R205, R206, R217). -/
def attnRow (b : PBay) (ar : Arith) (d : List Byte) (r : Nat) (st : RowState) : Result :=
  let a := attnOf d
  let o := refAt d 56
  let (codes, lse, c) : List Nat × Nat × Cnt :=
    if st.nan then
      (List.replicate a.dim ((floatOf o.fmt).getD fp32).canonical, fp32.canonical, Cnt.none)
    else match st.g with
      | none => (List.replicate a.dim 0, fp32.infinity true, { Cnt.none with status := stEmpty })
      | some _ =>
        let (ys, c) := finalRow ar a.final o.fmt st
        let (l, c') := lnSum ar.ovf st.sum
        (ys, l, if a.lse = 0 then c else c.plus c')
  let route (i : Nat) : Route :=
    if a.final = 0 ∧ st.nan = false ∧ st.g.isSome = true then Route.diagonal (r * a.dim + i) else Route.purlin
  { outs := (codes.zipIdx.map fun (y, i) => putCode b (route i) o a.dim r i y) ++
      (if a.lse = 0 then []
       else [{ bay := b, gutters := [], entry := (0, 0), space := .mem, addr := a.lse + 4 * r, data := (toLe 4 lse).map some }]),
    cnt := c.plus st.counts }

/-- A partial record (08 R207, 09 R251), each element of A as it is held; the value of its reserved bytes is open (log
entry 45). -/
def partialRow (b : PBay) (d : List Byte) (r : Nat) (st : RowState) : Result :=
  let a := attnOf d
  let o := refAt d 56
  let (acc, sum, g) : List Nat × Nat × Nat :=
    if st.nan then
      (List.replicate a.dim fp32.canonical, tally64.canonical, toTwos 32 (st.g.getD 0))
    else match st.g with
      | none => (List.replicate a.dim 0, 0, 0x80000000)
      | some g => (st.acc.map keyOf, tallyCode st.sum, toTwos 32 g)
  { outs := [{ bay := b, gutters := [], entry := (0, 0), space := o.space b, addr := o.addr + r * partialBytes a.dim,
               data := ((acc.flatMap fun x => toLe 4 x) ++ toLe 8 sum ++ toLe 4 g ++
                 toLe 4 Config.partialPad).map some }],
    cnt := st.counts }

/-- Pairs of group and block skipped and run (08 R219). -/
def Attn.pairCounts (a : Attn) : Cnt :=
  (List.range a.groups).foldl (fun (c : Cnt) g =>
    (List.range a.blocks).foldl (fun (c : Cnt) k =>
      if a.runs g k then { c with run := c.run + 1 } else { c with skip := c.skip + 1 }) c) Cnt.none

/-! ### The backward pass -/

/-- The fields of a backward record (09 R252). -/
def bwdDO (w : List Byte) : Ref := refOf (le w 0 8) 0
def bwdD (w : List Byte) : Nat := dbits w 8 0 40
def bwdL (w : List Byte) : Nat := dbits w 16 0 40
def bwdDQ (w : List Byte) : Ref := refOf (le w 24 8) 0
def bwdDK (w : List Byte) : Ref := refOf (le w 32 8) 0
def bwdDV (w : List Byte) : Ref := refOf (le w 40 8) 0

/-- A row of the task has a kept score that is NaN, in one of its blocks that run (06 R161). -/
def State.nanScores (s : State) (ar : Arith) (a : Attn) (qs : List Val) (r : Nat) : Bool :=
  ((List.range a.blocks).filter fun k => a.runs (r / 128) k).any fun k => (a.keysOf k).any fun j =>
    a.kept r j && (s.score ar a qs (a.kpage k) j).1.isNan

/-- p and dS of a row and a key (08 R218). c − L is rounded once to Tally64, nearest even (DESIGN
CHOICE, log entry 136). -/
def State.backCell (s : State) (ar : Arith) (a : Attn) (w : List Byte) (qs dos : List Val) (blk r j : Nat) :
    (Val × Val) × Cnt :=
  let (x, c) := s.score ar a qs (a.kpage blk) j
  let l := decodeElem fFP32 (s.peekLe (bwdL w + 4 * r) 4)
  let dv := decodeElem fFP32 (s.peekLe (bwdD w + 4 * r) 4)
  let (p, c1) : Val × Cnt :=
    if !a.kept r j || decide (l = .inf true) then (Val.zero, Cnt.none)
    else
      let (y, c) := if x.isNan then (Val.nan, Cnt.none) else clampCnt x
      let diff := decodeElem fTally (roundFast tally64 false (y.add l.neg)).1
      let (code, n) := convert ar fBF16 (expTally diff)
      (decodeElem fBF16 code, c.plus n)
  let (dp, c2) := s.keyDot ar a.kvfmt a.dim dos (a.vpage blk) (j % 128)
  let (sc, c3) := roundFast fp32 ar.ovf (p.mul (dp.add dv.neg))
  let (bc, c4) := convert ar fBF16 (decodeElem fFP32 sc)
  ((p, decodeElem fBF16 bc), (((c.plus c1).plus c2).plus c3).plus c4)

/-- The cells of a group and a block: for each row, p and dS of each valid key. -/
structure Tile where
  group : Nat
  blk   : Nat
  cells : List (List (Val × Val))
deriving DecidableEq, Repr

/-- The tiles of every pair that runs, groups ascending and blocks ascending within each. A row that has a NaN score
counts no clamp (06 R161, R171). -/
def State.backTiles (s : State) (b : PBay) (ar : Arith) (a : Attn) (d w : List Byte) : List Tile × Cnt :=
  mapCnt ((List.range a.groups).flatMap fun g =>
      ((List.range a.blocks).filter fun k => a.runs g k).map fun k => (g, k)) fun (g, k) =>
    let (rows, c) := mapCnt (a.rowsOf g) fun r =>
      let qs := s.rowValues b (refAt d 32) a.dim r
      let dos := s.rowValues b (bwdDO w) a.dim r
      let (cells, c) := mapCnt (a.keysOf k) fun j => s.backCell ar a w qs dos k r j
      (cells, if s.nanScores ar a qs r then { c with clamp := 0, status := 0 } else c)
    ({ group := g, blk := k, cells := rows }, c)

/-- An accumulator goes on over pairs of values in slates of 32. -/
def goOn (ar : Arith) (acc : Val × Cnt) (pairs : List (Val × Val)) : Val × Cnt :=
  let (v, c) := dotFast ar acc.1 (slatesOf pairs fun _ => some 0)
  (v, acc.2.plus c)

/-- dQ of a row: dS · K over ascending keys (08 R218). -/
def State.dqRow (s : State) (ar : Arith) (a : Attn) (tiles : List Tile) (r : Nat) : List Val × Cnt :=
  mapCnt (List.range a.dim) fun i =>
    (tiles.filter fun t => t.group = r / 128).foldl (fun acc t =>
      goOn ar acc (((t.cells.getD (r % 128) []).zip (a.keysOf t.blk)).map fun (x, j) =>
        (x.2, s.kvElem a.kvfmt a.dim (a.kpage t.blk) (j % 128) i))) (Val.zero, Cnt.none)

/-- dK of a key, dSᵀ · Q, or dV of a key, Pᵀ · dO: over ascending queries (08 R218). -/
def State.dkvRow (s : State) (b : PBay) (ar : Arith) (a : Attn) (tiles : List Tile) (value : Bool) (src : Ref)
    (j : Nat) : List Val × Cnt :=
  mapCnt (List.range a.dim) fun i =>
    (tiles.filter fun t => t.blk = j / 128).foldl (fun acc t =>
      goOn ar acc ((t.cells.zip (a.rowsOf t.group)).map fun (row, r) =>
        let x := row.getD (j % 128) (Val.zero, Val.zero)
        (if value then x.1 else x.2, s.value b src a.dim r i))) (Val.zero, Cnt.none)

/-- The key of the gutter entries of a dQ (0), dK (1) or dV (2) of a query group or key block. -/
def backKey (k n : Nat) : Nat := 2 * (3 * n + k) + 2

/-- A row of dQ, dK or dV: its element i is output row i of the pass, and leaves by the gutter of the row's column; a
block waits for the last of its elements (05 R121, R131, 08 R218). -/
def putColumn (s : State) (b : PBay) (ar : Arith) (key : Nat) (r : Ref) (len row : Nat) (vs : List Val) : Result :=
  let route (i : Nat) : Route := { gutter := fun _ => some (row % 128), entry := (i, key) }
  if r.block then
    Result.all (chunks32 vs.length vs).zipIdx fun (c, k) =>
      putValues s b ar (route (32 * k + c.length - 1)) r len row (32 * k) c
  else Result.all vs.zipIdx fun (v, i) => putValue b ar (route i) r len row i v

/-- The results of a backward task (08 R218). -/
def State.attnBack (s : State) (b : PBay) (ar : Arith) (a : Attn) (d w : List Byte) : Result :=
  let (tiles, c) := s.backTiles b ar a d w
  let put (k : Nat) (ref : Ref) (row : Nat) (x : List Val × Cnt) : Result :=
    (Result.count x.2).then_ (putColumn s b ar (backKey k (row / 128)) ref a.dim row x.1)
  (Result.count c).then_
    ((Result.all (List.range a.qlen) fun r => put 0 (bwdDQ w) r (s.dqRow ar a tiles r)).then_
      ((Result.all (List.range a.klen) fun j =>
          put 1 (bwdDK w) j (s.dkvRow b ar a tiles false (refAt d 32) j)).then_
        (Result.all (List.range a.klen) fun j =>
          put 2 (bwdDV w) j (s.dkvRow b ar a tiles true (bwdDO w) j))))

/-- ATTN: the results, formed on the selecting bay (log entry 44). -/
def attnParts (s : State) (b : PBay) (t : Task) : Parts :=
  let d := t.desc
  let a := pagedAttn d (s.pagesOf d)
  let ar := attnArith (s.arithOfQueue t.queue).ovf
  let res :=
    if a.back then s.attnBack b ar a d t.bwd
    else Result.all (List.range a.qlen) fun r =>
      let (st, c) := s.rowForward b ar a d r
      (Result.count c).then_ (if a.outmode = 1 then partialRow b d r st else attnRow b ar d r st)
  [(b, (Result.count a.pairCounts).then_ res)]

/-- ATTN (08 R195, 09 R250). -/
def execAttn (r : TaskRun) (s : State) : Host.Outcome State Fault Refusal :=
  .next (s.startPlain r.bay opAttn attnParts r.member r.sram)

end Sys2Proof.Machine
end

