-- ==== Sys2Proof/Machine/Gemm.lean ====
section
/-! DEFINITION. GEMM, CONV and DWCONV: the elements they form, and their rows (04, 05 R119 to R124, 07 R172 to R185, 09
R242 to R246, R520). -/

namespace Sys2Proof.Machine

/-- How output row `row` of a sub-tile leaves: by the gutters of its columns when passes run (05 R131); on a
STRICT queue, and with K = 0, no pass runs and the Purlin unit writes (09 R234, R520). -/
def SubTile.route (x : SubTile) (passes : Bool) (row : Nat) : Route :=
  if passes then { gutter := fun n => some (x.gutter n), entry := (row, x.col) } else Route.purlin

/-! ### Elements -/

/-- The E8M0 exponent that an operand contributes to a slate: 0 for one without block scales (04 R98). -/
def State.slateScale (s : State) (b : PBay) (r : Ref) (len row k : Nat) : Option Int :=
  if isMx r.fmt then e8m0 (s.scaleOf b r len row k) else some 0

/-- The sum of two scales; none when either is NaN. -/
def addScales (a b : Option Int) : Option Int :=
  match a, b with
  | some x, some y => some (x + y)
  | _, _ => none

/-- What the accumulator of an output element holds at the end. -/
inductive Acc64 where
  | float (v : Val)
  | int (x : Int)
deriving DecidableEq, Repr

/-- The final accumulator as a value. -/
def Acc64.val : Acc64 → Val
  | .float v => v
  | .int x => Val.ofInt x

/-- The number of NaN elements delivered by a fast task (04 R117). -/
def Acc64.nan (ar : Arith) : Acc64 → Cnt
  | .float v => nanCount ar v
  | .int _ => Cnt.none

/-- The accumulator of a GEMM element after the first `k` K positions (04 R95 to R111, R113, 09 R245). -/
def State.gemmAcc (s : State) (b : PBay) (ar : Arith) (d : List Byte) (row col k : Nat) : Acc64 × Cnt :=
  let a := refScaled d 32 64
  let w := refScaled d 40 72
  let acc := refAt d 56
  let n := le d 91 3
  let len := le d 94 3
  let has := decide (dbits d 97 0 1 = 1)
  if a.fmt = fINT8 ∧ w.fmt = fINT8 ∧ ar.strict = false then
    let init := if has then s.intValue b acc n row col else 0
    let prods := (List.range k).map fun i => s.intValue b a len row i * s.intValue b w len col i
    let (x, c) := dotInt ar.ovf init (chunks32 k prods)
    (.int x, c)
  else
    let init := if has then s.value b acc n row col else Val.zero
    if ar.strict then
      let (v, c) := dotStrict ar init ((List.range k).map fun i => (s.value b a len row i, s.value b w len col i))
      (.float v, c)
    else
      let pairs := (List.range k).map fun i =>
        (dotElem ar a.fmt (s.code b a len row i), dotElem ar w.fmt (s.code b w len col i))
      let (v, c) := dotFast ar init (slatesOf pairs fun j =>
        addScales (s.slateScale b a len row (32 * j)) (s.slateScale b w len col (32 * j)))
      (.float v, c)

/-- A GEMM element. -/
def State.gemmElem (s : State) (b : PBay) (ar : Arith) (d : List Byte) (row col : Nat) : Acc64 × Cnt :=
  s.gemmAcc b ar d row col (le d 94 3)

/-- The results of a GEMM sub-tile: each row's valid elements (09 R243, R244). -/
def State.gemmTile (s : State) (ar : Arith) (d : List Byte) (x : SubTile) : Result :=
  let c := refScaled d 48 80
  let n := le d 91 3
  Result.all (List.range x.rows) fun i =>
    let row := x.row + i
    let elems := (List.range x.cols).map fun j => s.gemmElem x.bay ar d row (x.col + j)
    let cnt := elems.foldl (fun t e => (t.plus e.2).plus (e.1.nan ar)) Cnt.none
    (Result.count cnt).then_
      (putValues s x.bay ar (x.route (!ar.strict && decide (le d 94 3 ≠ 0)) row) c n row x.col
        (elems.map fun e => e.1.val))

/-- GEMM: the results by bay. -/
def gemmParts (s : State) (b : PBay) (t : Task) : Parts :=
  let d := t.desc
  let ar := s.arithOfQueue t.queue
  (s.subTiles b t ar (refAt d 32).fmt (refAt d 40).fmt (le d 88 3) (le d 91 3)).map fun x =>
    (x.bay, s.gemmTile ar d x)

/-- GEMM (09 R245): the front task of the bay runs; `e` is what the SECDED codes find in the words that the bay of its
group numbered `member` reads. -/
def execGemm (b : Bay) (member : Nat) (e : Sram) (s : State) : Host.Outcome State Fault Refusal :=
  .next (s.startPlain b opGemm gemmParts member e)

/-! ### Convolution -/

/-- The input element of an output position and K position: its code, or none for padding (07 R179). -/
def State.tapCode (s : State) (b : PBay) (r : Ref) (w : Window) (n group ot oh ow k : Nat) : Option Nat :=
  (w.tapAt n group ot oh ow k).map fun x => s.code b r x.1 x.2.1 x.2.2

/-- The code that a padded tap takes (07 R172, R179): +0, or PADVAL in the input format. -/
def Window.padCode (w : Window) (fmt : Nat) : Nat :=
  if w.padded then padCodeOf fmt w.padVal else 0

/-- The accumulator of a convolution element after the first `k` K positions (07 R177, R178, R185): output channel
`co` at an output position. -/
def State.convAcc (s : State) (b : PBay) (ar : Arith) (d : List Byte) (n co ot oh ow k : Nat) : Acc64 × Cnt :=
  let w := windowOf d
  let r := refAt d 32
  let wt := convWeights d
  let bias := refAt d 56
  let len := w.depth
  let group := co / max (w.co / max w.groups 1) 1
  let has := decide (dbits d 72 0 1 = 1)
  let codes := (List.range k).map fun i =>
    (s.tapCode b r w n group ot oh ow i).getD (w.padCode r.fmt)
  if r.fmt = fINT8 ∧ ar.strict = false then
    let init := if has then ofTwos 32 (Config.intBias (keyOf32 (s.value b bias w.co 0 co))) else 0
    let prods := codes.zipIdx.map fun (c, i) => ofTwos 8 c * s.intValue b wt len co i
    let (x, c) := dotInt ar.ovf init (chunks32 k prods)
    (.int x, c)
  else
    let init := if has then s.value b bias w.co 0 co else Val.zero
    if ar.strict then
      let (v, c) := dotStrict ar init (codes.zipIdx.map fun (c, i) => (decodeElem r.fmt c, s.value b wt len co i))
      (.float v, c)
    else
      let pairs := codes.zipIdx.map fun (c, i) =>
        (dotElem ar r.fmt c, dotElem ar wt.fmt (s.code b wt len co i))
      let (v, c) := dotFast ar init (slatesOf pairs fun j => s.slateScale b wt len co (32 * j))
      (.float v, c)
where
  /-- The FP32 code of a bias. -/
  keyOf32 (v : Val) : Nat := (convertFast fFP32 fp32 true v).1

/-- A convolution element. -/
def State.convElem (s : State) (b : PBay) (ar : Arith) (d : List Byte) (n co ot oh ow : Nat) : Acc64 × Cnt :=
  s.convAcc b ar d n co ot oh ow (windowOf d).depth

/-- A convolution output element in its place (07 R174). -/
def State.convOut (s : State) (b : PBay) (ar : Arith) (rt : Route) (d : List Byte) (n co pos : Nat) : Result :=
  let w := windowOf d
  let (_, oh, ow) := outExtents d
  let t := pos / (oh * ow)
  let h := pos / ow % max oh 1
  let x := pos % max ow 1
  let (v, c) := s.convElem b ar d n co t h x
  (Result.count (c.plus (v.nan ar))).then_
    (putValue b ar rt (refAt d 48) ow (((n * w.co + co) * (outExtents d).1 + t) * oh + h) x v.val)

/-- The entry of a CONV output row names its sample and group with its position. -/
def Work.row (x : Work) (d : List Byte) (i : Nat) : Nat :=
  (x.sample * (windowOf d).groups + x.group) * (convExtents d).1 + x.tile.row + i

/-- CONV: the results by bay. -/
def convParts (s : State) (b : PBay) (t : Task) : Parts :=
  let d := t.desc
  let ar := s.arithOfQueue t.queue
  let chans := (convExtents d).2
  (s.works b t).map fun w =>
    let x := w.tile
    (x.bay, Result.all (List.range x.rows) fun i =>
      Result.all (List.range x.cols) fun j =>
        let rt := x.route (!ar.strict) (w.row d i)
        s.convOut x.bay ar { rt with gutter := fun _ => rt.gutter (x.col + j) } d w.sample
          (w.group * chans + x.col + j) (x.row + i))

/-- CONV (07 R176 to R183, 09 R246). -/
def execConv (r : TaskRun) (s : State) : Host.Outcome State Fault Refusal :=
  .next (s.startPlain r.bay opConv convParts r.member r.sram)

/-- DWCONV: every output element on the Purlin unit of the selecting bay (07 R184, R185; log entry 44). -/
def dwconvParts (s : State) (b : PBay) (t : Task) : Parts :=
  let d := t.desc
  let ar := s.arithOfQueue t.queue
  let w := windowOf d
  let (ot, oh, ow) := outExtents d
  [(b, Result.all (List.range w.ns) fun n =>
    Result.all (List.range w.co) fun co =>
      Result.all (List.range (ot * oh * ow)) fun pos => s.convOut b ar Route.purlin d n co pos)]

/-- DWCONV (07 R184, R185, 09 R246). -/
def execDwconv (r : TaskRun) (s : State) : Host.Outcome State Fault Refusal :=
  .next (s.startPlain r.bay opDwconv dwconvParts r.member r.sram)

end Sys2Proof.Machine
end

