-- ==== Sys2Proof/Machine/Sched.lean ====
section
/-! DEFINITION. Scheduling: queue heads and their watches, the swap pass, selection, the course boundary, the
end of a swap, and doorbells (02 R40 to R47, 11 R311 to R320, 12 R322 to R347, 17 R470). -/

namespace Sys2Proof.Machine

/-! ### Queue heads -/

/-- The descriptor in a slot of a queue's ring (11 R317). -/
def State.descAt (s : State) (e : QueueEntry) (i : Nat) : List Byte :=
  s.peekN (e.ring + i % 2 ^ e.log2 * 128) 128

/-- The backward record that an ATTN descriptor names (09 R224, R252). -/
def State.bwdOf (s : State) (d : List Byte) : List Byte :=
  if dOp d = opAttn ∧ dbits d 108 0 1 = 1 then s.peekN (dbits d 112 0 40) 64 else []

/-- The task at a place of a queue's ring, as its descriptor and backward record stand (09 R224). -/
def State.taskAt (s : State) (q : Nat) (e : QueueEntry) (pos wait : Nat) : Task :=
  let d := s.descAt e pos
  { queue := q, pos := pos, desc := d, bwd := s.bwdOf d, wait := wait }

/-- The task at the head of a queue: the first of those returned to it, else the descriptor at HEAD. A task that
returned is read again at its next selection (09 R224); what it did outside its bays stays done (17 R463). -/
def State.headTask (s : State) (q : Nat) : Option Task :=
  match s.queueEntry q with
  | none => none
  | some e =>
    let v := s.queue q
    match v.rerun with
    | t :: _ => some { s.taskAt q e t.pos t.wait with acted := t.acted, coll := t.coll }
    | [] => if v.head = v.tail then none else some (s.taskAt q e v.head v.wait)

/-- The logical bays of a plan record's group, ascending. -/
def planBays (p : Plan) : List Nat := (List.range 8).filter fun l => bits p.bays l 1 = 1

/-- The bay sequencer that selects a plan record's tasks: the lowest bay of its group (12 R329). -/
def sequencer (p : Plan) : Option Bay := (planBays p).head?.map fun l => ⟨p.die, l⟩

/-- The plan record of a queue's head. A head whose PLAN lies beyond the plan records is run, to be found MALFORMED
(09 R230), by the lowest bay that its context occupies, alone (DESIGN CHOICE, log entry 112). -/
def State.headPlan (s : State) (e : QueueEntry) (d : List Byte) : Option Plan :=
  match s.plan (dPlan d) with
  | some p => some p
  | none =>
    (((List.range 24).flatMap fun die => (List.range 8).map fun l => (⟨die, l⟩ : Bay)).find? fun l =>
      ((s.physical l).any fun b => decide (s.occupant b = some e.ctx))).map fun l =>
        { opcode := 0, die := l.die, bays := 2 ^ l.lbay, forms := 0, budget := 0, pair := none, maxs := [],
          tiles := [], be := e.be }

/-- A head is ready: a task that returned was ready already (log entry 51); one with WAITEN 1 once its
watch has been woken (02 R41, 11 R311). -/
def State.headReady (s : State) (t : Task) : Bool :=
  !(s.queue t.queue).rerun.isEmpty || !dWaitEn t.desc ||
    s.watches.any fun w => decide (w.queue = t.queue ∧ w.woken = true)

/-- An aborted task waits to return to the queue, or a span reset holds it. -/
def State.queueHeld (s : State) (q : Nat) : Bool :=
  (s.bays.any fun e => e.2.aborted.any fun a => a.task.queue = q) ||
    (s.queueEntry q).any fun e => s.transit.spans.contains e.span

/-- A queue's head that is ready, with its plan record. -/
def State.readyHead (s : State) (q : Nat) : Option (Task × Plan) :=
  if s.queueHeld q then none
  else
    match s.queueEntry q, s.headTask q with
    | some e, some t => if s.headReady t then (s.headPlan e t.desc).map fun p => (t, p) else none
    | _, _ => none

/-! ### Watches -/

/-- A WAITEN task at the head of its queue takes a watch of its sequencer; with none free it waits, which
the bay records the first time (11 R311, R312). -/
def State.giveWatch (s : State) (q : Nat) : State :=
  let v := s.queue q
  match s.queueEntry q with
  | none => s
  | some e =>
    if !v.rerun.isEmpty || decide (v.head = v.tail) || s.watches.any (fun w => w.queue = q) then s
    else
      let d := s.descAt e v.head
      match (s.headPlan e d).bind sequencer with
      | none => s
      | some l =>
        if !dWaitEn d then s
        else if (s.watches.filter fun w => w.bay = l).length < 64 then
          let w : Watch := { bay := l, queue := q, peg := dWaitPeg d, thresh := dWaitTh d, ctx := e.ctx,
                             arrived := false, woken := false }
          { s with watches := s.watches ++ [w] }
        else if v.short then s
        else
          let s := s.setQueue q { v with short := true }
          match s.physical l with
          | some b => s.raise (srcBay b) 0x4 0x05 (q + l.lbay * 2 ^ 14)
          | none => s

/-- Every queue of the image, ascending. -/
def State.queueNumbers (s : State) : List Nat :=
  match s.image with
  | some i => List.range i.queues.length
  | none => []

/-- The free watches go to the heads that wait for one, in ascending queue number (11 R312). -/
def State.giveWatches (s : State) : State := s.queueNumbers.foldl State.giveWatch s

/-! ### Ranks and candidates -/

/-- Scheduling registers. -/
def State.beq (s : State) : Nat := s.fld Reg.kpSchedBeq

/-- R470 applies: the clock lies below 1,424 MHz. -/
def State.replan (s : State) : Bool := s.flag Reg.wthPlanReplan

/-- A BE task is guarded (12 R330), unless R470 suspends the guard or the image is exclusive (R345). -/
def State.guarded (s : State) (e : QueueEntry) (t : Task) : Bool :=
  e.be && decide (s.beq ≠ 0 ∧ s.beq ≤ t.wait) && !s.replan && !s.flag Reg.kpSchedExcl

/-- The rank of a ready task in the swap pass (12 R332). Rank 2 does not apply to an occupant's own
tasks (R333). -/
def State.rankOf (s : State) (e : QueueEntry) (t : Task) (own : Bool) : Nat :=
  let hold := s.fld Reg.kpSchedLchold
  if s.guarded e t then 1
  else if e.be then 4
  else if !own && decide (hold ≠ 0 ∧ hold ≤ t.wait) then 2
  else 3

/-- A bay is held by a task that runs across the boundary, by a swap, or by its own fault (12 R326). -/
def State.heldBay (s : State) (b : PBay) : Bool :=
  let v := s.bay b
  v.swap.isSome || v.faulty.isSome || v.off || (s.runningOn b).any Running.slipped

/-- The bays of a plan record's group that stand; none when one of its logical bays is lost. -/
def State.groupBays (s : State) (p : Plan) : Option (List PBay) :=
  let ls := planBays p
  let bs := ls.filterMap fun l => s.physical ⟨p.die, l⟩
  if ls.isEmpty ∨ bs.length ≠ ls.length then none else some bs

/-- No other task of a queue's stream slot is selected or running (12 R326). -/
def State.slotFree (s : State) (e : QueueEntry) : Bool :=
  match e.slot with
  | none => true
  | some n => !s.slotActive n

/-- A queue's head that meets what 12 R326 asks of the task itself, whichever of its bays is looked at: it is a candidate
on each bay of its group that is not held. -/
def State.offered (s : State) (q : Nat) : Option (Task × Plan × List PBay) :=
  match s.queueEntry q, s.readyHead q with
  | some e, some (t, p) =>
    match s.groupBays p with
    | none => none
    | some bs =>
      if (bs.all fun b => decide (s.occupant b = some e.ctx)) && s.slotFree e then some (t, p, bs) else none
  | _, _ => none

/-- A queue's head that is a candidate on a bay (12 R326). -/
def State.candidateOn (s : State) (q : Nat) (b : PBay) : Option Task :=
  match s.offered q with
  | some (t, _, bs) => if bs.contains b && !s.heldBay b then some t else none
  | none => none

/-- A queue's head that may be selected: it is a candidate on every bay of its group (12 R326; log entry 88). -/
def State.candidate (s : State) (q : Nat) : Option (Task × Plan × List PBay) :=
  match s.offered q with
  | some (t, p, bs) => if bs.all fun b => !s.heldBay b then some (t, p, bs) else none
  | none => none

/-! ### The swap pass -/

/-- A task in the order of a swap pass. -/
structure Ranked where
  rank  : Nat
  task  : Task
  entry : QueueEntry
  bays  : List PBay
deriving DecidableEq, Repr

/-- A stands before B (12 R332). -/
def Ranked.before (a b : Ranked) : Bool :=
  decide (a.rank < b.rank ∨ (a.rank = b.rank ∧ (b.task.wait < a.task.wait ∨
    (a.task.wait = b.task.wait ∧ a.task.queue < b.task.queue))))

/-- Puts a task in its place. -/
def place (x : Ranked) (l : List Ranked) : List Ranked :=
  match l with
  | [] => [x]
  | y :: t => if x.before y then x :: y :: t else y :: place x t

/-- The ready tasks of a die whose group holds a bay that another context occupies, in rank order (12 R332). -/
def State.ranked (s : State) (die : Nat) : List Ranked :=
  (s.queueNumbers.filterMap fun q =>
    match s.queueEntry q, s.readyHead q with
    | some e, some (t, p) =>
      if p.die ≠ die then none
      else
        match s.groupBays p with
        | none => none
        | some bs =>
          if bs.any fun b => decide (s.occupant b ≠ some e.ctx) && (s.occupant b).isSome then
            some { rank := s.rankOf e t false, task := t, entry := e, bays := bs }
          else none
    | _, _ => none).foldl (fun l x => place x l) []

/-- The occupant of a bay has a candidate on it of a rank or a better one (12 R333). -/
def State.occupantHolds (s : State) (b : PBay) (rank : Nat) : Bool :=
  s.queueNumbers.any fun q =>
    match s.queueEntry q, s.candidateOn q b with
    | some e, some t => decide (s.rankOf e t true ≤ rank)
    | _, _ => false

/-- A bay may be swapped for a task (12 R333). -/
def State.swappable (s : State) (claimed : List PBay) (rank : Nat) (b : PBay) : Bool :=
  !s.heldBay b && !claimed.contains b && !s.occupantHolds b rank

/-- A granted swap begins on the bays that another context occupies (12 R334). -/
def State.beginSwap (s : State) (r : Ranked) : State :=
  r.bays.foldl (fun (s : State) b =>
    let occ := s.occupant b
    if occ = some r.entry.ctx then s
    else s.setBay b { s.bay b with
      swap := some { out := occ, into := r.entry.ctx, overrun := false, done := false } }) s

/-- The pass over a die's ranked tasks (12 R333): bays claimed and grants made so far. -/
def State.swapOver (s : State) (die : Nat) (claimed : List PBay) (grants : Nat) (l : List Ranked) : State :=
  match l with
  | [] => s
  | r :: t =>
    if r.bays.all fun b => s.swappable claimed r.rank b then
      if grants < s.fld Reg.kpSchedSwapmax then
        State.swapOver (s.beginSwap r) die (claimed ++ r.bays) (grants + 1) t
      else
        State.swapOver (s.raise (srcDie die) 0x5 0x02 (r.task.queue + r.entry.ctx * 2 ^ 14)) die claimed
          grants t
    else s.swapOver die claimed grants t

/-- The swap pass of every die; an exclusive image grants none (12 R332, R345). -/
def State.swapPass (s : State) : State :=
  if s.flag Reg.kpSchedExcl then s
  else (List.range 24).foldl (fun (s : State) die => s.swapOver die [] 0 (s.ranked die)) s

/-! ### Selection -/

/-- The cycles that a bay may fill in a course: 14,289, or the limit of 17 R470. -/
def State.selectLimit (s : State) : Nat :=
  if s.replan then s.fld Reg.kpClockMhz * 1018880 / 100000 - 64 else 14289

/-- The queues of a class in the order of 12 R328: PRIO descending, then queue number. -/
def State.queueOrder (s : State) (be : Bool) : List Nat :=
  match s.image with
  | none => []
  | some i => (List.range 16).reverse.flatMap fun pr =>
      (i.queues.zipIdx.filter fun e => decide (e.1.be = be ∧ e.1.prio = pr)).map Prod.snd

/-- The largest wait counts at a selection (12 R346). -/
def State.noteBayWait (s : State) (b : PBay) (be : Bool) (wait : Nat) : State :=
  let f := if be then Reg.bayWaitmaxBe b else Reg.bayWaitmaxLc b
  s.setFld f (max (s.fld f) (satTo 0xFFFF wait))

/-- Writes a queue's HEAD to its head-report address (11 R320). -/
def State.reportHead (s : State) (b : PBay) (e : QueueEntry) (q : Nat) : State :=
  s.unitWrite (srcBay b) e.headRep ((toLe 4 (s.queue q).head).map some)

/-- The head leaves its queue: one returned to it, or the descriptor at HEAD; HEAD is reported after either (11
R320). -/
def State.takeHead (s : State) (b : PBay) (e : QueueEntry) (q : Nat) : State :=
  let v := s.queue q
  match v.rerun with
  | _ :: rest => (s.setQueue q { v with rerun := rest }).reportHead b e q
  | [] =>
    let s := s.setQueue q { v with head := (v.head + 1) % 2 ^ 32, wait := 0, short := false }
    let s : State := { s with watches := s.watches.filter fun w => w.queue ≠ q }
    s.reportHead b e q

/-- The place of a task in the order in which a bay walks (12 R328): guarded, LC before BE, PRIO descending, queue. -/
def State.walkPlace (s : State) (t : Task) : Nat :=
  match t.guard, s.queueEntry t.queue with
  | true, _ => 0
  | false, some e => ((if e.be then 16 else 0) + (15 - e.prio)) * 16384 + t.queue + 1
  | false, none => 2 ^ 32

/-- A task comes after those of a bay's list that the bay's walk reaches no later (12 R329). -/
def State.enlist (s : State) (t : Task) (l : List Task) : List Task :=
  match l with
  | [] => [t]
  | x :: r => if s.walkPlace x ≤ s.walkPlace t then x :: s.enlist t r else t :: x :: r

/-- The lowest bay of a group selects a candidate; every bay of the group counts it and lists it at the place in
its own order at which it reaches it (12 R328, R329, R346; log entry 139). The new head takes its watch (11 R311). -/
def State.select (s : State) (b : PBay) (e : QueueEntry) (t : Task) (bs : List PBay) : State :=
  let s := s.takeHead b e t.queue
  let s := s.noteBayWait b e.be t.wait
  let s := bs.foldl (fun (s : State) x =>
    let v := s.bay x
    (s.setBay x { v with selected := s.enlist t v.selected }).bump (Reg.baySchedSelected x) 1) s
  s.giveWatch t.queue

/-- Cycles left to select on the eight logical bays of a die. -/
abbrev Left := List Nat

/-- A task's BUDGET fits every bay of its group (12 R328). -/
def fitsLeft (left : Left) (p : Plan) (t : Task) : Bool :=
  (planBays p).all fun l => decide (dBudget t.desc ≤ left.getD l 0)

/-- Takes a task's BUDGET from every bay of its group. -/
def spendLeft (left : Left) (p : Plan) (t : Task) : Left :=
  left.zipIdx.map fun (n, l) => if bits p.bays l 1 = 1 then n - dBudget t.desc else n

/-- A bay takes the head of a queue, and then its new head in the same place, as long as each is a candidate
that fits (12 R328). -/
def State.drawQueue (fuel : Nat) (s : State) (l : Bay) (b : PBay) (q : Nat) (left : Left) : State × Left :=
  match fuel with
  | 0 => (s, left)
  | n + 1 =>
    match s.queueEntry q, s.candidate q with
    | some e, some (t, p, bs) =>
      if sequencer p = some l ∧ fitsLeft left p t = true then
        State.drawQueue n (s.select b e t bs) l b q (spendLeft left p t)
      else (s, left)
    | _, _ => (s, left)

/-- Tasks that a queue holds. -/
def State.queueLength (s : State) (q : Nat) : Nat :=
  let v := s.queue q
  v.rerun.length + (v.tail + 2 ^ 32 - v.head) % 2 ^ 32

/-- A bay walks the queues of a class. -/
def State.drawClass (s : State) (l : Bay) (b : PBay) (be : Bool) (left : Left) : State × Left :=
  (s.queueOrder be).foldl (fun x q => State.drawQueue (x.1.queueLength q) x.1 l b q x.2) (s, left)

/-- The guarded candidate of a bay: the highest wait count, then the lowest queue (12 R330). -/
def State.guardedOf (s : State) (l : Bay) : Option (QueueEntry × Task × Plan × List PBay) :=
  s.queueNumbers.foldl (fun best q =>
    match s.queueEntry q, s.candidate q with
    | some e, some (t, p, bs) =>
      if s.guarded e t && decide (sequencer p = some l) then
        (match best with
         | some (e0, t0, r0) => if t0.wait < t.wait then some (e, t, p, bs) else some (e0, t0, r0)
         | none => some (e, t, p, bs))
      else best
    | _, _ => best) none

/-- A bay takes its guarded task, if it fits (12 R328, R330). -/
def State.drawGuarded (s : State) (l : Bay) (b : PBay) (left : Left) : State × Left :=
  match s.guardedOf l with
  | some (e, t, p, bs) =>
    if fitsLeft left p t then
      ((s.select b e { t with guard := true } bs).bump (Reg.baySwapsGuard b) 1, spendLeft left p t)
    else (s, left)
  | none => (s, left)

/-- The logical bays of a die with a physical bay that is not held, ascending. -/
def State.openBays (s : State) (die : Nat) : List (Bay × PBay) :=
  (List.range 8).filterMap fun l => match s.physical ⟨die, l⟩ with
    | some b => if s.heldBay b then none else some (⟨die, l⟩, b)
    | none => none

/-- The bays of a die select, in ascending logical number (12 R328). Under 17 R470 the best-effort tasks of
the die come after its latency-critical ones. -/
def State.selectDie (s : State) (die : Nat) : State :=
  let left : Left := List.replicate 8 s.selectLimit
  let bays := s.openBays die
  if s.replan then
    let lc := bays.foldl (fun x (l, b) => State.drawClass x.1 l b false x.2) (s, left)
    (bays.foldl (fun x (l, b) => State.drawClass x.1 l b true x.2) lc).1
  else
    (bays.foldl (fun x (l, b) =>
      let x := State.drawGuarded x.1 l b x.2
      let x := State.drawClass x.1 l b false x.2
      State.drawClass x.1 l b true x.2) (s, left)).1

/-- Every ready head that was not selected has waited one boundary window more (12 R330). -/
def State.countWaits (s : State) : State :=
  s.queueNumbers.foldl (fun (s : State) q =>
    match s.readyHead q with
    | none => s
    | some (t, _) =>
      let v := s.queue q
      match v.rerun with
      | _ :: rest => s.setQueue q { v with rerun := { t with wait := t.wait + 1 } :: rest }
      | [] => s.setQueue q { v with wait := v.wait + 1 }) s

/-- Every die selects, and the free watches are given (12 R328, 11 R312). -/
def State.selectAll (s : State) : State :=
  ((List.range 24).foldl State.selectDie s).countWaits.giveWatches

/-! ### The actions of a boundary, in their order (02 R40) -/

/-- The course counter advances (00 R4); a member that heard no beacon in the course has missed one (02
R50). -/
def State.advanceCourse (s : State) : State :=
  let c := s.course
  let member := decide (s.fld Reg.kpBeaconRole = 2)
  let missing := if !member || c.heard then 0 else c.missing + 1
  let good := if c.heard then c.good else 0
  { s with course := { c with count := c.count + 1, phase := 0, heard := false, missing := missing, good := good,
                              beacons := [] } }

/-- A re-planned clock and voltages take effect (17 R469). -/
def State.applyClock (s : State) : State :=
  let s := match s.reliab.mhz with
    | some f =>
      let s := s.setFld Reg.kpClockMhz f
      if 1424 ≤ f then s.setFld Reg.wthPlanReplan 0 else s
    | none => s
  let s := s.reliab.vsteps.foldl (fun (s : State) (die, n) => s.setFld (Reg.wthRailVstep die) n) s
  { s with reliab := { s.reliab with mhz := none, vsteps := [] } }

/-- One pending set becomes live (11 R300, 10 R284). -/
def State.makeLive (s : State) (c : Nat × List (Nat × Word)) : State :=
  c.2.foldl (fun (s : State) w => s.setLive w.1 w.2) s

/-- Pending sets become live, and every quota window restarts (11 R297, R300). The sets that were live in the course
that ends are kept: they judge the requests of the tasks that run across this boundary (02 R45, 11 R304). -/
def State.applyCommits (s : State) : State :=
  let s : State := { s with prev := s.live }
  let s := s.commits.foldl State.makeLive s
  let s : State := { s with commits := [] }
  s.arbs.foldl (fun (s : State) e => s.arbWindowEnd e.1) s

/-- The source that records a die's course mismatch (02 R62): the die common of a Rafter die, the course master for a
die of another kind, which has no die common (02 R53; DEDUCED, log entry 102). -/
def srcMismatch (die : Nat) : Source := if die < 24 then srcDie die else ⟨30, 2⟩

/-- A die whose count disagrees adopts the master's, and records it (02 R36, R62). The record carries the adopted count
(DESIGN CHOICE, log entry 102). -/
def State.adoptCount (s : State) (deviant : List Nat) : State :=
  (deviant.filter fun d => decide (d < 32)).foldl (fun (s : State) d =>
    s.raise (srcMismatch d) 0x1 0x05 (s.course.count.toNat % 2 ^ 24)) s

/-- A swap that has ended gives the bay to the incoming context and is counted; one that still runs has
passed a boundary (12 R334, R335). -/
def State.endSwaps (s : State) : State :=
  s.bays.foldl (fun (s : State) e =>
    let b : PBay := ⟨e.1 / 9, e.1 % 9⟩
    let v := s.bay b
    match v.swap with
    | none => s
    | some w =>
      if w.done then
        ((s.setBay b { v with swap := none }).occupy b (some w.into)).bump (Reg.baySwapsCount b) 1
      else s.setBay b { v with swap := some { w with overrun := true } }) s

/-- Marked lanes are repaired while a link has one of its two spares left (17 R453). -/
def State.repairLanes (s : State) : State :=
  s.reliab.marked.foldl (fun (s : State) x =>
    let used := s.reliab.repaired.filter fun y => decide (y.1 = x.1 ∧ y.2.1 = x.2.1 ∧ y.2.2.1 = x.2.2.1)
    if used.length < 2 then
      let s := s.raise (srcDie x.1) 0x9 0x08 (x.2.1 % 8 + (if x.2.2.1 then 8 else 0))
      { s with reliab := { s.reliab with
        marked := s.reliab.marked.erase x
        repaired := s.reliab.repaired ++ [x]
        sparedMesh := s.reliab.sparedMesh ++ [x] } }
    else s) s

/-- Selected tasks that have not started return to the heads of their queues (DEDUCED from 02 R41 and R43; log
entry 50), and the tasks that still run have slipped (02 R43). A pass that streams goes on over the boundary (05 R126). -/
def State.crossBoundary (s : State) : State :=
  s.bays.foldl (fun (s : State) e =>
    let b : PBay := ⟨e.1 / 9, e.1 % 9⟩
    let s := s.releaseSelected b
    let v := s.bay b
    s.setBay b { v with running := v.running.map fun r => { r with slipped := true } }) s

/-- Clears the count of selected tasks of every bay (12 R346). -/
def State.clearSelected (s : State) : State :=
  s.regs.foldl (fun (s : State) e =>
    let o := e.1 % 0x100000
    if 0x1000000 ≤ e.1 ∧ e.1 < 0x2800000 ∧ o < 0x90000 ∧ o % 0x10000 = 0xE080 then
      s.setFld ⟨e.1, 16, 16⟩ 0
    else s) s

/-- A task runs somewhere. -/
def State.anyRunning (s : State) : Bool := s.bays.any fun e => !e.2.running.isEmpty

/-- Dormer-1: the clocks stop at the first boundary at which no task runs, and run again at the boundary
after an exit (18 R488). -/
def State.dormerBoundary (s : State) : State :=
  if s.transit.entering && !s.anyRunning then
    let s := (s.setFld Reg.kpDormerState 1).setFld Reg.kpDormerBusy 0
    State.raise { s with transit := { s.transit with entering := false } } ⟨30, 2⟩ 0xB 0x05 1
  else if s.transit.leaving then
    let s := (s.setFld Reg.kpDormerState 0).setFld Reg.kpDormerBusy 0
    State.raise { s with transit := { s.transit with leaving := false } } ⟨30, 2⟩ 0xB 0x06 1
  else s

/-- Selection and swaps are stopped: no image runs, or it is being unloaded, a warm reset runs, or a dormer
state (16 R451, 18 R483, R488). -/
def State.stopped (s : State) : Bool :=
  decide (s.fld Reg.kpImgstatState ≠ 3 ∨ s.transit.warm ≠ 0 ∨ s.fld Reg.kpDormerState ≠ 0) || s.transit.entering

/-- Offsets 16 to 63: the swap pass, then selection, which a fatal fault stops (17 R454). A ready head waits through
a boundary window in which nothing is selected as well (12 R330). -/
def State.schedule (s : State) : State :=
  if s.stopped then s.countWaits
  else
    let s := s.swapPass
    if s.reliab.fatal then s.countWaits else s.selectAll

/-- Puts a beacon on a port (14 R401): a control flit on the lowest lane in use, not dealt among the lanes, with the own
count, the ridge count and the time from the boundary to its slot, which the spec leaves free (log entries 29, 123). -/
def State.beaconFlit (s : State) (port : Nat) (own ridge : BitVec 48) : State :=
  let (time, s) := s.takeFree
  let p := s.port port
  let lane := (lanesOf (s.fld (Reg.eavStateLanes port))).headD 0
  s.setPort port { p with
    sent := p.sent ++ [flitBytes 0 15 (p.expect + 4095) 0 0 0
      (Config.controlPayload 2 [own.toNat, ridge.toNat, time % 2 ^ 32])]
    laneOf := p.laneOf ++ [lane] }

/-- Puts a beacon on each of some ports that is UP with the link layer of 14 R384. -/
def State.beaconFlits (s : State) (own ridge : BitVec 48) (ports : List Nat) : State :=
  ports.foldl (fun (s : State) p => if hasLinkLayer p ∧ s.pstate p = 2 then s.beaconFlit p own ridge else s) s

/-- The ridge and every locked member send a beacon with their own count and the ridge count (02 R47,
R52; 14 R401). -/
def State.sendBeacons (s : State) : State :=
  let role := s.fld Reg.kpBeaconRole
  let mask := match s.image.bind Image.cascade with
    | some c => c.downMask
    | none => 0
  let own := s.course.count
  let ridge := if role = 1 then own else own + s.course.ofs
  if role = 1 ∨ (role = 2 ∧ s.flag Reg.kpBeaconLock = true) then
    let ports := (List.range 32).filter fun p => bits mask p 1 = 1
    let s : State := { s with course := { s.course with beacons := ports.map fun p => (p, own.toNat, ridge.toNat) } }
    s.beaconFlits own ridge ports
  else s

/-- The first course after a power loss (18 R494). -/
def State.noteRecovery (s : State) : State :=
  if s.power.lost then
    let s := s.raise ⟨31, 0⟩ 0xB 0x02 (s.fld Reg.flPstatLastuv + 2 * s.fld Reg.flPstatLastop)
    { s with power := { s.power with lost := false } }
  else s

/-- Drops the tasks of the queues that meet a test: running ones are aborted with nothing written, signalled or
re-run, and their transfers are voided; selected and returned ones are forgotten (18 R483). -/
def State.dropTasks (s : State) (mine : Nat → Bool) : State :=
  s.bays.foldl (fun (s : State) e =>
    let b : PBay := ⟨e.1 / 9, e.1 % 9⟩
    let v := s.bay b
    let gone := v.running.filter fun r => mine r.task.queue
    let s := gone.foldl (fun (s : State) r =>
      (s.portsWith r.task.queue).foldl (fun (s : State) p => s.voidQueue p r.task.queue) s) s
    s.setBay b { s.bay b with
      running := v.running.filter fun r => !mine r.task.queue
      selected := v.selected.filter fun t => !mine t.queue
      aborted := v.aborted.filter fun a => !mine a.task.queue }) s

/-- A queue belongs to a span's contexts. -/
def State.inSpan (s : State) (span q : Nat) : Bool :=
  match s.queueEntry q with
  | some e => (s.context e.ctx).any fun c => decide (c.span = span)
  | none => false

/-- The boundary after the write that started a warm or span reset aborts the tasks it reaches (18 R483, R484;
log entry 58). In a warm reset the Underlays then drain and the stacks enter self-refresh (R482). -/
def State.resetBoundary (s : State) : State :=
  let s := s.transit.spans.foldl (fun (s : State) x => s.dropTasks (s.inSpan x)) s
  if s.transit.warm = 1 then
    let s := (s.dropTasks fun _ => true).drainAll
    let s := s.bays.foldl (fun (s : State) e =>
      let b : PBay := ⟨e.1 / 9, e.1 % 9⟩
      s.setBay b { s.bay b with swap := none }) s
    { s with transit := { s.transit with warm := 2, selfRefresh := true } }
  else s

/-- What the Rafter dies do at a boundary; in Dormer-1 they hold their state until the boundary at which they leave it
(18 R487, R488). -/
def State.rafterBoundary (s : State) : State :=
  if s.clocked || s.transit.leaving then s.endSwaps.loftInvalidate.faultBoundary.crossBoundary.clearSelected else s

/-- A course boundary (02 R40). -/
def State.courseBoundary (s : State) (deviant : List Nat) : State :=
  let s := s.advanceCourse.applyClock.applyCommits.sendBeacons
  let s := (s.adoptCount deviant).noteRecovery.rafterBoundary.repairLanes
  s.resetBoundary.dormerBoundary.schedule

/-- COURSE_BOUNDARY (02 R40); `deviant` lists the dies whose count disagrees with the master's. -/
def execCourseBoundary (deviant : List Nat) (s : State) : Host.Outcome State Fault Refusal :=
  .next (if s.up then s.courseBoundary deviant else s)

/-! ### The end of a swap -/

/-- The base of a logical bay's save area, and of its preload area (12 R324). -/
def saveAddr (c : Context) (l : Bay) : Nat := c.saveBase + (8 * l.die + l.lbay) * c.lathSave
def preAddr (c : Context) (l : Bay) : Nat := c.preBase + (8 * l.die + l.lbay) * (c.lathLoad - c.lathSave)

/-- The bytes of a Lath as a list to write. -/
def State.lathBytes (s : State) (b : PBay) (n : Nat) : List (Option Byte) :=
  (List.range n).map fun i => some (s.lathPeek b i)

/-- The outgoing context's bytes are saved; its stale granules among them stay stale (12 R324, 17 R460;
log entry 49). -/
def State.saveLath (s : State) (l : Bay) (b : PBay) (ctx : Nat) : State :=
  match s.context ctx with
  | none => s
  | some c =>
    let stale := (s.bay b).stale.filter fun g => decide (g * granule < c.lathSave)
    let s := s.unitWrite (srcBay b) (saveAddr c l) (s.lathBytes b c.lathSave)
    if stale.isEmpty then s
    else { s with reliab := { s.reliab with
      lostSaves := s.reliab.lostSaves ++ [(ctx, l.die, l.lbay, stale)] } }

/-- The incoming context's Lath: saved bytes, then preloaded ones, then zeros (12 R324, R334). -/
def State.loadLath (s : State) (l : Bay) (b : PBay) (ctx : Nat) : State :=
  match s.context ctx with
  | none => s
  | some c =>
    let n := c.lathLoad - c.lathSave
    let (s, _) := s.noteRead (srcBay b) (saveAddr c l) c.lathSave
    let (s, _) := if n = 0 then (s, false) else s.noteRead (srcBay b) (preAddr c l) n
    let kept := s.memBytes (saveAddr c l) c.lathSave
    let fresh := s.memBytes (preAddr c l) n
    let s := s.lathClear b
    let s := (s.lathWrite b 0 kept).lathWrite b c.lathSave fresh
    let mine := s.reliab.lostSaves.filter fun e => decide (e.1 = ctx ∧ e.2.1 = l.die ∧ e.2.2.1 = l.lbay)
    let s := s.setBay b { s.bay b with stale := (mine.flatMap fun e => e.2.2.2).eraseDups }
    { s with reliab := { s.reliab with lostSaves := s.reliab.lostSaves.filter fun e => !mine.contains e } }

/-- SWAP_COMPLETE (12 R334, R335): the running swap of a bay ends `late` core cycles past the boundary that
it passed, if it passed one. An uncorrectable word of the Lath that it saves faults the bay instead (10 R287). -/
def execSwapComplete (r : TaskRun) (late : Nat) (s : State) : Host.Outcome State Fault Refusal :=
  let l := r.bay
  let e := r.sram
  .next (match s.physical l with
    | none => s
    | some b =>
      match (s.bay b).swap with
      | none => s
      | some w =>
        if w.done ∨ s.clocked = false then s
        else if e.bad.isSome then ((s.bump (Reg.bayEccCorr b) e.corrected).badWord b e.bad).bayFault b 0
        else
          let s := s.bump (Reg.bayEccCorr b) e.corrected
          let s := match w.out with
            | some c => s.saveLath l b c
            | none => s
          let s := s.loadLath l b w.into
          let s := s.setBay b { s.bay b with swap := some { w with done := true } }
          if w.overrun then s.raise (srcBay b) 0x5 0x01 (w.into + satTo 0x3FF (late / 32) * 2 ^ 6) else s)

/-! ### Doorbells -/

/-- A doorbell is refused, for a reason of 11 R321. -/
def State.refuseDoorbell (s : State) (q reason : Nat) : State :=
  s.raise ⟨30, 0⟩ 0x4 0x04 (q + reason * 2 ^ 14)

/-- The doorbell that holds a BAR4 offset (01 R34). -/
def bar4Queue (off : Nat) : Nat := off / 0x40

/-- A BAR4 read returns 0 (01 R34). -/
def State.bar4Read (s : State) : State := { s with resp := .word 0 }

/-- The loaded image binds its queues, from the end of its load until its unload has ended (16 R449, R451). -/
def State.bound (s : State) (queue : Nat) : Option QueueEntry :=
  if s.fld Reg.kpImgstatState = 3 ∨ s.fld Reg.kpImgstatState = 5 then s.queueEntry queue else none

/-- DOORBELL (01 R34, 11 R317 to R319, 16 R450): a BAR4 write, with the bytes from its offset on; those not enabled are
none. While no image binds a queue, every doorbell is refused as not bound. An access without data is BAR4's read (DESIGN
CHOICE, log entry 140); a write whose bytes are all disabled is a doorbell like another. -/
def execDoorbell (off : Nat) (data : List (Option Byte)) (s : State) : Host.Outcome State Fault Refusal :=
  let queue := bar4Queue off
  let read := data.isEmpty
  let data := List.replicate (off % 0x40) none ++ data
  let bs := data.map fun b => b.getD 0
  let tail := le bs 0 4
  let v := s.queue queue
  .next
    (if !s.reach .host ∨ 16384 ≤ queue then s
    else if read then s.bar4Read
    else if s.fld Reg.kpImgstatState ≠ 3 ∧ s.fld Reg.kpImgstatState ≠ 5 then s.refuseDoorbell queue 1
    else if !((List.range 4).all fun i => (data.getD i none).isSome) then s.refuseDoorbell queue 0
    else match s.bound queue with
      | none => s.refuseDoorbell queue 1
      | some e =>
        if 2 ^ e.log2 < (tail + 2 ^ 32 - v.head) % 2 ^ 32 then s.refuseDoorbell queue 2
        else
          let s := if bits (le bs 10 1) 0 1 = 1 then s.addPeg (le bs 8 2) (le bs 12 4) 30 e.ctx else s
          if tail = v.tail then s
          else (s.setQueue queue { s.queue queue with tail := tail }).giveWatch queue)

end Sys2Proof.Machine
end

