-- ==== Sys2Proof/Machine/Reliab.lean ====
section
/-! DEFINITION. The event collector, beacons, ports declared down, fatal faults and the weathering interval
(02 R48 to R61, 14 R392, R402, R415, R416, 17 R453, R454, R465 to R472). -/

namespace Sys2Proof.Machine

/-! ### The event collector -/

/-- The first slot address of the event ring (02 R59: bits [11:0] are ignored). -/
def State.evtBase (s : State) : Nat :=
  (s.fld Reg.evtBaseAddrLo + s.fld Reg.evtBaseHiAddrHi * 2 ^ 32) / 4096 * 4096

/-- A record that is written also goes to the ridge from a member, as an event message in the transit
classes (14 R402); the ridge sits at the origin. -/
def State.tellRidge (s : State) (r : EventRec) : State :=
  if s.fld Reg.kpBeaconRole = 2 then
    match s.route none 0 0 with
    | some port =>
      let m : Msg := { mtype := 5, ctx := 0, tag := 0, dest := 0, src := s.ownCoord, collseq := 0, offset := 0, len := 16,
                       data := r.toBytes }
      s.sendMsg port (s.leavesAs port none m) none m
    | none => s
  else s

/-- The event ring is full (02 EVT_READ). -/
def State.evtFull (s : State) : Bool :=
  decide ((s.fld Reg.evtWriteIndex + 2 ^ 32 - s.fld Reg.evtReadIndex) % 2 ^ 32 = 2 ^ s.fld Reg.evtSizeLog2)

/-- The collector writes a record into the ring before it advances EVT_WRITE, or discards it and counts it
(02 R57, R59). -/
def State.ringRecord (s : State) (r : EventRec) : State :=
  if s.flag Reg.evtCtlEn && !s.evtFull then
    let slot := s.fld Reg.evtWriteIndex % 2 ^ s.fld Reg.evtSizeLog2
    let s := s.memPut ⟨30, 3⟩ (s.evtBase + slot * 16) r.toBytes
    (s.step1 Reg.evtWriteIndex).tellRidge r
  else s.bump Reg.evtLostCount 1

/-- The buffered records enter the ring in arrival order, once the stacks have left self-refresh (02
R61). -/
def State.flushBuffer (s : State) : State :=
  if s.transit.selfRefresh then s
  else State.evtBuf s |>.foldl State.ringRecord { s with evtBuf := [] }

/-- A record reaches the collector (02 R57, R59, R61). -/
def State.collect (s : State) (r : EventRec) : State :=
  if s.transit.selfRefresh then
    if s.flag Reg.evtCtlEn && decide (s.evtBuf.length < 64) then { s with evtBuf := s.evtBuf ++ [r] }
    else s.bump Reg.evtLostCount 1
  else s.flushBuffer.ringRecord r

/-- EVENT_RECORD (02 R55, R57): the oldest record that a source has raised reaches the collector, behind what its die's
ligger node holds in a higher class (01 R21). While the Kingpost does not run it is lost (R58). -/
def execEventRecord (src : Source) (s : State) : Host.Outcome State Fault Refusal :=
  .next (match s.raised.find? fun r => r.src = src with
    | none => s
    | some r =>
      let s : State := { s with raised := s.raised.erase r }
      if s.up then (s.liggerAhead src.die .event).collect r else s)

/-- EVENT_BUFFER_FLUSH (02 R61). -/
def execEventBufferFlush (s : State) : Host.Outcome State Fault Refusal :=
  .next (if s.up then s.flushBuffer else s)

/-! ### Beacons -/

/-- A number held in 16 bits of two's complement, saturating (02 KP_BEACON.ERROR). -/
def sat16 (x : Int) : Nat := toTwos 16 (max (-0x8000) (min 0x7FFF x))

/-- The boundary error of a beacon in units of 0.125 ns: the carried time and half the round trip are taken off the time
of its arrival (02 R48, 14 R401). A beacon later than the own boundary makes a positive error (DESIGN CHOICE, log entry
129). -/
def beaconError (rtt : Nat) (time : BeaconTime) : Int := time.arrived - time.carried - (4 * rtt : Nat)

/-- BEACON_RECEIVE (02 R48, R49, R52): a beacon arrives on the upstream port. KP_BEACON.ERROR holds its error in ns,
rounded down (DESIGN CHOICE, log entry 103). A beacon later than the own boundary slows the reference, an earlier one
speeds it up; by how much within ±100 ppm is open (log entry 52). -/
def execBeaconReceive (port _count ridge : Nat) (time : BeaconTime) (s : State) :
    Host.Outcome State Fault Refusal :=
  .next
    (if s.up && decide (s.fld Reg.kpBeaconRole = 2 ∧ port = s.fld Reg.kpBeaconUpport) then
      let error := beaconError (s.fld (Reg.eavRttNs port)) time
      let near := decide (-160 ≤ error ∧ error ≤ 160)
      let (v, s) := s.takeFree
      let c := s.course
      let s := s.setFld Reg.kpBeaconError (sat16 (error.fdiv 8))
      { s with course := { c with
        ofs := BitVec.ofNat 48 ridge - c.count
        trim := if error = 0 then c.trim else if 0 < error then -((v % 101 : Nat) : Int) else ((v % 101 : Nat) : Int)
        good := if near then c.good + 1 else 0
        heard := true } }
    else s)

/-- BEACON_LOCK (02 R49): 16 consecutive courses within ±20 ns. -/
def execBeaconLock (s : State) : Host.Outcome State Fault Refusal :=
  .next
    (if s.up && decide (s.fld Reg.kpBeaconRole = 2 ∧ s.fld Reg.kpBeaconLock = 0 ∧ 16 ≤ s.course.good) then
      (s.setFld Reg.kpBeaconLock 1).raise ⟨30, 2⟩ 0x1 0x04 (s.fld Reg.kpBeaconError)
    else s)

/-- BEACON_LOST (02 R50): 4 consecutive beacons have failed to arrive; the trim holds. -/
def execBeaconLost (s : State) : Host.Outcome State Fault Refusal :=
  .next
    (if s.up && decide (s.fld Reg.kpBeaconRole = 2 ∧ 4 ≤ s.course.missing) then
      let s : State := { s with course := { s.course with good := 0 } }
      (s.setFld Reg.kpBeaconLock 0).raise ⟨30, 2⟩ 0x1 0x03 (s.fld Reg.kpBeaconUpport)
    else s)

/-! ### Ports declared down -/

/-- The endpoint moves to the other host port with its data-link sequence numbers and its replay buffer, which it sends
again there (14 R415). -/
def State.moveEndpoint (s : State) (port : Nat) : State :=
  let other := 57 - port
  let p := s.port port
  let s := s.setPort other { s.port other with
    nextSeq := p.nextSeq, expect := p.expect, unacked := p.unacked, nak := p.nak, linked := p.linked }
  let s := s.setPort port { p with unacked := [], linked := false }
  let s : State := { s with hostPort := other }
  if s.pstate other = 2 then s.resend other else s

/-- The data-link layer of the endpoint reports the link down and discards its replay buffer (14 R416). -/
def State.linkDown (s : State) (port : Nat) : State :=
  s.setPort port { s.port port with unacked := [], nextSeq := 0, expect := 0, nak := false, linked := false }

/-- The host port that the endpoint uses is declared DOWN (14 R415, R416): without FAILOVER it stays, with its configuration
space; else it moves, where it can; the event names the port left (DEDUCED, log entry 124). With no port to go to, the
link is lost, which resets the configuration space (18 R481; DEDUCED, log entry 142). -/
def State.failOver (s : State) (port : Nat) : State :=
  if port ≠ s.hostPort ∨ isHostPort port = false then s
  else if s.flag Reg.kpFeatstatLocked = true ∧ s.agreed 3 2 = false then s.linkDown port
  else if port = 28 then State.portEvent (s.moveEndpoint port) port 0x0A 0
  else if s.pstate 28 = 2 then s.moveEndpoint port
  else State.linkDown { s with hostCfg := HostCfg.reset } port

/-- A port is declared DOWN (14 R392): its flits are voided, its transfers fail, and what waits for it, messages in transit
among them, is discarded. -/
def State.portDown (s : State) (port : Nat) : State :=
  let p := s.port port
  let voided := if isHostPort port then [] else p.unacked.filter fun f => decide (f.typ ≠ 8)
  let s := p.waiting.foldl (fun (s : State) w => match w.via with
    | some (came, m) => s.leaveMsg came m
    | none => s) s
  let s := if isHostPort port then s
    else State.dropPart (s.setPort port { s.port port with unacked := [], waiting := [], out := [], early := 0 }) port
  let s := (s.bump (Reg.eavTagVoid port) voided.length).setFld (Reg.eavStateState port) 4
  ((s.portEvent port 0x03 0).failTransfers port).failOver port

/-- REPLAY_TIMEOUT (14 R392, R394, R415, R416): 4 ms in REPLAY. -/
def execReplayTimeout (port : Nat) (s : State) : Host.Outcome State Fault Refusal :=
  .next (if s.pstate port = 3 then s.portDown port else s)

/-! ### Links of the mesh and fatal faults -/

/-- MESH_LANE_MARK (17 R453): a lane waits for repair at the next boundary. -/
def execMeshLaneMark (die link lane : Nat) (ligger : Bool) (s : State) : Host.Outcome State Fault Refusal :=
  let x := (die, link, ligger, lane)
  .next
    (if !s.up || decide (x ∈ s.reliab.marked ∨ x ∈ s.reliab.repaired) then s
    else { s with reliab := { s.reliab with marked := s.reliab.marked ++ [x] } })

/-- Some link carries more failing lanes than it has spares, and is left down (17 R453). -/
def meshDown (t : MeshTest) : Bool :=
  t.failed.eraseDups.any fun x => decide (2 < (t.failed.eraseDups.filter fun y =>
    decide (y.1 = x.1 ∧ y.2.1 = x.2.1 ∧ y.2.2.1 = x.2.2.1)).length)

/-- The links train: every lane is tested afresh, and those that fail are marked; the fatal state clears (17 R453,
R454). -/
def State.trainMesh (s : State) (t : MeshTest) : State :=
  { s with reliab := { s.reliab with marked := t.failed.eraseDups, repaired := [], fatal := false } }

/-- Lanes of a link that have needed a spare: marked or repaired. -/
def State.lanesSpent (s : State) (die : Nat) (ligger : Bool) : Nat :=
  (List.range 4).foldl (fun n link =>
    max n (((s.reliab.marked ++ s.reliab.repaired).filter fun x =>
      decide (x.1 = die ∧ x.2.1 = link ∧ x.2.2.1 = ligger)).length)) 0

/-- FATAL_FAULT (17 R454, R473, 19 FL_ALERT): kind 0 a mesh link, 1 a ligger link that needs a third spare
lane, 2 a die that does not answer. -/
def execFatalFault (die kind : Nat) (s : State) : Host.Outcome State Fault Refusal :=
  .next
    (if s.up && (decide (kind = 2) || decide (kind < 2 ∧ 3 ≤ s.lanesSpent die (kind = 1))) then
      let s : State := { s with reliab := { s.reliab with fatal := true } }
      (s.setFld Reg.flAlertFatal 1).raise ⟨30, 4⟩ 0x9 0x09 (die % 32 + kind * 2 ^ 5)
    else s)

/-! ### Weathering -/

/-- Slack of a bay in the readings. -/
def slackOf (r : Readings) (b : PBay) : Option Int := (r.slack.find? fun x => x.1 = b).map Prod.snd

/-- The worst slack of the in-service bays of a die, without those that are being retired. -/
def State.dieSlack (s : State) (r : Readings) (die : Nat) (without : List PBay) : Option Int :=
  ((List.range 8).filterMap fun l => s.physical ⟨die, l⟩).foldl (fun m b =>
    if without.contains b then m
    else match slackOf r b, m with
      | some x, some y => some (min x y)
      | some x, none => some x
      | none, m => m) none

/-- Slack that one voltage step gives a die. -/
def gainOf (r : Readings) (die : Nat) : Int := ((r.gain.find? fun x => x.1 = die).map Prod.snd).getD 0

/-- Voltage steps of a die after the re-plan: the fewest, up to 6 in all, that leave it 25 ps (17
R467). -/
def stepsOf (have_ : Nat) (slack gain : Int) : Nat :=
  ((List.range 7).find? fun n => decide (have_ ≤ n ∧ 25 ≤ slack + gain * ((n - have_ : Nat) : Int))).getD
    (max have_ 6)

/-- The plan of an interval: steps by die. -/
def State.planSteps (s : State) (r : Readings) : List (Nat × Nat) :=
  (List.range 24).filterMap fun die => (s.dieSlack r die []).map fun x =>
    (die, stepsOf (s.fld (Reg.wthRailVstep die)) x (gainOf r die))

/-- Slack of a bay or die after its voltage steps. -/
def State.raised_ (s : State) (r : Readings) (steps : List (Nat × Nat)) (die : Nat) (x : Int) : Int :=
  x + gainOf r die * ((Store.get steps die 0 - s.fld (Reg.wthRailVstep die) : Nat) : Int)

/-- A slack of `x` ps at `f` MHz is at least `want` ps at `g` MHz: the period grows by 10^6 × (1 / g − 1 / f)
ps (DEDUCED from 17 R467; log entry 54). -/
def slackAt (x : Int) (f g : Nat) (want : Int) : Bool :=
  decide (want * ((f * g : Nat) : Int) ≤ x * ((f * g : Nat) : Int) + 1000000 * ((f : Int) - (g : Int)))

/-- Every die keeps a slack at a clock. -/
def State.allKeep (s : State) (r : Readings) (steps : List (Nat × Nat)) (without : List PBay) (f g : Nat)
    (want : Int) : Bool :=
  (List.range 24).all fun die => match s.dieSlack r die without with
    | some x => slackAt (s.raised_ r steps die x) f g want
    | none => true

/-- The bays that lack 25 ps at the planned clock after the voltage steps. -/
def State.lacking (s : State) (r : Readings) (steps : List (Nat × Nat)) : List PBay :=
  (List.range 24).flatMap fun die => ((List.range 8).filterMap fun l => s.physical ⟨die, l⟩).filter fun b =>
    match slackOf r b with
    | some x => decide (s.raised_ r steps die x < 25)
    | none => false

/-- The clock of the plan (17 R467, R471): the highest step down that keeps 25 ps, at least 1,280 MHz; one
step up when 40 ps remain. -/
def State.planClock (s : State) (r : Readings) (steps : List (Nat × Nat)) (without : List PBay) (f : Nat) : Nat :=
  if s.allKeep r steps without f f 25 then
    (if f < 1600 ∧ s.allKeep r steps without f (f + 16) 40 = true then f + 16 else f)
  else
    ((List.range 21).map fun n => f - 16 * n).find? (fun g => decide (1280 ≤ g) && s.allKeep r steps without f g 25)
      |>.getD 1280

/-- The die with the least slack. -/
def State.worstDie (s : State) (r : Readings) (steps : List (Nat × Nat)) : Nat :=
  ((List.range 24).foldl (fun (m : Option (Nat × Int)) die => match s.dieSlack r die [], m with
    | some x, some (d, y) =>
      if s.raised_ r steps die x < y then some (die, s.raised_ r steps die x) else some (d, y)
    | some x, none => some (die, s.raised_ r steps die x)
    | none, m => m) none).map Prod.fst |>.getD 0

/-- The planned clock: that in force, or the one waiting for a boundary. -/
def State.plannedMhz (s : State) : Nat := s.reliab.mhz.getD (s.fld Reg.kpClockMhz)

/-- The margin re-plan (17 R467 to R471). -/
def State.replanMargins (s : State) (r : Readings) : State :=
  let f := s.plannedMhz
  let steps := s.planSteps r
  let lone := match s.lacking r steps with
    | [b] => if (s.spareOf b.die).isSome && !s.spareTaken b.die then [b] else []
    | _ => []
  let g := s.planClock r steps lone f
  let endMargin := !s.allKeep r steps lone f g 25
  let changed := decide (g ≠ f) || steps.any fun x => decide (x.2 ≠ s.fld (Reg.wthRailVstep x.1))
  let worst := s.worstDie r steps
  let fstep := (1600 - g) / 16
  let s : State := { s with reliab := { s.reliab with mhz := some g, vsteps := steps } }
  let s := s.setFld Reg.wthPlanFstep fstep
  let s := if changed then s.raise ⟨30, 2⟩ 0xA 0x01 fstep else s
  let s := if g < 1424 ∧ g ≠ f then (s.setFld Reg.wthPlanReplan 1).raise ⟨30, 2⟩ 0xA 0x02 fstep else s
  let s := if endMargin then (s.setFld Reg.wthPlanEndmargin 1).raise ⟨30, 2⟩ 0xA 0x03 worst else s
  lone.foldl (fun (s : State) b => s.bayFault b 3) s

/-- Readings that change no plan (17 R472). -/
def State.noteReadings (s : State) (r : Readings) : State :=
  let s := (r.laser.filter fun x => decide (90 < x.2)).foldl (fun (s : State) x =>
    s.raise ⟨24 + x.1, 8⟩ 0xA 0x04 (x.2 % 128)) s
  let s := (r.rx.filter fun x => decide (x.2.2 < -90)).foldl (fun (s : State) x =>
    s.raise (srcPort x.1) 0xA 0x05 (x.2.1 % 16)) s
  (r.eye.filter fun x => decide (x.2.2.1 < 60)).foldl (fun (s : State) x =>
    s.raise (srcCtl x.1) 0xA 0x06 (x.2.1 % 64)) s

/-- The latest slack of each bay (17 WTH_BAYb). -/
def State.noteSlack (s : State) (r : Readings) : State :=
  (r.slack.filter fun x => x.1.wf).foldl (fun (s : State) x =>
    s.setFld (Reg.wthBaySlack x.1.die x.1.pbay) (toTwos 12 x.2)) s

/-- WEATHERING_INTERVAL_END (17 R466 to R472, 18 R491, 10 R290): after every 2^20 courses. When both copies
fail to write, the plan in force stays. In Dormer-2 the record holds no bay readings. -/
def execWeatheringIntervalEnd (r : Readings) (s : State) : Host.Outcome State Fault Refusal :=
  .next
    (if !s.up || decide (s.course.count.toNat % 2 ^ 20 ≠ 0 ∨ s.course.count = 0) then s
    else
      let s : State := { s with reliab := { s.reliab with pageCorr := [] } }
      let s := if s.transit.diesOff then s else s.noteSlack r
      let s := if r.copy0 || r.copy1 then
          let s := s.setFld Reg.wthPlanFactory 0
          let s : State := { s with reliab := { s.reliab with
            records := s.reliab.records ++
              [(s.course.count.toNat, if s.transit.diesOff then { r with slack := [] } else r)] } }
          if s.transit.diesOff then s else s.replanMargins r
        else s.raise ⟨31, 1⟩ 0xA 0x07 0
      s.noteReadings r)

end Sys2Proof.Machine
end

