-- ==== Sys2Proof/Machine/Writes.lean ====
section
/-! DEFINITION. Writes of the registers that the units named here own: by access code, and the rows
of the course clock, the aperture, the pegs, the event rings, the arbiters and the Underlay. -/

namespace Sys2Proof.Machine

/-- The word of one field after a write (00 R9, R10, 03 R90): `added` is what a counting field counts
in the same cycle, `hwSet` the bits that hardware sets in the same cycle, `unlocked` that service
access is open. -/
def writeField (f : FieldSpec) (old value hwSet added : Nat) (unlocked : Bool) : Nat :=
  let o := bits old f.lo f.width
  let v := bits value f.lo f.width
  let n := match f.acc with
    | .ro => o
    | .rw => if f.cnt then satTo (2 ^ f.width - 1) (v + added) else v
    | .rws => v
    | .w1c => (List.range f.width).foldl (fun w i =>
        let set := bits hwSet (f.lo + i) 1 = 1 ∨ (bits o i 1 = 1 ∧ bits v i 1 = 0)
        w + (if set then 2 ^ i else 0)) 0
    | .wo => o
    | .rwl => if unlocked then v else o
  n * 2 ^ f.lo

/-- The word of a register after a write. `added` lists the counts of the counting fields in the
order of the register's fields. -/
def writeWord (fs : List FieldSpec) (old value hwSet : Nat) (added : List Nat) (unlocked : Bool) : Nat :=
  match fs with
  | [] => 0
  | f :: rest =>
    if f.cnt then
      writeField f old value hwSet (added.headD 0) unlocked +
        writeWord rest old value hwSet added.tail unlocked
    else writeField f old value hwSet 0 unlocked + writeWord rest old value hwSet added unlocked

/-- A write by access code to a populated register (00 R9). A register with an RWL field ignores the
write while service access is closed, with an access-refused event. -/
def State.writeCode (s : State) (p : Path) (off : Nat) (value hwSet : Nat) (added : List Nat) : State :=
  match RegMap.at? off with
  | none => s
  | some r =>
    let locked := !s.service && r.fields.any fun f => decide (f.acc = .rwl)
    let s := s.setReg off (BitVec.ofNat 32
      (writeWord r.fields (s.reg off).toNat value hwSet added s.service))
    if locked then s.accessEvent p 0x0A off else s

/-- The management bus when the host port writes, and the other way round: the only second writer of
a cycle (00 R11). -/
def otherPath : Path → Path
  | .host => .bus
  | .bus => .host

/-- COUNTER_FIELD_WRITE (03 R90): the written value plus what is counted in the same cycle, saturated. -/
def execCounterFieldWrite (p : Path) (off : Nat) (value : Word) (added : List Nat) (s : State) :
    Host.Outcome State Fault Refusal :=
  .next (s.access p off fun s => s.writeCode p off value.toNat 0 added)

/-- W1C_CLEAR (00 R9, R10). -/
def execW1cClear (p : Path) (off : Nat) (value hwSet : Word) (s : State) :
    Host.Outcome State Fault Refusal :=
  .next (s.access p off fun s => s.writeCode p off value.toNat hwSet.toNat [])

/-- CLOCK_SPREAD_WRITE (02 R37, 00 R9): refused while service access is closed. The profile's phase
follows from the course count and REF alone, so that rejoining it changes only SPREAD. -/
def execClockSpreadWrite (p : Path) (value : Word) (s : State) : Host.Outcome State Fault Refusal :=
  .next (s.access p Reg.kpClockSpread.off fun s =>
    s.writeCode p Reg.kpClockSpread.off value.toNat 0 [])

/-- A write of KP_APERTURE (01 R31). -/
def State.writeAperture (s : State) (p : Path) (value : Nat) : State :=
  if bits value 0 8 ≤ 0xBF then s.setFld Reg.kpApertureBase value
  else s.accessEvent p 0x07 Reg.kpApertureBase.off

/-- APERTURE_WRITE (01 R31, R32): BAR2 requests and this write take effect in the order received. -/
def execApertureWrite (p : Path) (value : Word) (s : State) : Host.Outcome State Fault Refusal :=
  .next (s.access p Reg.kpApertureBase.off fun s => s.writeAperture p value.toNat)

/-- PEG_COUNT_WRITE (11 R306, R309, R311): a ligger operation of the same cycle applies first. -/
def execPegCountWrite (p : Path) (peg : Nat) (value : Word) (ligger : Option PegMsg) (s : State) :
    Host.Outcome State Fault Refusal :=
  let s := match ligger with
    | some m => if s.up then s.sendPeg peg m else s
    | none => s
  .next (s.access p (Reg.pegCountCount peg).off fun s => s.setPeg peg value.toNat)

/-! ### The event rings -/

/-- A write of EVT_BASE, EVT_SIZE or their cascade counterparts (02 R59): refused while the ring is
enabled, and EVT_SIZE outside 0x08 to 0x14. -/
def State.writeRing (s : State) (p : Path) (off value : Nat) (enabled isSize : Bool) : State :=
  if enabled then s.accessEvent p 0x07 off
  else if isSize ∧ ¬(0x08 ≤ bits value 0 5 ∧ bits value 0 5 ≤ 0x14) then s.accessEvent p 0x07 off
  else s.writeCode p off value 0 []

/-- A write of EVT_READ or EVT_CREAD (02 R60). -/
def State.writeRead (s : State) (p : Path) (read write size : Field) (value : Nat) : State :=
  if (s.fld write + (2 ^ 32 - value % 2 ^ 32)) % 2 ^ 32 ≤ 2 ^ s.fld size then s.setFld read value
  else s.accessEvent p 0x07 read.off

/-- A write of one enable bit of EVT_CTL (02 R59): enabling a disabled ring sets its two counts to 0. -/
def State.writeEnable (s : State) (en write read : Field) (on : Bool) : State :=
  if on && !s.flag en then ((s.setFld write 0).setFld read 0).setFld en 1
  else s.setFlag en on

/-- A write of EVT_CTL (02 R59). -/
def State.writeEvtCtl (s : State) (en cen : Bool) : State :=
  (s.writeEnable Reg.evtCtlEn Reg.evtWriteIndex Reg.evtReadIndex en).writeEnable
    Reg.evtCtlCen Reg.evtCwriteIndex Reg.evtCreadIndex cen

/-- EVT_READ_WRITE (02 R60). -/
def execEvtReadWrite (p : Path) (value : Word) (s : State) : Host.Outcome State Fault Refusal :=
  .next (s.access p Reg.evtReadIndex.off fun s =>
    s.writeRead p Reg.evtReadIndex Reg.evtWriteIndex Reg.evtSizeLog2 value.toNat)

/-- EVT_CREAD_WRITE (02 R60). -/
def execEvtCreadWrite (p : Path) (value : Word) (s : State) : Host.Outcome State Fault Refusal :=
  .next (s.access p Reg.evtCreadIndex.off fun s =>
    s.writeRead p Reg.evtCreadIndex Reg.evtCwriteIndex Reg.evtCsizeLog2 value.toNat)

/-- EVT_RING_ENABLE (02 R59): EVT_CTL written with EN 1 and CEN as given. -/
def execEvtRingEnable (p : Path) (cen : Bool) (s : State) : Host.Outcome State Fault Refusal :=
  .next (s.access p Reg.evtCtlEn.off fun s => s.writeEvtCtl true cen)

/-- EVT_RING_DISABLE (02 R59): EVT_CTL written with EN 0 and CEN as given. -/
def execEvtRingDisable (p : Path) (cen : Bool) (s : State) : Host.Outcome State Fault Refusal :=
  .next (s.access p Reg.evtCtlEn.off fun s => s.writeEvtCtl false cen)

/-- EVT_CASCADE_ENABLE (02 R59): EVT_CTL written with CEN 1 and EN as given. -/
def execEvtCascadeEnable (p : Path) (en : Bool) (s : State) : Host.Outcome State Fault Refusal :=
  .next (s.access p Reg.evtCtlEn.off fun s => s.writeEvtCtl en true)

/-- EVT_CASCADE_DISABLE (02 R59): EVT_CTL written with CEN 0 and EN as given. -/
def execEvtCascadeDisable (p : Path) (en : Bool) (s : State) : Host.Outcome State Fault Refusal :=
  .next (s.access p Reg.evtCtlEn.off fun s => s.writeEvtCtl en false)

/-! ### Shadow registers and commits -/

/-- The RWS words of an arbiter block, by their offsets in it (11 R305). -/
def arbShadows : List Nat :=
  [0x00, 0x04, 0x08, 0x10, 0x14, 0x18, 0x1C, 0x20, 0x24, 0x28, 0x2C, 0x40] ++
    (List.range 64).map fun k => 0x100 + 4 * k

/-- Puts a pending set in the place of any earlier one of the same block (11 R300). -/
def State.putCommit (s : State) (blk : Nat) (words : List (Nat × Word)) : State :=
  { s with commits := (s.commits.filter fun e => e.1 ≠ blk) ++ [(blk, words)] }

/-- The level and limit of a lane in the shadow set. -/
def State.shadowLane (s : State) (blk lane : Nat) : Nat × Nat :=
  if lane < 16 then
    (bits (s.fld (Reg.vlyPrioLcLevel blk)) (2 * lane) 2,
     bits (s.fld (Reg.vlyQlimLcLimit blk (lane / 4))) (8 * (lane % 4)) 8)
  else
    (bits (s.fld (Reg.vlyPrioBeLevel blk)) (2 * (lane - 16)) 2,
     bits (s.fld (Reg.vlyQlimBeLimit blk ((lane - 16) / 4))) (8 * (lane % 4)) 8)

/-- The shadow set meets a condition of 11 R298, so that its commit is refused. -/
def State.commitBad (s : State) (blk : Nat) : Bool :=
  let window := s.fld (Reg.vlyQuotaWindow blk)
  let upper := ((List.range 32).map fun l => s.shadowLane blk l).filter fun x => decide (1 ≤ x.1)
  decide (window < 0x040 ∨ 0xFFF < window) || (upper.any fun x => decide (x.2 = 0)) ||
    decide (window < upper.foldl (fun n x => n + x.2) 0 + 32)

/-- A write of an RWS register of an arbiter (11 R305). -/
def State.writeShadow (s : State) (p : Path) (off value : Nat) : State :=
  if s.expert then s.writeCode p off value 0 [] else s.accessEvent p 0x0A off

/-- A write of 1 to VLY_COMMIT.GO (11 R298, R300, R305). -/
def State.writeVlyCommit (s : State) (p : Path) (blk : Nat) : State :=
  let off := (Reg.vlyCommitGo blk).off
  if !s.expert then s.accessEvent p 0x0A off
  else if s.commitBad blk then s.accessEvent p 0x07 off
  else s.putCommit blk (arbShadows.map fun o => (blk + o, s.reg (blk + o)))

/-- The fields of UND_GROUP lie in their ranges (10 R284). -/
def undGroupOk (v : Nat) : Bool :=
  decide (1 ≤ bits v 1 7 ∧ 1 ≤ bits v 8 8 ∧ 1 ≤ bits v 16 9 ∧ bits v 16 9 ≤ 0x100)

/-- A write of UND_GROUP (10 R284). -/
def State.writeUndGroup (s : State) (p : Path) (die value : Nat) : State :=
  let off := (Reg.undGroupEn die).off
  if !s.expert then s.accessEvent p 0x0A off
  else if undGroupOk value then s.writeCode p off value 0 []
  else s.accessEvent p 0x07 off

/-- A write of 1 to UND_COMMIT.GO (10 R284). -/
def State.writeUndCommit (s : State) (p : Path) (die : Nat) : State :=
  let off := (Reg.undGroupEn die).off
  if !s.expert then s.accessEvent p 0x0A (Reg.undCommitGo die).off
  else s.putCommit off [(off, s.reg off)]

/-- VLY_SHADOW_WRITE (11 R305). -/
def execVlyShadowWrite (p : Path) (off : Nat) (value : Word) (s : State) :
    Host.Outcome State Fault Refusal :=
  .next (s.access p off fun s => s.writeShadow p off value.toNat)

/-- VLY_COMMIT (11 R300, 00 R11): a shadow write that the other path brings in the same cycle, given
as offset in the block and value, waits for the next commit. -/
def execVlyCommit (p : Path) (blk : Nat) (same : Option (Nat × Word)) (s : State) :
    Host.Outcome State Fault Refusal :=
  let s := s.access p (Reg.vlyCommitGo blk).off fun s => s.writeVlyCommit p blk
  .next (match same with
    | some (o, v) => s.access (otherPath p) (blk + o) fun s => s.writeShadow (otherPath p) (blk + o) v.toNat
    | none => s)

/-- UND_GROUP_WRITE (10 R284). -/
def execUndGroupWrite (p : Path) (die : Nat) (value : Word) (s : State) :
    Host.Outcome State Fault Refusal :=
  .next (s.access p (Reg.undGroupEn die).off fun s => s.writeUndGroup p die value.toNat)

/-- UND_COMMIT (10 R284, 00 R11): a write of UND_GROUP that the other path brings in the same cycle
waits for the next commit. -/
def execUndCommit (p : Path) (die : Nat) (same : Option Word) (s : State) :
    Host.Outcome State Fault Refusal :=
  let s := s.access p (Reg.undCommitGo die).off fun s => s.writeUndCommit p die
  .next (match same with
    | some v => s.access (otherPath p) (Reg.undGroupEn die).off fun s =>
        s.writeUndGroup (otherPath p) die v.toNat
    | none => s)

end Sys2Proof.Machine
end

