-- ==== Sys2Proof/Machine/Image.lean ====
section
/-! DEFINITION. A Thatch image in module memory: its header, its sections and their entries, and the checks of
codes 0x01 to 0x03 (16 R440 to R443, R446, R518). The layouts of entries that the manual names without places
are the model's (log entry 14). -/

namespace Sys2Proof.Machine

/-- A refusal of an image: code, section and entry (16 R446, R518). -/
structure Refuse where
  code  : Nat
  sect  : Nat
  entry : Nat
deriving DecidableEq, Repr

/-- The first of two refusals. -/
def orThen (a b : Option Refuse) : Option Refuse :=
  match a with
  | some r => some r
  | none => b

/-- A section table entry (16 R440). -/
structure Sect where
  typ    : Nat
  offset : Nat
  bytes  : Nat
  count  : Nat
deriving DecidableEq, Repr

/-- KP_IMGADDR.ADDR. -/
def State.imageAddr (s : State) : Nat := s.fld Reg.kpImgaddrAddrLo + s.fld Reg.kpImgaddrHiAddrHi * 2 ^ 32

/-- Bytes of the image; of stacks whose dies are powered down the loader reads all ones (01 R30, 18 R490). -/
def State.imgBytes (s : State) (off n : Nat) : List Byte :=
  if s.transit.diesOff then List.replicate n 0xFF else s.peekN (s.imageAddr + off) n

/-- A number in the image. -/
def State.img (s : State) (off n : Nat) : Nat := ofLe (s.imgBytes off n)

/-- One byte of CRC-32C, reflected (16 R440). -/
def crc32cByte (crc : Nat) (b : Nat) : Nat :=
  (List.range 8).foldl (fun c _ => if c % 2 = 1 then (c / 2) ^^^ 0x82F63B78 else c / 2) (crc ^^^ b)

/-- CRC-32C over the image's bytes, its own field taken as 0. -/
def State.imageCrc (s : State) (size : Nat) : Nat :=
  (List.range size).foldl (fun c i =>
    crc32cByte c (if 12 ≤ i ∧ i < 16 then 0 else s.img i 1)) 0xFFFFFFFF ^^^ 0xFFFFFFFF

/-- Sections of an image. -/
def State.sections (s : State) : List Sect :=
  (List.range (s.img 6 2)).map fun i =>
    let o := 128 + 16 * i
    { typ := s.img o 2, offset := s.img (o + 4) 4, bytes := s.img (o + 8) 4, count := s.img (o + 12) 4 }

/-- Code 0x01. -/
def State.check01 (s : State) : Option Refuse :=
  let n := s.img 6 2
  let size := s.img 8 4
  if s.img 0 4 = 0x48434854 ∧ s.img 4 2 = 1 ∧ 7 ≤ n ∧ n ≤ 32 ∧ size ≤ 2 ^ 28 ∧ 128 + 16 * n ≤ size ∧
      s.imageAddr % 4096 = 0 then none
  else some ⟨0x01, 0xFF, 0⟩

/-- Code 0x02. -/
def State.check02 (s : State) : Option Refuse :=
  if s.imageCrc (s.img 8 4) = s.img 12 4 then none else some ⟨0x02, 0xFF, 0⟩

/-- Bytes of one entry of a section whose entries have one length; COURSES has a 4-byte frame length before
them. -/
def entryBytes (typ : Nat) : Nat :=
  match typ with
  | 0x01 => 64 | 0x02 => 8 | 0x03 => 32 | 0x04 => 64 | 0x06 => 4 | 0x07 => 8 | 0x08 => 8 | 0x09 => 312
  | 0x0A => 16 | 0x0B => 4132 | 0x0C => 4104 | 0x0D => 136 | 0x0E => 24 | 0x0F => 4 | 0x10 => 4
  | _ => 0

/-- Groups of the DESCRIPTORS section: queue, and the offset and number of its descriptors. -/
def State.descGroups (s : State) (count off : Nat) : List (Nat × Nat × Nat) × Nat :=
  (List.range count).foldl (fun (l, o) _ =>
    let n := s.img (o + 4) 4
    (l ++ [(s.img o 4, o + 8, n)], o + 8 + 128 * n)) ([], off)

/-- Length that a section's COUNT calls for. -/
def State.sectLength (s : State) (x : Sect) : Nat :=
  if x.typ = 0x05 then (s.descGroups x.count x.offset).2 - x.offset
  else if x.typ = 0x06 then 4 + 4 * x.count
  else if x.typ = 0x0E then (24 + 16 * s.img (x.offset + 20) 1) * x.count
  else entryBytes x.typ * x.count

/-- Two ranges of bytes overlap. -/
def meet (a n b m : Nat) : Bool := decide (a < b + m ∧ b < a + n)

/-- The Rafter dies with a memory controller, ascending. -/
def undDies : List Nat := (List.range 24).filter fun die => hasController die

/-- What is wrong with the i-th section (16 R446 code 0x03). -/
def State.sectBad (s : State) (xs : List Sect) (i : Nat) (x : Sect) : Bool :=
  decide (x.typ < 1 ∨ 0x10 < x.typ) || (xs.take i).any (fun y => y.typ = x.typ) ||
    decide (x.offset % 128 ≠ 0 ∨ s.img 8 4 < x.offset + x.bytes) ||
    decide (x.bytes ≠ s.sectLength x) ||
    decide ((x.typ = 0x0E ∨ x.typ = 0x0F) ∧ x.count ≠ 1) || decide (x.typ = 0x10 ∧ x.count ≠ 1 ∧ x.count ≠ undDies.length) ||
    meet x.offset x.bytes 0 (128 + 16 * xs.length) ||
    (xs.zipIdx.any fun (y, j) => decide (j < i) && meet x.offset x.bytes y.offset y.bytes)

/-- Required sections (16 R441). -/
def requiredSects : List Nat := [0x01, 0x02, 0x03, 0x04, 0x06, 0x0A, 0x0F]

/-- Code 0x03 (16 R518). -/
def State.check03 (s : State) : Option Refuse :=
  let xs := s.sections
  orThen ((xs.zipIdx.find? fun (x, i) => s.sectBad xs i x).map fun x => ⟨0x03, x.2, 0⟩)
    ((requiredSects.find? fun t => !(xs.any fun x => x.typ = t)).map fun t => ⟨0x03, 0xFF, t⟩)

/-! ### Entries -/

/-- The section of a type, with its table index. -/
def State.sect (s : State) (typ : Nat) : Option (Sect × Nat) := s.sections.zipIdx.find? fun x => x.1.typ = typ

/-- Table index of a section; 0xFF where the image has none. -/
def State.sectIdx (s : State) (typ : Nat) : Nat := ((s.sect typ).map Prod.snd).getD 0xFF

/-- The entries of a section, each read at its offset. -/
def State.entries {α : Type} (s : State) (typ skip : Nat) (f : Nat → α) : List α :=
  (s.sect typ).elim [] fun x => (List.range x.1.count).map fun i => f (x.1.offset + skip + entryBytes typ * i)

/-- CONTEXTS (12 R323). -/
def State.readContext (s : State) (o : Nat) : Context :=
  { pegBase := s.img o 2, pegCount := s.img (o + 2) 2 + 1, tieBase := s.img (o + 4) 2,
    tieCount := s.img (o + 6) 2, span := s.img (o + 8) 1, lathSave := s.img (o + 9) 3,
    lathLoad := s.img (o + 12) 3, saveBase := s.img (o + 16) 5, preBase := s.img (o + 24) 5,
    credits := (List.range 32).map fun p => s.img (o + 32 + p) 1 }

/-- QUEUES (16 R442). -/
def State.readQueue (s : State) (o : Nat) : QueueEntry :=
  let c := s.img (o + 9) 1
  let slot := s.img (o + 24) 1
  { ring := bits (s.img o 8) 0 40, log2 := bits (s.img (o + 8) 1) 0 5, be := decide (bits c 0 1 = 1),
    prio := bits c 4 4, ctx := bits (s.img (o + 10) 1) 0 6, span := bits (s.img (o + 11) 1) 0 5,
    arith := s.img (o + 12) 4, headRep := bits (s.img (o + 16) 8) 0 40,
    slot := if bits slot 7 1 = 1 then some (bits slot 0 7) else none }

/-- PLANS (16 R443). -/
def State.readPlan (s : State) (o : Nat) : Plan :=
  let pair := s.img (o + 6) 2
  { opcode := s.img o 1, die := bits (s.img (o + 1) 1) 0 5, bays := s.img (o + 2) 1, forms := s.img (o + 3) 1,
    budget := s.img (o + 4) 2, pair := if bits pair 15 1 = 1 then some (bits pair 0 15) else none,
    maxs := (List.range 6).map fun i => s.img (o + 8 + 4 * i) 4,
    tiles := (List.range (min 5 (bits (s.img (o + 48) 1) 0 3))).map fun i =>
      let w := s.img (o + 32 + 4 * i) 4
      (bits w 0 8, bits w 8 12, bits w 20 12),
    be := decide (bits (s.img (o + 49) 1) 0 1 = 1) }

/-- The block of an arbiter instance (11 R294): of a Rafter die, of a port of an Eave die, or of an engine of
a Gable die. -/
def arbPlace (die inst : Nat) : Nat :=
  if die < 24 then arbBase die inst
  else if die < 28 then portBase (8 * (die - 24) + inst) + 0xF000
  else 0x3800000 + (die - 28) * 0x100000 + inst * 0x10000 + 0xF000

/-- ARBITERS. -/
def State.readArb (s : State) (o : Nat) : Nat × List (Nat × Nat) :=
  (arbPlace (s.img o 2) (s.img (o + 2) 2), arbShadows.zipIdx.map fun (w, i) => (w, s.img (o + 8 + 4 * i) 4))

/-- MEMORY. -/
def State.readRange (s : State) (o : Nat) : MemRange :=
  { base := s.img o 5, kind := s.img (o + 5) 1, ctx := s.img (o + 6) 1, limit := s.img (o + 8) 5 }

/-- The engine that an entry names, in the layout of a MEDIA body (09 R260). -/
def readEng (w : Nat) : Eng :=
  let k := bits w 8 8
  { gable := bits w 0 1, kind := if k = 0 then .decode else if k = 1 then .encode else .preprocess,
    idx := if k < 2 then bits w 1 3 else 0 }

/-- SESSIONS. -/
def State.readSession (s : State) (o : Nat) : SessionEntry :=
  { eng := readEng (s.img o 2), slot := s.img (o + 2) 1, ctx := s.img (o + 3) 1, block := s.imgBytes (o + 8) 128 }

/-- CASCADE. -/
def State.readCascade (s : State) (o : Nat) : Cascade :=
  { coord := s.img o 4, cut := s.img (o + 4) 4, upPort := bits (s.img (o + 8) 1) 0 5, downMask := s.img (o + 12) 4,
    useMask := s.img (o + 16) 4,
    windows := (List.range (s.img (o + 20) 1)).map fun i =>
      let x := o + 24 + 16 * i
      { base := s.img x 5, port := s.img (x + 5) 1, ctx := s.img (x + 6) 1, limit := s.img (x + 8) 5 } }

/-- The tables of the image at KP_IMGADDR. -/
def State.readImage (s : State) : Image :=
  let sched := (s.entries 0x0F 0 fun o => s.img o 4).headD 0
  { excl := decide (bits (s.img 16 1) 0 1 = 1)
    reqFeat := (List.range 16).map fun i => s.img (32 + 4 * i) 4
    contexts := s.entries 0x01 0 s.readContext
    spans := s.entries 0x02 0 fun o => bits (s.img o 8) 0 24
    queues := s.entries 0x03 0 s.readQueue
    plans := s.entries 0x04 0 s.readPlan
    descs := match s.sect 0x05 with
      | some (x, _) => (s.descGroups x.count x.offset).1.map fun (q, o, n) =>
          (q, (List.range n).map fun i => s.imgBytes (o + 128 * i) 128)
      | none => []
    frame := match s.sect 0x06 with
      | some (x, _) => s.img x.offset 4
      | none => 0
    courses := s.entries 0x06 4 fun o => (bits (s.img o 4) 0 12, bits (s.img o 4) 16 16)
    pegs := s.entries 0x07 0 fun o => (s.img o 4, s.img (o + 4) 4)
    ties := s.entries 0x08 0 fun o => { tie := s.img o 2, members := s.img (o + 2) 2, relpeg := s.img (o + 4) 2 }
    arbs := s.entries 0x09 0 s.readArb
    ranges := s.entries 0x0A 0 s.readRange
    tables := s.entries 0x0B 0 fun o => (s.img o 4, s.imgBytes (o + 4) 4128)
    streams := s.entries 0x0C 0 fun o => (s.img o 4, s.imgBytes (o + 8) 4096)
    sessions := s.entries 0x0D 0 s.readSession
    cascade := (s.entries 0x0E 0 s.readCascade).head?
    swapMax := bits sched 0 8
    beq := bits sched 8 8
    lcHold := bits sched 16 8
    und := s.entries 0x10 0 fun o => s.img o 4 }

end Sys2Proof.Machine
end

