-- ==== Sys2Proof/Machine/Admit.lean ====
section
/-! DEFINITION. Load-time admission: the checks of codes 0x04 to 0x41 in their order, and the custom tables'
monotonicity (16 R446 to R448, R518, R519, 06 R157, R159). -/

namespace Sys2Proof.Machine

/-! ### What is checked -/

/-- An initial descriptor: its group in the DESCRIPTORS section, its queue, its bytes and its backward
record. -/
structure Desc where
  group : Nat
  queue : Nat
  entry : QueueEntry
  d     : List Byte
  bwd   : List Byte
deriving DecidableEq, Repr

/-- The initial descriptors of an image whose queue it lists. -/
def State.descsOf (s : State) (i : Image) : List Desc :=
  i.descs.zipIdx.flatMap fun ((q, ds), g) =>
    match i.queues[q]? with
    | none => []
    | some e => ds.map fun d => { group := g, queue := q, entry := e, d := d, bwd := s.bwdOf d }

/-- The judge of an initial descriptor. -/
def State.judgeOf (s : State) (i : Image) (x : Desc) : Judge :=
  { state := s, image := i, queue := x.entry, ctx := x.entry.ctx }

/-- The plan record of a descriptor. -/
def Desc.plan (x : Desc) (i : Image) : Option Plan := i.plans[dPlan x.d]?

/-- The first element that meets a test, as a refusal that names its index. -/
def firstEntry {α : Type} (code sect : Nat) (l : List α) (bad : α → Bool) : Option Refuse :=
  match l.zipIdx.find? fun x => bad x.1 with
  | some (_, i) => some ⟨code, sect, i⟩
  | none => none

/-- A descriptor that a test refuses: the entry is its group. -/
def State.firstDesc (s : State) (code : Nat) (i : Image) (bad : Desc → Bool) : Option Refuse :=
  match (s.descsOf i).find? bad with
  | some x => some ⟨code, s.sectIdx 0x05, x.group⟩
  | none => none

/-- A refusal that no entry names (16 R518). -/
def whole (code : Nat) (bad : Bool) : Option Refuse := if bad then some ⟨code, 0xFF, 0⟩ else none

/-- The first refusal of a list. -/
def firstOf (l : List (Option Refuse)) : Option Refuse := l.foldl (fun m x => match m with | some r => some r | none => x) none

/-! ### 0x04: features -/

/-- The feature bits that a format uses, as word × 128 + bit (16 R434). -/
def formatBits (fmt : Nat) (kv : Bool) : List Nat :=
  if isMx fmt then [2]
  else if fmt = fKV4 then [4]
  else if fmt = fE4M3 ∨ fmt = fE5M2 ∨ (kv = true ∧ fmt = fINT8) then [3]
  else []

/-- The EXPERT bit. -/
def bitExpert : Nat := 128

/-- Bits that a condition names. -/
def usesIf (c : Bool) (b : Nat) : List Nat := if c then [b] else []

/-- Feature bits of a descriptor. -/
def Desc.uses (x : Desc) : List Nat :=
  let d := x.d
  ((formatsOf d x.bwd).flatMap fun (_, f, kv) => formatBits f kv) ++
    usesIf (decide (dOp d = opAttn ∧ (dbits d 64 0 40 ≠ 0 ∨ dbits d 108 0 1 = 1))) 5 ++
    usesIf (decide (dOp d = opNorm ∧ dbits d 68 5 1 = 1)) bitExpert ++
    usesIf (decide (dOp d = opSfu ∧ 0x1C ≤ dbits d 48 0 5)) bitExpert ++
    usesIf (decide (dOp d = opReduce ∧ (redKind d = 4 ∨ redKind d = 5))) (3 * 128 + 3)

/-- Feature bits of a queue entry. -/
def QueueEntry.uses (e : QueueEntry) : List Nat :=
  usesIf (decide (bits e.arith 0 1 = 1)) 1 ++ usesIf (decide (bits e.arith 1 6 ≠ 0 ∨ e.prio ≠ 0)) bitExpert

/-- Feature bits of a session; the pre-processor codes nothing. -/
def SessionEntry.uses (x : SessionEntry) : List Nat :=
  let k := x.block
  let b := le k 0 1
  (if x.eng.kind = .preprocess then [] else if bits b 0 1 = 0 then [2 * 128] else [2 * 128 + 1]) ++
    usesIf (decide (bits b 5 1 = 1 ∨ bits b 3 2 = 1 ∨ bits b 3 2 = 2)) (2 * 128 + 2) ++
    usesIf (decide (bits b 2 1 = 1)) (2 * 128 + 3) ++ usesIf (decide (bits (le k 3 1) 3 2 = 2)) (2 * 128 + 4)

/-- Feature bits of the CASCADE section. -/
def Cascade.uses (c : Cascade) : List Nat :=
  usesIf (decide (bits c.coord 0 14 ≠ 0 ∨ bits c.coord 16 14 ≠ 0 ∨ bits c.useMask 0 28 ≠ 0)) (3 * 128) ++
    usesIf (decide (bits c.useMask 30 2 ≠ 0)) (3 * 128 + 1) ++
    usesIf (decide (bits c.cut 0 12 ≠ 0)) (3 * 128 + 3)

/-- After-reset word of UND_GROUP (10 R284). -/
def undReset : Nat := (RegMap.resetWord (Reg.undGroupEn 0).off).toNat

/-- Feature bits by section, in the order of the types (16 R434, R439). -/
def State.imageUses (s : State) (i : Image) : List (Nat × List Nat) :=
  [(0x03, i.queues.flatMap QueueEntry.uses), (0x05, (s.descsOf i).flatMap Desc.uses),
   (0x09, usesIf (i.arbs.any fun x => x.2.any fun w => decide (keptBits (x.1 + w.1) w.2 ≠
     (RegMap.resetWord (x.1 + w.1)).toNat)) bitExpert), (0x0B, usesIf (!i.tables.isEmpty) bitExpert),
   (0x0D, i.sessions.flatMap SessionEntry.uses),
   (0x0E, match i.cascade with | some c => c.uses | none => []),
   (0x0F, usesIf (decide (i.beq ≠ 64 ∨ i.lcHold ≠ 8)) bitExpert),
   (0x10, usesIf (i.und.any fun u => decide (u ≠ undReset)) bitExpert)]

/-- A feature bit, as word × 128 + bit, is agreed. -/
def State.agreedBit (s : State) (b : Nat) : Bool := s.agreed (b / 128) (b % 128)

/-- The least number of a list. -/
def least (l : List Nat) : Option Nat :=
  l.foldl (fun (m : Option Nat) b => match m with | some x => some (min x b) | none => some b) none

/-- Bits that the header requires, as word × 128 + bit (16 R440). -/
def Image.required (i : Image) : List Nat :=
  (List.range 512).filter fun b => bits (i.reqFeat.getD (b / 32) 0) (b % 32) 1 = 1

/-- Code 0x04 (16 R518): the lowest offending bit; its section is the first, in table order, that uses it. -/
def State.check04 (s : State) (i : Image) : Option Refuse :=
  let uses := s.imageUses i
  let named := i.required
  let head := if i.excl then [129] else []
  let inSect (b : Nat) : Option (Sect × Nat) :=
    s.sections.zipIdx.find? fun (x, _) => uses.any fun u => u.1 = x.typ ∧ u.2.contains b
  (least ((named ++ head ++ uses.flatMap Prod.snd).filter fun b => !s.agreedBit b)).map fun b =>
    ⟨0x04, if named.contains b then 0xFF else ((inSect b).map Prod.snd).getD 0xFF, b⟩

/-! ### 0x05 and 0x10 to 0x16 -/

/-- Code 0x05 (01 R15, 17 R459). -/
def State.check05 (s : State) (i : Image) : Option Refuse :=
  firstEntry 0x05 (s.sectIdx 0x04) i.plans fun p =>
    (planBays p).any fun l => (s.physical ⟨p.die, l⟩).isNone

/-- A context breaks a condition of 12 R323. -/
def contextBad (c : Context) : Bool :=
  decide (2 ^ 16 < c.pegBase + c.pegCount ∨ 2 ^ 12 < c.tieBase + c.tieCount ∨ c.lathSave % 2 ^ 16 ≠ 0 ∨
    2 ^ 21 < c.lathSave ∨ c.lathLoad % 2 ^ 12 ≠ 0 ∨ c.lathLoad < c.lathSave ∨ 0x3FF000 < c.lathLoad ∨
    c.saveBase % 2 ^ 16 ≠ 0 ∨ (c.lathLoad ≠ c.lathSave ∧ c.preBase % 2 ^ 12 ≠ 0))

/-- A range of the MEMORY section belongs to no context of the image: a save area, a preload area or a stream window,
each of which has one (12 R322, 14 R417; DESIGN CHOICE, log entry 122). -/
def orphanRange (i : Image) (r : MemRange) : Bool :=
  decide ((r.kind = 1 ∨ r.kind = 2 ∨ r.kind = 6) ∧ i.contexts.length ≤ r.ctx)

/-- Code 0x10 (12 R322, R323, R344). -/
def State.check10 (s : State) (i : Image) : Option Refuse :=
  let n := i.contexts.length
  if n = 0 then some ⟨0x10, 0xFF, 0⟩
  else if 64 < n then some ⟨0x10, s.sectIdx 0x01, 64⟩
  else if i.excl ∧ n ≠ 1 then some ⟨0x10, s.sectIdx 0x01, 1⟩
  else firstOf [firstEntry 0x10 (s.sectIdx 0x01) i.contexts contextBad,
    firstEntry 0x10 (s.sectIdx 0x0A) i.ranges (orphanRange i)]

/-- The dies of a span form a rectangle of the floor map (16 R444, 01 R12). -/
def rectangle (mask : Nat) : Bool :=
  let ds := (List.range 24).filter fun d => bits mask d 1 = 1
  let xs := ds.map fun d => d % 6
  let ys := ds.map fun d => d / 6
  let w := xs.foldl max 0 + 1 - xs.foldl min 5
  let h := ys.foldl max 0 + 1 - ys.foldl min 3
  !ds.isEmpty && decide (ds.length = w * h)

/-- Code 0x11 (16 R444). -/
def State.check11 (s : State) (i : Image) : Option Refuse :=
  firstOf [
    firstEntry 0x11 (s.sectIdx 0x01) i.contexts fun c => decide (i.spans.length ≤ c.span),
    (match i.spans.zipIdx.find? fun (m, k) => !rectangle m ||
        (i.spans.zipIdx.any fun (o, j) => decide (j < k ∧ m &&& o ≠ 0)) with
     | some (_, k) => some ⟨0x11, s.sectIdx 0x02, k⟩
     | none => none),
    firstEntry 0x11 (s.sectIdx 0x03) i.queues fun e =>
      decide ((i.contexts[e.ctx]?).map Context.span ≠ some e.span) && decide (e.ctx < i.contexts.length),
    s.firstDesc 0x11 i fun x => match x.plan i with
      | some p => decide (bits (i.spans.getD x.entry.span 0) p.die 1 = 0)
      | none => false]

/-- Shape codes of an opcode that a plan record bounds (09 R229). -/
def shapeCount (op : Nat) : Nat :=
  if op = opGemm ∨ op = opAttn ∨ op = opMove then 3
  else if op = opConv ∨ op = opDwconv ∨ op = opPool then 6
  else if op = opElem ∨ op = opNorm then 2
  else if op = opSfu ∨ op = opReduce ∨ op = opKvappend then 1
  else 0

/-- A plan record breaks a range of 16 R443, holds more than four tiles or a bound that its opcode does not use, or a
pair is not one of 05 R137 (DEDUCED, log entry 120). -/
def planBad (i : Image) (k : Nat) (p : Plan) : Bool :=
  decide (p.opcode < 1 ∨ 0xE < p.opcode ∨ 23 < p.die ∨ p.bays = 0 ∨ p.budget < 1 ∨ 14289 < p.budget) ||
    decide (4 < p.tiles.length) || (p.maxs.drop (shapeCount p.opcode)).any (fun m => decide (m ≠ 0)) ||
    (match p.pair with
     | some q => (match i.plans[q]? with
       | some o => decide (o.pair ≠ some k ∨ o.die ≠ p.die ∨ o.bays ≠ p.bays ∨ q = k ∨ (planBays p).length ≠ 1)
       | none => true)
     | none => false)

/-- Descriptors that the groups up to `k` place in a queue's ring. -/
def Image.placed (i : Image) (k q : Nat) : Nat :=
  ((i.descs.take (k + 1)).filter fun x => x.1 = q).foldl (fun n x => n + x.2.length) 0

/-- Code 0x12 (12 R322, R337, 16 R442, R443): contents for a stream slot that no queue binds belong to no context. -/
def State.check12 (s : State) (i : Image) : Option Refuse :=
  firstOf [
    (match i.queues.zipIdx.find? fun (e, k) => decide (2 ^ 14 ≤ k ∨ e.ring % 128 ≠ 0 ∨ e.log2 < 4 ∨ 16 < e.log2 ∨
        i.contexts.length ≤ e.ctx ∨ e.headRep % 4 ≠ 0) ||
        (e.slot.isSome && i.queues.zipIdx.any fun (o, j) => decide (j < k ∧ o.slot = e.slot)) with
     | some (_, k) => some ⟨0x12, s.sectIdx 0x03, k⟩
     | none => none),
    (match i.plans.zipIdx.find? fun (p, k) => planBad i k p with
     | some (_, k) => some ⟨0x12, s.sectIdx 0x04, k⟩
     | none => none),
    (match i.descs.zipIdx.find? fun ((q, _), k) => (match i.queues[q]? with
        | some e => decide (2 ^ e.log2 < i.placed k q)
        | none => true) with
     | some (_, k) => some ⟨0x12, s.sectIdx 0x05, k⟩
     | none => none),
    firstEntry 0x12 (s.sectIdx 0x0C) i.streams fun (n, _) =>
      decide (128 ≤ n) || !(i.excl || i.queues.any fun e => decide (e.slot = some n)),
    s.firstDesc 0x12 i fun x => !((s.judgeOf i x).shape x.d).isEmpty || decide (dOp x.d < 1 ∨ 0xE < dOp x.d)]

/-- Two ranges of numbers overlap. -/
def rangesMeet (a n b m : Nat) : Bool := decide (n ≠ 0 ∧ m ≠ 0) && meet a n b m

/-- A peg lies in a context. -/
def Context.ownsPeg (c : Context) (p : Nat) : Bool := decide (c.pegBase ≤ p ∧ p < c.pegBase + c.pegCount)
def Context.ownsTie (c : Context) (t : Nat) : Bool := decide (c.tieBase ≤ t ∧ t < c.tieBase + c.tieCount)

/-- Ownership in an image: an exclusive image's context owns every peg and tie (12 R344). -/
def Image.ownsPeg (i : Image) (ctx p : Nat) : Bool :=
  i.excl || (match i.contexts[ctx]? with | some c => c.ownsPeg p | none => false)
def Image.ownsTie (i : Image) (ctx t : Nat) : Bool :=
  i.excl || (match i.contexts[ctx]? with | some c => c.ownsTie t | none => false)

/-- A descriptor names a peg or tie outside its context, or a tie that the image does not list (12 R342, 11
R315). -/
def Desc.foreign (x : Desc) (i : Image) (j : Judge) : Bool :=
  let c := x.entry.ctx
  (dWaitEn x.d && !i.ownsPeg c (dWaitPeg x.d)) || (dSigEn x.d && !i.ownsPeg c (dSigPeg x.d)) ||
    (decide (dOp x.d = opPeg) && !i.ownsPeg c (le x.d 32 2)) ||
    (decide (dOp x.d = opTie) && !i.ownsTie c (dbits x.d 32 0 12)) || !(j.tie x.d).isEmpty

/-- Code 0x13 (11 R315, 12 R322, R342). -/
def State.check13 (s : State) (i : Image) : Option Refuse :=
  firstOf [
    (match i.contexts.zipIdx.find? fun (c, k) => i.contexts.zipIdx.any fun (o, j) => decide (j < k) &&
        (rangesMeet c.pegBase c.pegCount o.pegBase o.pegCount || rangesMeet c.tieBase c.tieCount o.tieBase o.tieCount) with
     | some (_, k) => some ⟨0x13, s.sectIdx 0x01, k⟩
     | none => none),
    s.firstDesc 0x13 i fun x => x.foreign i (s.judgeOf i x),
    firstEntry 0x13 (s.sectIdx 0x07) i.pegs fun (p, _) =>
      decide (2 ^ 16 ≤ p) || !(i.excl || i.contexts.any fun c => c.ownsPeg p),
    (match i.ties.zipIdx.find? fun (t, k) => decide (t.members < 1 ∨ 255 < t.members ∨ 2 ^ 12 ≤ t.tie) ||
        (i.ties.take k).any (fun o => o.tie = t.tie) ||
        !((List.range i.contexts.length).any fun c => i.ownsTie c t.tie && i.ownsPeg c t.relpeg) with
     | some (_, k) => some ⟨0x13, s.sectIdx 0x08, k⟩
     | none => none)]

/-- Watches that a bay sequencer needs: queues with a WAITEN descriptor for it (16 R447). -/
def State.watchesNeeded (s : State) (i : Image) (l : Bay) : Nat :=
  (((s.descsOf i).filter fun x => dWaitEn x.d && decide ((x.plan i).bind sequencer = some l)).map Desc.queue).eraseDups.length

/-- Code 0x14 (16 R447, R518). -/
def State.check14 (s : State) (i : Image) : Option Refuse :=
  match (List.range 192).find? fun k => decide (64 < s.watchesNeeded i ⟨k / 8, k % 8⟩) with
  | some k => some ⟨0x14, s.sectIdx 0x03, k⟩
  | none => none

/-- Code 0x15 (12 R340, 16 R518): host ports hold no credits. -/
def State.check15 (s : State) (i : Image) : Option Refuse :=
  match (List.range 32).find? fun p =>
      decide ((if isHostPort p then 0 else 768) < i.contexts.foldl (fun n c => n + c.credits.getD p 0) 0) with
  | some p => some ⟨0x15, s.sectIdx 0x01, p⟩
  | none => none

/-- A word of an arbiter set. -/
def setWord (ws : List (Nat × Nat)) (o : Nat) : Nat := ((ws.find? fun x => x.1 = o).map Prod.snd).getD 0

/-- Level and limit of a lane in a set of the image (11 R305). -/
def setLane (ws : List (Nat × Nat)) (lane : Nat) : Nat × Nat :=
  if lane < 16 then (bits (setWord ws 0x00) (2 * lane) 2, bits (setWord ws (0x10 + lane / 4 * 4)) (8 * (lane % 4)) 8)
  else (bits (setWord ws 0x04) (2 * (lane - 16)) 2,
    bits (setWord ws (0x20 + (lane - 16) / 4 * 4)) (8 * (lane % 4)) 8)

/-- A set of the image meets a condition of 11 R298. -/
def setBad (ws : List (Nat × Nat)) : Bool :=
  let window := bits (setWord ws 0x08) 0 12
  let upper := ((List.range 32).map (setLane ws)).filter fun x => decide (1 ≤ x.1)
  decide (window < 0x040) || (upper.any fun x => decide (x.2 = 0)) ||
    decide (window < upper.foldl (fun n x => n + x.2) 0 + 32)

/-- Code 0x16 (11 R298). -/
def State.check16 (s : State) (i : Image) : Option Refuse :=
  firstEntry 0x16 (s.sectIdx 0x09) i.arbs fun (blk, ws) => !isArb blk || setBad ws

/-! ### 0x20 and 0x21: memory and the Lath -/

/-- Bytes of a range. -/
def MemRange.size (r : MemRange) : Nat := r.limit + 1 - r.base

/-- The keep windows of an image. -/
def Image.keeps (i : Image) : List MemRange := i.ranges.filter fun r => r.kind = 0

/-- A range of addresses meets a keep window. -/
def Image.inKeep (i : Image) (a n : Nat) : Bool := i.keeps.any fun k => rangesMeet a n k.base k.size

/-- A retired page lies in a range (10 R291). -/
def State.retiredIn (s : State) (a n : Nat) : Bool :=
  (List.range 12).any fun st => (List.range 64).any fun k =>
    s.flag (Reg.hbmRlistValid (stackDie st) k) &&
      rangesMeet a n (st * 2 ^ 36 + s.fld (Reg.hbmRlistPage (stackDie st) k) * 2 ^ 16) (2 ^ 16)

/-- Save and preload areas of a context (12 R324). -/
def areasOf (c : Context) : List (Nat × Nat) :=
  [(c.saveBase, 192 * c.lathSave), (c.preBase, 192 * (c.lathLoad - c.lathSave))]

/-- What a session writes: its rings and its ring count (10 R273). -/
def sessionRanges (k : List Byte) : List (Nat × Nat) :=
  [(bits (le k 24 8) 0 40, 2 ^ bits (le k 24 8) 40 5), (bits (le k 32 8) 0 40, 16),
   (bits (le k 40 8) 0 40, 16 * 2 ^ bits (le k 40 8) 40 4), (bits (le k 96 8) 0 40, 128 * 2 ^ bits (le k 96 8) 40 5)]

/-- A range of the MEMORY section breaks a condition (01 R23, 10 R272, R273, R291). -/
def State.rangeBad (s : State) (i : Image) (k : Nat) (r : MemRange) : Bool :=
  decide (7 < r.kind ∨ r.limit < r.base ∨ memLimit ≤ r.limit) || s.retiredIn r.base r.size ||
    (decide (r.kind = 0) && (decide (r.base % 2 ^ 16 ≠ 0 ∨ (r.limit + 1) % 2 ^ 16 ≠ 0) ||
      decide (4 < i.keeps.length))) ||
    (decide (r.kind = 1 ∨ r.kind = 5 ∨ r.kind = 6 ∨ r.kind = 7) && i.inKeep r.base r.size) ||
    (decide (r.kind = 1 ∨ r.kind = 2) && i.ranges.zipIdx.any fun (o, j) =>
      decide (j ≠ k) && rangesMeet r.base r.size o.base o.size)

/-- An output range or the status of a descriptor lies in a keep window (10 R273). -/
def Desc.keepWrite (x : Desc) (i : Image) (j : Judge) : Bool :=
  let media := if dOp x.d = opMedia then ((j.blockOf x.d).map fun k => mediaOuts k x.d).getD [] else []
  ((outSpans x.d x.bwd (j.members x.d) ++ media).any fun o => o.2.any fun p => !p.lath && i.inKeep p.addr p.size) ||
    (dStatEn x.d && i.inKeep (dStatus x.d) 8)

/-- A descriptor names memory in a retired page: its status, or a range that an operand reads or writes (10 R291). -/
def State.descRetired (s : State) (i : Image) (x : Desc) : Bool :=
  let j := s.judgeOf i x
  (dStatEn x.d && s.retiredIn (dStatus x.d) 8) ||
    (inSpans x.d x.bwd ++ outSpans x.d x.bwd (j.members x.d) ++ j.mediaSpans x.d).any fun o =>
      o.2.any fun p => !p.lath && decide (p.size ≠ 0) && s.retiredIn p.addr p.size

/-- A stream window is no 128-byte-aligned range of the map, lies in a retired page, or is none of port 30 or 31, or of
no context; or a port has more than 16 (14 R417, 01 R23, 10 R291, 12 R322; the code is a DESIGN CHOICE, log entry
122). -/
def State.streamWindowsBad (s : State) (i : Image) (c : Cascade) : Bool :=
  (c.windows.any fun w => decide (w.base % 128 ≠ 0 ∨ (w.limit + 1) % 128 ≠ 0 ∨ w.limit < w.base ∨ memLimit ≤ w.limit ∨
    w.port < 30 ∨ 31 < w.port ∨ i.contexts.length ≤ w.ctx) || s.retiredIn w.base (w.limit + 1 - w.base)) ||
    [30, 31].any fun p => decide (16 < (c.windows.filter fun w => w.port = p).length)

/-- What an image places in memory besides the areas of its contexts: the ranges of the MEMORY section but the one that
declares that area itself, the rings and head reports of its queues, its stream windows, and the rings of its sessions (16 R446 code 0x20). -/
def Image.otherRanges (i : Image) (ctx area : Nat) : List (Nat × Nat) :=
  ((i.ranges.filter fun r => decide (r.kind ≠ area + 1 ∨ r.ctx ≠ ctx)).map fun r => (r.base, r.size)) ++
    (i.queues.flatMap fun e => [(e.ring, 128 * 2 ^ e.log2), (e.headRep, 4)]) ++
    (match i.cascade with
     | some c => c.windows.map fun w => (w.base, w.limit + 1 - w.base)
     | none => []) ++
    i.sessions.flatMap fun x => if x.eng.kind = .preprocess then [] else
      (sessionRanges x.block).take (if blkAv1 x.block && blkGrainOut x.block then 4 else 3)

/-- An area of a context: 0 save, 1 preload. It lies beyond the map, in a retired page, in a keep window if it is a save
area, or overlaps an area before it or anything else that the image places (16 R446 code 0x20). -/
def State.areaBad (s : State) (i : Image) (ctx area : Nat) (x : Nat × Nat) : Bool :=
  decide (x.2 ≠ 0) && (decide (memLimit < x.1 + x.2) || s.retiredIn x.1 x.2 || (decide (area = 0) && i.inKeep x.1 x.2) ||
    (i.contexts.zipIdx.any fun (o, m) => (areasOf o).zipIdx.any fun (y, n) =>
      decide (m < ctx ∨ (m = ctx ∧ n < area)) && rangesMeet x.1 x.2 y.1 y.2) ||
    (i.otherRanges ctx area).any fun y => rangesMeet x.1 x.2 y.1 y.2)

/-- Code 0x20 (01 R23, 10 R273, R291, 14 R417). -/
def State.check20 (s : State) (i : Image) : Option Refuse :=
  firstOf [
    (match i.contexts.zipIdx.find? fun (c, k) => (areasOf c).zipIdx.any fun (x, j) => s.areaBad i k j x with
     | some (_, k) => some ⟨0x20, s.sectIdx 0x01, k⟩
     | none => none),
    firstEntry 0x20 (s.sectIdx 0x03) i.queues fun e =>
      i.inKeep e.ring (128 * 2 ^ e.log2) || i.inKeep e.headRep 4 || decide (memLimit < e.ring + 128 * 2 ^ e.log2) ||
        decide (memLimit < e.headRep + 4) || s.retiredIn e.ring (128 * 2 ^ e.log2) || s.retiredIn e.headRep 4,
    s.firstDesc 0x20 i fun x => x.keepWrite i (s.judgeOf i x) || s.descRetired i x,
    (match i.ranges.zipIdx.find? fun (r, k) => s.rangeBad i k r with
     | some (_, k) => some ⟨0x20, s.sectIdx 0x0A, k⟩
     | none => none),
    firstEntry 0x20 (s.sectIdx 0x0D) i.sessions fun x =>
      (sessionRanges x.block).any fun r => i.inKeep r.1 r.2 || s.retiredIn r.1 r.2 || decide (memLimit < r.1 + r.2),
    if i.cascade.any (s.streamWindowsBad i) then some ⟨0x20, s.sectIdx 0x0E, 0⟩ else none]

/-- Bytes of the staging area of a context (09 R236). -/
def staging (c : Context) : Nat := 0x3FF000 - c.lathLoad

/-- Bytes per bay of a form: double-buffered streamed and stationary K-tiles and the parked accumulator (09
R235, R236). `l` widens N, `a` is 2 under TALLY. -/
def formNeed (rows l a depth : Nat) : Nat :=
  2 * (rows * depth * 2 / l) + 2 * (128 * l * depth * 2 / l) + rows * (128 * l) * (4 * a)

/-- Lath bytes of form f, 0 to 7 for A to H. -/
def formBytes (f l a : Nat) : Nat :=
  match forms[f]? with
  | some x => formNeed (x.rows l a) l a 128
  | none => 2 * formNeed ((if f = 6 then formG else formH).rows l a) l a 64

/-- The forms that a plan record permits. -/
def permitted (p : Plan) : List Nat := (List.range 8).filter fun f => decide (bits p.forms f 1 = 1)

/-- A form among A to F that a group of bays can run (09 R238). -/
def fitsGroup (p : Plan) (f : Nat) : Bool := (forms[f]?).any fun x => decide (x.bays ≤ (planBays p).length)

/-- The widths that a plan record is judged with: 16-bit operands without TALLY, and those of the initial
descriptors that name it (log entry 14). -/
def State.widths (s : State) (i : Image) (k : Nat) : List (Nat × Nat) :=
  (1, 1) :: ((s.descsOf i).filter fun x => decide (dPlan x.d = k)).map fun x =>
    (logicalCols (refAt x.d 32).fmt (refAt x.d 40).fmt,
     if bits x.entry.arith 5 1 = 1 ∧ ¬((refAt x.d 32).fmt = fINT8 ∧ (refAt x.d 40).fmt = fINT8) then 2 else 1)

/-- The staged input region of a CONV tile: the input positions its windows reach, for the channels of one
K-tile, and its transpose copy (07 R175, 09 R236, R241; log entry 55). -/
def regionBytes (d : List Byte) (tile : Nat × Nat × Nat) : Nat :=
  let w := windowOf d
  let reach (a : Axis) (n : Nat) : Nat := (n - 1) * a.s + (a.k - 1) * a.d + 1
  let taps := w.t.k * w.h.k * w.w.k
  let chunk := min (w.c / max w.groups 1) (max (ceilDiv 128 (max taps 1)) 1)
  let one := reach w.t tile.1 * reach w.h tile.2.1 * reach w.w tile.2.2 * chunk * fmtBits (refAt d 32).fmt / 8
  if w.last then 2 * one else one

/-- The contexts of the span that holds a die. -/
def contextsAt (i : Image) (die : Nat) : List Context :=
  i.contexts.filter fun c => bits (i.spans.getD c.span 0) die 1 = 1

/-- A plan record's forms or tiles do not fit, or a plan without a pair permits none (09 R236, R238, R241). -/
def State.planLath (s : State) (i : Image) (k : Nat) (p : Plan) : Bool :=
  if p.opcode ≠ opGemm ∧ p.opcode ≠ opConv then false
  else
    let room := (contextsAt i p.die).map staging
    let ws := s.widths i k
    (p.pair.isNone && !(permitted p).any (fitsGroup p)) ||
      (ws.any fun (l, a) => (permitted p).any fun f => room.any fun n => decide (n < formBytes f l a)) ||
      (decide (p.opcode = opConv) && ((s.descsOf i).filter fun x => decide (dPlan x.d = k)).any fun x =>
        p.tiles.any fun t => ws.any fun (l, a) => (permitted p).any fun f => room.any fun n =>
          decide (n < formBytes f l a + regionBytes x.d t))

/-! ### Orders between tasks (16 R519) -/

/-- What a descriptor adds to a peg. -/
def Desc.adds (x : Desc) (p : Nat) : Nat :=
  (if dSigEn x.d ∧ dSigPeg x.d = p then dSigAdd x.d else 0) +
    (if dOp x.d = opPeg ∧ le x.d 34 1 = 2 ∧ le x.d 32 2 = p then le x.d 36 4 else 0)

/-- Initial count of a peg. -/
def Image.pegCount (i : Image) (p : Nat) : Nat := ((i.pegs.find? fun x => x.1 = p).map Prod.snd).getD 0

/-- The descriptor at `u` follows that at `t` directly. -/
def directly (i : Image) (ds : List Desc) (t u : Nat) : Bool :=
  match ds[t]?, ds[u]? with
  | some a, some b =>
    let p := dSigPeg a.d
    let others := (ds.zipIdx.filter fun x => decide (x.2 ≠ t)).map Prod.fst
    dSigEn a.d && dWaitEn b.d && decide (dWaitPeg b.d = p ∧ t ≠ u) &&
      !(ds.any fun x => decide (dOp x.d = opPeg ∧ le x.d 34 1 = 1 ∧ le x.d 32 2 = p)) &&
      decide (i.pegCount p + others.foldl (fun n x => n + x.adds p) 0 < dWaitTh b.d)
  | _, _ => false

/-- The descriptors that follow some of a set, in one step more. -/
def widen (i : Image) (ds : List Desc) (set : List Nat) : List Nat :=
  (List.range ds.length).filter fun u => set.contains u || set.any fun t => directly i ds t u

/-- The descriptor at `u` follows that at `t`. -/
def follows (i : Image) (ds : List Desc) (t u : Nat) : Bool :=
  let first := (List.range ds.length).filter fun v => directly i ds t v
  ((List.range ds.length).foldl (fun set _ => widen i ds set) first).contains u

/-! ### Gradient chains (15 R429, R430) -/

/-- The accumulator of a link: a GEMM with HASACC 1 whose ACC lies in the Lath, in FP32, or in Tally64 under TALLY. -/
def Desc.acc (x : Desc) : Option Ref :=
  let r := refAt x.d 56
  if dOp x.d = opGemm ∧ dbits x.d 97 0 1 = 1 ∧ r.lath = true ∧
      (r.fmt = fFP32 ∨ (r.fmt = fTally ∧ bits x.entry.arith 5 1 = 1)) then some r
  else none

/-- The Lath bytes of a link's accumulator: address and number. -/
def Desc.accRange (x : Desc) : Option (Nat × Nat) :=
  let sh (i : Nat) := (shapeOf x.d).getD i 0
  (x.acc.bind fun _ => ((refScaled x.d 56 88).spans (sh 0) (sh 1)).head?).map fun p => (p.addr, p.size)

/-- A link that leaves its sum in the range it takes it from. -/
def Desc.inner (x : Desc) : Bool := x.acc.any fun r => decide (refAt x.d 48 = r)

/-- The last link of a chain takes the range into memory. -/
def Desc.ends (x : Desc) : Bool := x.acc.isSome && !(refAt x.d 48).lath

/-- The single logical bay of a descriptor's plan record. -/
def Desc.lone (x : Desc) (i : Image) : Option (Nat × Nat) :=
  match x.plan i with
  | some p => (match planBays p with | [l] => some (p.die, l) | _ => none)
  | none => none

/-- A descriptor writes a Lath range on a logical bay. -/
def Desc.writes (x : Desc) (i : Image) (j : Judge) (bay : Nat × Nat) (a n : Nat) : Bool :=
  let here := match x.plan i with
    | some p => decide (p.die = bay.1 ∧ bits p.bays bay.2 1 = 1)
    | none => false
  (here && (outSpans x.d x.bwd (j.members x.d)).any fun o => o.2.any fun p => p.lath && meet p.addr p.size a n) ||
    (decide (dOp x.d = opMove ∧ le x.d 64 1 = 2 ∧ dbits x.d 65 0 5 = bay.1 ∧ dbits x.d 66 0 3 = bay.2) &&
      (remoteSpans x.d).any fun o => o.2.any fun p => p.lath && meet p.addr p.size a n)

/-- The link at `u` may stand after that at `t` over one range: it is an inner or a last link of that context and Lath
range, and R519 orders it after that at `t`, an inner one. -/
def overRange (i : Image) (ds : List Desc) (t u : Nat) : Bool :=
  match ds[t]?, ds[u]? with
  | some x, some y => x.inner && (y.inner || y.ends) &&
      decide (y.entry.ctx = x.entry.ctx ∧ y.accRange = x.accRange ∧ y.acc.map Ref.fmt = x.acc.map Ref.fmt) &&
      follows i ds t u
  | _, _ => false

/-- A last link over the range of that at `u` stands between those at `t` and `u`: the chain of `t` has ended. -/
def endedBetween (i : Image) (ds : List Desc) (t u : Nat) : Bool :=
  (List.range ds.length).any fun e => (ds[e]?).any Desc.ends && overRange i ds t e && follows i ds e u

/-- The link at `u` may stand in the chain of that at `t`, after it. -/
def laterLink (i : Image) (ds : List Desc) (t u : Nat) : Bool := overRange i ds t u && !endedBetween i ds t u

/-- The link that a peg orders right after that at `t`: none of the chain stands between them. Of several, one that
follows it directly is taken, then one on the same bay (DEDUCED from 15 R429, log entry 119). -/
def nextLink (i : Image) (ds : List Desc) (t : Nat) : Option Nat :=
  let later := (List.range ds.length).filter fun u => laterLink i ds t u
  let next := later.filter fun u => !(later.any fun v => laterLink i ds v u)
  let bay (u : Nat) : Option (Nat × Nat) := (ds[u]?).bind fun x => x.lone i
  let prefer (l : List Nat) (p : Nat → Bool) : List Nat := if (l.filter p).isEmpty then l else l.filter p
  (prefer (prefer next (directly i ds t)) fun u => decide (bay u = bay t)).head?

/-- The links from that at `t` on. -/
def chainFrom (fuel : Nat) (i : Image) (ds : List Desc) (t : Nat) : List Nat :=
  match fuel with
  | 0 => [t]
  | n + 1 =>
    match nextLink i ds t with
    | some u => t :: chainFrom n i ds u
    | none => [t]

/-- The gradient chain whose first link stands at `t`: one that no link of its chain stands before, up to a last link (15
R429). -/
def chainAt (i : Image) (ds : List Desc) (t : Nat) : Option (List Nat) :=
  let first := !((List.range ds.length).any fun u => laterLink i ds u t)
  let c := chainFrom ds.length i ds t
  if first ∧ ((c.getLast?.bind fun u => ds[u]?).any Desc.ends) ∧ (ds[t]?).any Desc.inner then some c else none

/-- R519 orders the task at `u` before the first link of a chain, or after its last. -/
def ordered (i : Image) (ds : List Desc) (chain : List Nat) (u : Nat) : Bool :=
  (chain.head?.any fun t => follows i ds u t) || chain.getLast?.any fun t => follows i ds t u

/-- The chain whose first link stands at `t` breaks a rule of 15 R430. -/
def State.chainBad (s : State) (i : Image) (ds : List Desc) (t : Nat) : Bool :=
  match chainAt i ds t, ds[t]? with
  | some links, some x =>
    let (a, n) := x.accRange.getD (0, 0)
    let save := ((i.contexts[x.entry.ctx]?).map Context.lathSave).getD 0
    let bays := (links.map fun u => (ds[u]?).bind fun y => y.lone i).eraseDups
    match x.lone i with
    | none => true
    | some bay =>
      decide (bays.length ≠ 1 ∨ save < a + n) ||
        (ds.zipIdx.any fun (y, u) =>
          decide (y.entry.ctx = x.entry.ctx) && !links.contains u && y.writes i (s.judgeOf i y) bay a n &&
            !ordered i ds links u)
  | _, _ => false

/-- Code 0x21 (09 R235, R236, R238, R517, 15 R430). -/
def State.check21 (s : State) (i : Image) : Option Refuse :=
  let ds := s.descsOf i
  firstOf [
    (match i.plans.zipIdx.find? fun (p, k) => s.planLath i k p with
     | some (_, k) => some ⟨0x21, s.sectIdx 0x04, k⟩
     | none => none),
    s.firstDesc 0x21 i fun x => !((s.judgeOf i x).lath x.d x.bwd).isEmpty,
    (match ds.zipIdx.find? fun (_, t) => s.chainBad i ds t with
     | some (x, _) => some ⟨0x21, s.sectIdx 0x05, x.group⟩
     | none => none)]

/-! ### 0x30 to 0x36 -/

/-- A descriptor as its plan record plans it: the maxima stand for its shape fields, BUDGET among them (09 R229, R231, 15
R425). -/
def Desc.planned (x : Desc) (i : Image) : Desc :=
  match x.plan i with
  | some p => { x with d := setLe (atMaxima x.d p.maxs) 4 2 p.budget }
  | none => x

/-- A descriptor, as planned, fails a condition of a code. -/
def State.descCode (s : State) (i : Image) (code : Nat) (f : Judge → Desc → Fails) : Option Refuse :=
  s.firstDesc code i fun x => !(f (s.judgeOf i x) (x.planned i)).isEmpty

/-- An arithmetic word breaks a condition of 04 R93. -/
def arithBad (w : Nat) : Bool :=
  decide (5 ≤ bits w 2 3 ∨ (bits w 0 1 = 0 ∧ bits w 2 3 ≠ 0) ∨
    (bits w 0 1 = 1 ∧ (bits w 1 1 = 1 ∨ bits w 5 2 ≠ 0)) ∨ 2 ^ 7 ≤ w)

/-- Two tasks append to, or read, the same slot (08 R215). -/
def sameSlot (a b : Desc) : Bool :=
  let range (x : Desc) : Nat × Nat :=
    if dOp x.d = opAttn then (0, (shapeOf x.d).getD 1 0) else (le x.d 64 3, le x.d 67 3)
  let ta := [(kvTables a.d).1, (kvTables a.d).2]
  let tb := [(kvTables b.d).1, (kvTables b.d).2]
  (ta.any fun x => tb.contains x) && rangesMeet (range a).1 (range a).2 (range b).1 (range b).2

/-- Appends without an order (08 R215). -/
def appendBad (i : Image) (ds : List Desc) (t : Nat) : Bool :=
  match ds[t]? with
  | none => false
  | some x => decide (dOp x.d = opKvappend) && ds.zipIdx.any fun (y, u) =>
      decide (u ≠ t ∧ (dOp y.d = opKvappend ∨ dOp y.d = opAttn)) && sameSlot x y &&
        !follows i ds t u && !follows i ds u t

/-- A custom table breaks a condition of 06 R157. -/
def tableBad (t : List Byte) : Bool :=
  let v (o : Nat) : Val := decodeElem fFP32 (le t o 4)
  let lt (a b : Val) : Bool := a.isFin && b.isFin && a.less b
  !(v 0).isFin || !lt (v 0) (v 4) || !(v 8).isFin || !(v 12).isFin || decide (1 < le t 16 1 ∨ 2 < le t 17 1) ||
    decide (le t 18 14 ≠ 0) ||
    (List.range 256).any fun k => !(v (32 + 16 * k)).isFin || !(v (36 + 16 * k)).isFin || !(v (40 + 16 * k)).isFin ||
      decide (le t (44 + 16 * k) 4 ≠ 0)

/-- Roles of the axes (15 R420, KP_CUT). -/
def cutBad (c : Cascade) : Bool :=
  let roles := (List.range 4).map fun a => bits c.cut (2 * a) 2
  let count (r : Nat) : Nat := (roles.filter fun x => x = r).length
  decide (1 < count 2 ∨ 1 < count 3 ∨ 2 < count 1) || decide (count 2 = 0 ∧ bits c.cut 8 4 ≠ 0) ||
    (List.range 4).any fun a => decide (roles.getD a 0 ≠ 0 ∧ bits c.coord (16 + 4 * a) (if a = 3 then 2 else 4) = 0)

/-- The extent of the pipeline axis of a cut (15 R420, R421). -/
def pipeline (c : Cascade) : Option Nat :=
  ((List.range 4).find? fun a => bits c.cut (2 * a) 2 = 2).map fun a =>
    bits c.coord (16 + 4 * a) (if a = 3 then 2 else 4) + 1

/-- The coordinate of the module on the pipeline axis. -/
def pipelineAt (c : Cascade) : Nat :=
  ((List.range 4).find? fun a => bits c.cut (2 * a) 2 = 2).elim 0 fun a => bits c.coord (4 * a) (if a = 3 then 2 else 4)

/-- With a pipeline axis of extent P: the micro-batch count is no multiple of P, or the virtual stages that the image puts
on its module are not those congruent to its coordinate (15 R424). The manual gives neither a place in the image: both are
free values of its bytes (log entry 99). -/
def stagesBad (c : Cascade) (bytes : List Byte) : Bool :=
  match pipeline c with
  | none => false
  | some p =>
    let stages := (List.range ((bits c.cut 8 4 + 1) * p)).filter fun v => v % p = pipelineAt c
    decide (Config.microBatches bytes % p ≠ 0 ∨ Config.moduleStages bytes ≠ stages)

/-- The parameter blocks that an engine takes (13 R352, R353, R357, R361, R364). -/
def sessionBad (i : Image) (x : SessionEntry) : Bool :=
  let k := x.block
  let av1 := blkAv1 k
  decide (blkGrainMode k = 3 ∨ bits (le k 0 1) 6 2 = 3 ∨ bits (le k 3 1) 3 2 = 3 ∨ blkNum k = 0 ∨ blkDen k = 0) ||
    !profileOk av1 (le k 1 1) (blkChroma k) (blkDepth k) || !levelOk av1 (le k 2 1) ||
    !sizeOk (blkWidth k) (blkHeight k) || decide (av1 = false ∧ 51 < le k 13 1) || (blkLossless k && blkLive k) ||
    decide (blkRingLog2 k < 12 ∨ 30 < blkRingLog2 k ∨ blkRing k % 128 ≠ 0 ∨ blkPicLog2 k < 4) ||
    decide (blkGrainLog2 k < 4 ∨ 12 < blkGrainLog2 k) ||
    decide (preFilter k = 3 ∨ 7 < x.slot) || !i.ownsPeg x.ctx (blkDonePeg k)

/-- The live load of an engine exceeds its rate (13 R370). -/
def liveBad (i : Image) (e : Eng) : Bool :=
  let r := sumRates (liveRates i e)
  decide (engineRate * r.2 < r.1)

/-- Code 0x31: every queue's word, then the contents of STRICT queues (04 R93, R94). -/
def State.check31 (s : State) (i : Image) : Option Refuse :=
  firstOf [firstEntry 0x31 (s.sectIdx 0x03) i.queues fun e => arithBad e.arith,
    s.descCode i 0x31 fun j x => j.strictQueue x.d x.bwd]

/-- The maxima of an ATTN plan record pass the ranges of QLEN, KLEN and NIN (08 R192). -/
def attnPlanBad (p : Plan) : Bool :=
  decide (p.opcode = opAttn ∧
    (65536 < p.maxs.getD 0 0 ∨ 4194304 < p.maxs.getD 1 0 ∨ 16 < p.maxs.getD 2 0))

/-- Code 0x33 (08 R192, R193, R215). -/
def State.check33 (s : State) (i : Image) : Option Refuse :=
  let ds := s.descsOf i
  firstOf [firstEntry 0x33 (s.sectIdx 0x04) i.plans attnPlanBad, s.descCode i 0x33 fun j x => j.attention x.d,
    (match ds.zipIdx.find? fun (_, t) => appendBad i ds t with
     | some (x, _) => some ⟨0x33, s.sectIdx 0x05, x.group⟩
     | none => none)]

/-- Code 0x34 (06 R157, R163). -/
def State.check34 (s : State) (i : Image) : Option Refuse :=
  firstOf [s.descCode i 0x34 fun j x => j.norm x.d,
    (match i.tables.zipIdx.find? fun (t, k) => decide (3 < t.1) || tableBad t.2 ||
        (i.tables.take k).any (fun o => o.1 = t.1) with
     | some (_, k) => some ⟨0x34, s.sectIdx 0x0B, k⟩
     | none => none)]

/-- Code 0x35 (14 R410, 15 R420, R421, R424, R425). -/
def State.check35 (s : State) (i : Image) : Option Refuse :=
  firstOf [s.descCode i 0x35 fun j x => j.collective x.d,
    whole 0x35 (i.cascade.any fun c => stagesBad c (s.imgBytes 0 (s.img 8 4))),
    if i.cascade.any cutBad then some ⟨0x35, s.sectIdx 0x0E, 0⟩ else none]

/-- Code 0x36 (13 R353, R370). -/
def State.check36 (s : State) (i : Image) : Option Refuse :=
  firstOf [s.descCode i 0x36 fun j x => j.media x.d,
    firstEntry 0x36 (s.sectIdx 0x0D) i.sessions (sessionBad i),
    whole 0x36 (i.sessions.any fun x => liveBad i x.eng)]

/-! ### 0x40 and 0x41: course budgets -/

/-- The largest BE budget that counts on a bay (12 R331). -/
def beBudget (i : Image) (l : Bay) : Option (Nat × Nat) :=
  if i.beq = 0 ∨ i.excl then none
  else
    (i.plans.zipIdx.filter fun (p, _) => p.be && decide (p.die = l.die ∧ bits p.bays l.lbay 1 = 1)).foldl
      (fun m (p, k) => match m with
        | some (b, k0) => if b < p.budget then some (p.budget, k) else some (b, k0)
        | none => some (p.budget, k)) none

/-- The plan record whose budget first passes a limit on a bay in a course, as R518 adds them. -/
def budgetOver (i : Image) (limit : Nat) (l : Bay) (course : Nat) : Option (Nat × Nat) :=
  let (start, first) := match beBudget i l with
    | some (b, k) => (b, some k)
    | none => (0, none)
  if limit < start then first.map fun k => (k, 0)
  else
    ((i.courses.filter fun x => x.1 = course).foldl (fun (sum, found) x =>
      match found, i.plans[x.2]? with
      | none, some p =>
        if !p.be && decide (p.die = l.die ∧ bits p.bays l.lbay 1 = 1) then
          (sum + p.budget, if limit < sum + p.budget then some (x.2, course) else none)
        else (sum, none)
      | f, _ => (sum, f)) (start, (none : Option (Nat × Nat)))).2

/-- The first logical bay and course of the frame whose budgets pass a limit: the plan record and the course. -/
def firstOver (i : Image) (limit : Nat) : Option (Nat × Nat) :=
  (List.range 192).foldl (fun found k => match found with
    | some x => some x
    | none => (List.range i.frame).foldl (fun f c => match f with
        | some x => some x
        | none => budgetOver i limit ⟨k / 8, k % 8⟩ c) none) none

/-- Code 0x40 for the COURSES section itself: a frame outside 1 to 4,096 courses, or an entry outside the frame or the
plan records (16 R441 names no code for it: DESIGN CHOICE, log entry 121). -/
def State.checkFrame (s : State) (i : Image) : Option Refuse :=
  if i.frame < 1 ∨ 4096 < i.frame then some ⟨0x40, s.sectIdx 0x06, 0⟩
  else (i.courses.find? fun x => decide (i.frame ≤ x.1 ∨ i.plans.length ≤ x.2)).map fun x =>
    ⟨0x40, s.sectIdx 0x06, x.2 * 4096 + x.1⟩

/-- Codes 0x40 and 0x41 (02 R42, 12 R331, 16 R448, R518). -/
def State.checkBudget (s : State) (i : Image) (code limit : Nat) : Option Refuse :=
  (firstOver i limit).map fun x => ⟨code, s.sectIdx 0x06, x.1 * 4096 + x.2⟩

/-- The limit of code 0x41 at a clock (16 R448). -/
def clockLimit (mhz : Nat) : Nat := 88 * (mhz * 1018880 / 100000 - 64) / 100

/-- The checks of codes 0x04 to 0x41 on the tables of an image. -/
def State.checkTables (s : State) (i : Image) : Option Refuse :=
  firstOf [s.check04 i, s.check05 i, s.check10 i, s.check11 i, s.check12 i, s.check13 i, s.check14 i, s.check15 i,
    s.check16 i, s.check20 i, s.check21 i, s.descCode i 0x30 (fun j x => j.formats x.d x.bwd), s.check31 i,
    s.descCode i 0x32 (fun j x => j.window x.d x.bwd), s.check33 i, s.check34 i, s.check35 i, s.check36 i,
    s.checkFrame i, s.checkBudget i 0x40 14289, s.checkBudget i 0x41 (clockLimit (s.fld Reg.kpClockMhz))]

/-- The checks in ascending code order: the first that fails (16 R446). -/
def State.admission (s : State) : Option Refuse :=
  orThen s.check01 (orThen s.check02 (orThen s.check03 (s.checkTables s.readImage)))

/-! ### Monotonicity of custom tables (06 R159) -/

/-- An FP32 code as a multiple of 2^-149. -/
def ulps (c : Nat) : Int :=
  let m : Nat := bits c 0 23 + (if bits c 23 8 = 0 then 0 else 2 ^ 23)
  let v : Nat := m * 2 ^ (bits c 23 8 - 1)
  if bits c 31 1 = 1 then -(v : Int) else (v : Int)

/-- The failed tests of a table, each with the segment it reports. -/
def monoFails (t : List Byte) : List Nat :=
  let dir := le t 17 1
  let c (k j : Nat) : Int := ulps (le t (32 + 16 * k + 4 * j) 4)
  let quad := decide (le t 16 1 = 1)
  let slope2 (k : Nat) : Int := if quad then c k 1 + 2 * c k 2 else c k 1
  let last (k : Nat) : Int := if quad then c k 0 + c k 1 + c k 2 else c k 0 + c k 1
  let up (a b : Int) : Bool := if dir = 1 then decide (a ≤ b) else decide (b ≤ a)
  if dir = 0 then []
  else
    (if up (ulps (le t 8 4)) (c 0 0) then [] else [0]) ++
    ((List.range 256).flatMap fun k =>
      (if up 0 (c k 1) then [] else [k]) ++ (if quad && !up 0 (slope2 k) then [k] else []) ++
      (if k < 255 ∧ up (last k) (c (k + 1) 0) = false then [k] else [])) ++
    (if up (last 255) (ulps (le t 12 4)) then [] else [255])

/-- KP_SHGCHK of a slot, and the event of a failing table (06 R159, 16 R452). -/
def State.checkTable (s : State) (slot : Nat) (t : List Byte) : State :=
  let fails := monoFails t
  let dir := le t 17 1
  let first := fails.foldl min 255
  let s := (s.setFld (Reg.kpShgchkPresent slot) 1).setFld (Reg.kpShgchkDir slot) dir
  let s := s.setFld (Reg.kpShgchkMono slot) (if dir ≠ 0 ∧ fails = [] then 1 else 0)
  let s := s.setFld (Reg.kpShgchkFails slot) (satTo 0xFF fails.length)
  let s := s.setFld (Reg.kpShgchkFirst slot) (if fails = [] then 0 else first)
  let s := s.setFld (Reg.kpShgchkFirstv slot) (if fails = [] then 0 else 1)
  if fails = [] then s else s.raise ⟨30, 1⟩ 0x8 0x03 (slot + first * 4)

end Sys2Proof.Machine
end

