-- ==== Sys2Proof/Machine/Load.lean ====
section
/-! DEFINITION. Loading and unloading a Thatch image (16 R445 to R452): what the loader sets up from the
admitted image, whole at a load and again at a warm or span reset (18 R483, R484). -/

namespace Sys2Proof.Machine

/-- The loader's event source. -/
def srcLoader : Source := ⟨30, 1⟩

/-! ### Which contexts are set up -/

/-- A context lies in a span; every context when none is given. -/
def Image.ctxIn (i : Image) (span : Option Nat) (c : Nat) : Bool :=
  match span with
  | none => true
  | some x => i.contexts[c]?.any fun k => k.span = x

/-- The contexts that are set up, with their numbers. -/
def Image.chosen (i : Image) (span : Option Nat) : List (Context × Nat) :=
  i.contexts.zipIdx.filter fun x => i.ctxIn span x.2

/-- The contexts that a plan record belongs to: those of the queues whose initial descriptors name it, else
every context whose span holds its die (DEDUCED from 12 R325 and 16 R443; log entry 14). -/
def Image.planCtxs (i : Image) (k : Nat) (p : Plan) : List Nat :=
  let named := (i.descs.filter fun g => g.2.any fun d => decide (dPlan d = k)).filterMap fun g =>
    i.queues[g.1]?.map QueueEntry.ctx
  if named.isEmpty then
    (i.contexts.zipIdx.filter fun x => bits (i.spans.getD x.1.span 0) p.die 1 = 1).map Prod.snd
  else named

/-- The occupant of a logical bay at load: the lowest context whose plan records name it (12 R325). -/
def Image.firstOccupant (i : Image) (l : Bay) : Option Nat :=
  let cs := (i.plans.zipIdx.filter fun x => decide (x.1.die = l.die ∧ bits x.1.bays l.lbay 1 = 1)).flatMap
    fun x => i.planCtxs x.2 x.1
  cs.foldl (fun m c => match m with
    | some x => some (min x c)
    | none => some c) none

/-- Logical bays of the module, ascending. -/
def allBays : List Bay := (List.range 192).map fun k => ⟨k / 8, k % 8⟩

/-! ### Steps of 16 R449 -/

/-- Sets a register to the bits of a word that its fields hold. -/
def State.putReg (s : State) (off v : Nat) : State :=
  match RegMap.at? off with
  | none => s
  | some _ => s.setReg off (BitVec.ofNat 32 (keptBits off v))

/-- Writes one keep window into a Loft and, on a controller die, into its controller (10 R272). -/
def State.putKeep (s : State) (die w base limit : Nat) : State :=
  let s := (s.setFld (Reg.loftKeepBase die w) base).setFld (Reg.loftKeepBaseHi die w) (base / 2 ^ 32)
  let s := (s.setFld (Reg.loftKeepLimit die w) limit).setFld (Reg.loftKeepLimitHi die w) (limit / 2 ^ 32)
  if hasController die then
    let s := (s.setFld (Reg.hbmKeepBase die w) base).setFld (Reg.hbmKeepBaseHi die w) (base / 2 ^ 32)
    (s.setFld (Reg.hbmKeepLimit die w) limit).setFld (Reg.hbmKeepLimitHi die w) (limit / 2 ^ 32)
  else s

/-- The keep windows of an image, into every Loft and controller; the others are undefined (10 R272). -/
def State.putKeeps (s : State) (ws : List MemRange) : State :=
  (List.range 24).foldl (fun (s : State) die =>
    let s := s.setFld (Reg.loftKeepctlEn die) (2 ^ min 4 ws.length - 1)
    (List.range 4).foldl (fun (s : State) w => match ws[w]? with
      | some r => s.putKeep die w r.base r.limit
      | none => s.putKeep die w 0 0) s) s

/-- KP_BEACON.ROLE of an image (02, 14 R397): standalone when every extent is 1, ridge at the origin, else
member. -/
def roleOf (coord : Nat) : Nat :=
  if bits coord 16 14 = 0 then 0 else if bits coord 0 14 = 0 then 1 else 2

/-- USE of a port in use, by 14 R379. -/
def useOf (port : Nat) : Nat := if port < 28 then portAxis port else if port < 30 then 4 else 5

/-- The image marks a port in use (14 R379): by its CASCADE section; without one, the host ports alone. A module whose
extents are all 1 leaves its axis ports unused (R397). -/
def markedUse (c : Option Cascade) (port : Nat) : Bool :=
  match c with
  | some c => decide (bits c.useMask port 1 = 1 ∧ (28 ≤ port ∨ bits c.coord 16 14 ≠ 0))
  | none => isHostPort port

/-- A port takes its use and direction; one that the image marks unused is OFF (14 R379, R388). The host port that the
endpoint uses stays as it is (DEDUCED, log entry 115). -/
def State.markPort (s : State) (c : Option Cascade) (p : Nat) : State :=
  if markedUse c p then
    let s := if isHostPort p then s else s.setFld (Reg.eavStateUse p) (useOf p)
    s.setFld (Reg.eavStateDir p) (if p < 28 ∧ portPlus p = false then 1 else 0)
  else if p = s.hostPort then s
  else
    let s := (s.setFld (Reg.eavStateUse p) 7).setFld (Reg.eavStateState p) 0
    s.setFld (Reg.eavStateDir p) (if p < 28 ∧ portPlus p = false then 1 else 0)

/-- Coordinates, cut roles, beacon ports and ports in use; an image without a CASCADE section is standalone
and uses no port but the host ports. KP_BEACON.LOCK and ERROR and the count toward LOCK stay as they are, also where ROLE
or UPPORT changes (DESIGN CHOICE, log entry 150). -/
def State.putCascade (s : State) (c : Option Cascade) : State :=
  let k : Cascade := c.getD { coord := 0, cut := 0, upPort := 0, downMask := 0, useMask := 0, windows := [] }
  let s := s.putReg Reg.kpCoordX.off k.coord
  let s := s.putReg Reg.kpCutXrole.off k.cut
  let s := (s.setFld Reg.kpBeaconRole (roleOf k.coord)).setFld Reg.kpBeaconUpport k.upPort
  (List.range 32).foldl (fun (s : State) p => s.markPort c p) s

/-- KP_SCHED and the KP_SLOT registers (12 R346). -/
def State.putSched (s : State) (i : Image) : State :=
  let s := (s.setFld Reg.kpSchedExcl (if i.excl then 1 else 0)).setFld Reg.kpSchedNctx i.contexts.length
  let s := (s.setFld Reg.kpSchedSwapmax i.swapMax).setFld Reg.kpSchedBeq i.beq
  let s := s.setFld Reg.kpSchedLchold i.lcHold
  i.queues.zipIdx.foldl (fun (s : State) (e, q) => match e.slot with
    | some n => ((s.setFld (Reg.kpSlotCtx n) e.ctx).setFld (Reg.kpSlotBound n) 1).setFld (Reg.kpSlotQueue n) q
    | none => s) s

/-- A number of an indexed register block lies in it, at a distance of 4 bytes. -/
def idxIn (off base n : Nat) : Bool := decide (base ≤ off ∧ off < base + 4 * n)

/-- Pegs of the contexts that are set up return to 0 or take their initial counts (11 R306). -/
def State.putPegs (s : State) (i : Image) (span : Option Nat) : State :=
  let mine (p : Nat) : Bool := span.isNone || i.excl || (i.chosen span).any fun x => x.1.ownsPeg p
  let s := s.resetRegs fun o => idxIn o 0x40000 65536 && mine ((o - 0x40000) / 4)
  (i.pegs.filter fun x => mine x.1).foldl (fun (s : State) x => s.setFld (Reg.pegCountCount x.1) x.2) s

/-- Ties of the contexts that are set up: MEMBERS and RELPEG, with ARRIVED and GEN 0 (11 R315). -/
def State.putTies (s : State) (i : Image) (span : Option Nat) : State :=
  let mine (t : Nat) : Bool := span.isNone || i.excl || (i.chosen span).any fun x => x.1.ownsTie t
  let s := s.resetRegs fun o => (idxIn o 0x80000 4096 && mine ((o - 0x80000) / 4)) ||
    (idxIn o 0x84000 4096 && mine ((o - 0x84000) / 4))
  (i.ties.filter fun x => mine x.tie).foldl (fun (s : State) x =>
    (s.setFld (Reg.tieStatMembers x.tie) x.members).setFld (Reg.tieRelPeg x.tie) x.relpeg) s

/-- A stream slot's contents are set: those the image lists, else zeros (12 R337). -/
def State.putSlots (s : State) (i : Image) (span : Option Nat) : State :=
  let mine (n : Nat) : Bool := span.isNone || i.queues.any fun e => decide (e.slot = some n) && i.ctxIn span e.ctx
  let s : State := { s with slots := s.slots.filter fun e => !mine (e.1 / 4096) }
  (i.streams.filter fun x => mine x.1).foldl (fun (s : State) x => s.slotWrite x.1 0 x.2) s

/-- Shadow words are written and committed (11 R300, 10 R284): live from the next boundary. -/
def State.commitWords (s : State) (key : Nat) (words : List (Nat × Nat)) : State :=
  let s := words.foldl (fun (s : State) w => s.putReg w.1 w.2) s
  s.putCommit key (words.map fun w => (w.1, s.reg w.1))

/-- The arbiter sets of the image, and its UND_GROUP values in every controller. -/
def State.putArbs (s : State) (i : Image) : State :=
  let s := i.arbs.foldl (fun (s : State) x => s.commitWords x.1 (x.2.map fun w => (x.1 + w.1, w.2))) s
  let values := match i.und with
    | [v] => undDies.map fun _ => v
    | vs => vs
  (undDies.zip values).foldl (fun (s : State) (die, v) =>
    s.commitWords (Reg.undGroupEn die).off [((Reg.undGroupEn die).off, v)]) s

/-- The save areas of the contexts that are set up are filled with zeros (12 R324). -/
def State.zeroSaves (s : State) (i : Image) (span : Option Nat) : State :=
  (i.chosen span).foldl (fun (s : State) x =>
    s.memPut srcLoader x.1.saveBase (List.replicate (192 * x.1.lathSave) 0)) s

/-- The initial descriptors of a queue, in their order. -/
def Image.initial (i : Image) (q : Nat) : List (List Byte) :=
  (i.descs.filter fun g => g.1 = q).flatMap Prod.snd

/-- Writes the initial descriptors into a ring; HEAD is the given count, and TAIL counts them (16 R450). -/
def State.putRing (s : State) (i : Image) (e : QueueEntry) (q head : Nat) : State :=
  let ds := i.initial q
  let s := ds.zipIdx.foldl (fun (s : State) (d, k) =>
    s.memPut srcLoader (e.ring + k % 2 ^ e.log2 * 128) d) s
  s.setQueue q { QueueState.empty with head := head, tail := ds.length }

/-- The rings of the contexts that are set up. At a load HEAD is 0 and the initial descriptors wait; at a
warm or span reset HEAD and TAIL are both their count (18 R483). -/
def State.putRings (s : State) (i : Image) (span : Option Nat) (again : Bool) : State :=
  (i.queues.zipIdx.filter fun x => i.ctxIn span x.1.ctx).foldl (fun (s : State) (e, q) =>
    s.putRing i e q (if again then (i.initial q).length else 0)) s

/-- The bays of the contexts that are set up take their occupants, and each occupant's Lath is loaded (12
R325). -/
def State.putOccupants (s : State) (i : Image) (span : Option Nat) : State :=
  allBays.foldl (fun (s : State) l =>
    match s.physical l with
    | none => s
    | some b =>
      match i.firstOccupant l with
      | some c => if i.ctxIn span c then (s.occupy b (some c)).loadLath l b c else s
      | none => if span.isNone then s.occupy b none else s) s

/-- Steps 1 to 4 of 16 R449. -/
def State.setUp (s : State) (i : Image) (again : Bool) : State :=
  let s := (s.putKeeps i.keeps).putCascade i.cascade
  let s := s.resetRegs fun o => idxIn o 0x10200 128
  let s := ((s.putSched i).putPegs i none).putTies i none
  let s := (s.putSlots i none).putArbs i
  let s : State := { s with queues := [], watches := [], collseq := [],
                            reliab := { s.reliab with lostSaves := [] } }
  ((s.zeroSaves i none).putRings i none again).putOccupants i none

/-- Step 5, with the heads' watches (11 R311). -/
def State.setUpDone (s : State) (i : Image) : State :=
  let s := (s.setFld Reg.kpImgstatState 3).setFld Reg.kpReadyStage 7
  s.giveWatches.raise srcLoader 0x8 0x02 (i.contexts.length % 2 ^ 7)

/-! ### The rows -/

/-- A refused image (16 R446). -/
def State.refuseImage (s : State) (r : Refuse) : State :=
  let s := (s.setFld Reg.kpImgstatState 4).setFld Reg.kpImgerrCode r.code
  let s := (s.setFld Reg.kpImgerrSection r.sect).setFld Reg.kpImgentEntry r.entry
  s.raise srcLoader 0x8 0x01 (r.code + r.sect % 2 ^ 8 * 2 ^ 8 + r.entry % 2 ^ 8 * 2 ^ 16)

/-- An admitted image: the Kingpost copies its tables, and checks the custom tables (16 R449, 06 R159). -/
def State.admitImage (s : State) (i : Image) : State :=
  let s : State := { s with image := some i }
  let s := s.resetRegs fun o => idxIn o 0x10040 4
  let s := i.tables.foldl (fun (s : State) t => s.checkTable t.1 t.2) s
  s.setFld Reg.kpImgstatState 2

/-- The loader reads the header, and all of the image when the header is in order, from the stacks: what its reads
record (01 R23, 10 R289, R291; log entry 116). -/
def State.noteLoad (s : State) : State :=
  (s.noteRead srcLoader s.imageAddr (if s.check01.isNone then s.img 8 4 else 128)).1

/-- A load starts (16 R445, R446). -/
def State.startLoad (s : State) (p : Path) : State :=
  if s.fld Reg.kpReadyStage = 6 ∧ (s.fld Reg.kpImgstatState = 0 ∨ s.fld Reg.kpImgstatState = 4) then
    match s.admission with
    | some r => s.noteLoad.refuseImage r
    | none => s.noteLoad.admitImage s.readImage
  else s.accessEvent p 0x07 Reg.kpImgctlLoad.off

/-- An unload starts (16 R451); outside STATE 3 it is a malformed access (DESIGN CHOICE, log entry 144). -/
def State.startUnload (s : State) (p : Path) : State :=
  if s.fld Reg.kpImgstatState = 3 then s.setFld Reg.kpImgstatState 5
  else s.accessEvent p 0x07 Reg.kpImgctlLoad.off

/-- A write of KP_IMGCTL (16 R445, R451): LOAD and UNLOAD together take neither. -/
def State.writeImgctl (s : State) (p : Path) (load unload : Bool) : State :=
  if load && unload then s.accessEvent p 0x07 Reg.kpImgctlLoad.off
  else if load then s.startLoad p
  else if unload then s.startUnload p
  else s

/-- IMAGE_LOAD (16 R445, R446, R518): the checks, in ascending code order, and their result. -/
def execImageLoad (p : Path) (s : State) : Host.Outcome State Fault Refusal :=
  .next (s.access p Reg.kpImgctlLoad.off fun s => s.writeImgctl p true false)

/-- IMAGE_LOADED (16 R449, R450, 17 R470). -/
def execImageLoaded (s : State) : Host.Outcome State Fault Refusal :=
  .next (match s.image with
    | none => s
    | some i =>
      if s.up && decide (s.fld Reg.kpImgstatState = 2) then ((s.setUp i false).setFld Reg.wthPlanReplan 0).setUpDone i else s)

/-- IMAGE_UNLOAD (16 R451). -/
def execImageUnload (p : Path) (s : State) : Host.Outcome State Fault Refusal :=
  .next (s.access p Reg.kpImgctlLoad.off fun s => s.writeImgctl p false true)

/-- The sets of every arbiter and UND_GROUP return to their after-reset values. -/
def State.resetSets (s : State) : State :=
  let isSet (o : Nat) : Bool := match RegMap.at? o with
    | some r => r.fields.any fun f => decide (f.acc = .rws)
    | none => false
  { s.resetRegs isSet with live := [], prev := [], commits := [] }

/-- Unbinds and clears what an image gave (16 R451), KP_SHGCHK with it, which tells of the loaded image (06 R159).
KP_SCHED shows no image; SWAPMAX, BEQ and LCHOLD keep their values, and the bays have no occupant (log entry 56). -/
def State.clearImage (s : State) : State :=
  let s := s.resetRegs fun o => idxIn o 0x10040 16 || idxIn o 0x10200 128 || idxIn o 0x40000 65536 || idxIn o 0x80000 8192
  let s := s.putKeeps []
  let s := (s.setFld Reg.kpSchedExcl 0).setFld Reg.kpSchedNctx 0
  let s := s.bays.foldl (fun (s : State) e =>
    let b : PBay := ⟨e.1 / 9, e.1 % 9⟩
    s.setBay b { s.bay b with selected := [], aborted := [], swap := none }) s
  let s := allBays.foldl (fun (s : State) l => match s.physical l with
    | some b => s.occupy b none
    | none => s) s
  { s.resetSets with image := none, queues := [], watches := [], slots := [], media := [], collseq := [],
                     reliab := { s.reliab with lostSaves := [] } }

/-- IMAGE_UNLOAD_COMPLETE (16 R451): when no task runs. -/
def execImageUnloadComplete (s : State) : Host.Outcome State Fault Refusal :=
  .next
    (if s.up && decide (s.fld Reg.kpImgstatState = 5) && !s.anyRunning then
      let s := s.clearImage
      let s := (s.setFld Reg.kpImgstatState 0).setFld Reg.kpReadyStage 6
      s.raise srcLoader 0x8 0x04 0
    else s)

end Sys2Proof.Machine
end

