-- ==== Sys2Proof/Machine/Bringup.lean ====
section
/-! DEFINITION. Start-up and the agreement of features (16 R432 to R438, 10 R290, R292, 19 R505, R506). -/

namespace Sys2Proof.Machine

/-- The event source of feature words and start-up: the manual gives the unit no code (log entry 57). -/
def srcIdent : Source := ⟨30, 0⟩

/-- A start-up stage fails (16 R433, R452, 19 FL_ALERT). -/
def State.bringupFail (s : State) (ecode : Nat) : State :=
  let s := (s.setFld Reg.kpReadyError 1).setFld Reg.kpReadyEcode ecode
  (s.setFld Reg.flAlertBringup 1).raise srcIdent 0x8 0x06 (ecode % 2 ^ 8)

/-! ### Stage 0x1: firmware -/

/-- The boot ROM verifies the active slot, its signature as given and its version against the fused one, and the other
when it fails, which then is the one that runs next too (19 R505, R506; DEDUCED, log entry 128). -/
def State.verifyFirmware (s : State) (slot0 slot1 : Bool) : State :=
  let current (k : Nat) : Bool := decide (s.fld Reg.flFwstatSvn ≤ s.mgmt.fwVer.getD k 0)
  let good (k : Nat) : Bool := (if k = 0 then slot0 else slot1) && current k
  let s := (s.setFlag Reg.flFwstatAok (good 0)).setFlag Reg.flFwstatBok (good 1)
  let active := s.fld Reg.flFwstatSlot
  let run (s : State) (k : Nat) : State :=
    { s with mgmt := { s.mgmt with fwRun := s.mgmt.fwVer.getD k 0 } }
  if good active then (run s active).setFld Reg.kpReadyStage 1
  else if good (1 - active) then
    let s := (s.setFld Reg.flFwstatSlot (1 - active)).setFld Reg.flAlertFw 1
    let s := (run s (1 - active)).raise ⟨31, 2⟩ 0xC 0x01 (1 - active)
    let s : State := { s with mgmt := { s.mgmt with fwNext := 1 - active } }
    s.setFld Reg.kpReadyStage 1
  else s.bringupFail 0x01

/-! ### Stage 0x3: repairs and retirements -/

/-- Key of the spare rows of an address's bank: stack, pseudo-channel, bank group and bank (10 R274, R290). -/
def bankKey (a : Nat) : Nat :=
  stackOf a * 2 ^ 10 + pseudoChannel (a % 2 ^ 36) * 16 + bankOf (a % 2 ^ 36)

/-- The bank of the faulty row of a pending page: the row of the sector that made the page pending (DEDUCED from 10
R290; log entry 117). -/
def State.faultyBank (s : State) (page : Nat) : Nat := bankKey (Store.get s.reliab.pageRow page (page * 2 ^ 16))

/-- Spare rows of a stack, as HBM_RETIRE.SPARES shows them. -/
def State.showSpares (s : State) (stack : Nat) : State :=
  s.setFld (Reg.hbmRetireSpares (stackDie stack))
    (satTo 0xFF (s.reliab.spareRows.foldl (fun n e => if e.1 / 2 ^ 10 = stack then n + e.2 else n) 0))

/-- A pending page is settled: it leaves the history's list. -/
def State.settlePage (s : State) (page : Nat) : State :=
  let d := stackDie (page / 2 ^ 20)
  let s : State := { s with reliab := { s.reliab with
    pagePend := s.reliab.pagePend.filter fun x => x ≠ page
    pageRow := Store.set s.reliab.pageRow page 0 0 } }
  s.setFld (Reg.hbmRetirePending d) (s.fld (Reg.hbmRetirePending d) - 1)

/-- A pending page is repaired while its bank has a spare row, else retired into the first free entry of
HBM_RLIST; with none free it stays pending (10 R290, R292). -/
def State.treatPage (s : State) (page : Nat) : State :=
  let stack := page / 2 ^ 20
  let d := stackDie stack
  let src := srcCtl stack
  let bank := s.faultyBank page
  let left := Store.get s.reliab.spareRows bank 0
  if left ≠ 0 then
    let s : State := { s with reliab := { s.reliab with
      spareRows := Store.set s.reliab.spareRows bank (left - 1) 0 } }
    ((s.settlePage page).showSpares stack).raise src 0x3 0x05 (page % 2 ^ 20)
  else
    match (List.range 64).find? fun k => !s.flag (Reg.hbmRlistValid d k) with
    | some k =>
      let s := (s.setFld (Reg.hbmRlistPage d k) (page % 2 ^ 20)).setFld (Reg.hbmRlistValid d k) 1
      let s := s.setFld (Reg.hbmRetireCount d) (s.fld (Reg.hbmRetireCount d) + 1)
      (s.settlePage page).raise src 0x3 0x05 (page % 2 ^ 20 + 2 ^ 20)
    | none => s.raise src 0x3 0x07 (page % 2 ^ 20)

/-! ### The row -/

/-- Unit 3 is lit and a host port is UP (16 R432 stage 0x4). -/
def State.hostPortUp (s : State) : Bool :=
  s.lit 28 && decide (s.pstate 28 = 2 ∨ s.pstate 29 = 2)

/-- What the stage after `stage` does when it succeeds. -/
def State.reachStage (s : State) (stage : Nat) (mesh : MeshTest) : State :=
  match stage with
  | 1 =>
    -- the mesh and ligger net are trained afresh (17 R453, R454), and the clock is the history's
    let s := s.trainMesh mesh
    if meshDown mesh then s.bringupFail 0x04
    else (s.setFld Reg.kpClockMhz (1600 - 16 * s.fld Reg.wthPlanFstep)).setFld Reg.kpReadyStage 2
  | 2 =>
    -- the self-test loses the stack contents (18 R492)
    let s : State := { s with mem := [], poison := [] }
    (s.reliab.pagePend.foldl State.treatPage s).setFld Reg.kpReadyStage 3
  | 3 =>
    if s.hostPortUp then
      let s : State := { s with hostPort := if s.pstate 28 = 2 then 28 else 29 }
      s.setFld Reg.kpReadyStage 4
    else s
  | 4 => s.setFld Reg.kpReadyStage 5
  | _ => s

/-- BRINGUP_STAGE_COMPLETE (16 R432, R433, 19 R506, 10 R290, 14 R416): the next stage is reached, or fails
with the given code. -/
def execBringupStageComplete (r : StageResult) (s : State) : Host.Outcome State Fault Refusal :=
  let stage := s.fld Reg.kpReadyStage
  .next
    (if !s.up || decide (5 ≤ stage) || s.flag Reg.kpReadyError then s
    else if stage = 0 then s.verifyFirmware r.slot0 r.slot1
    else if r.ok then s.reachStage stage r.mesh
    else s.bringupFail r.ecode)

/-! ### Feature words -/

/-- A write of a KP_FEATACC register, of the word and register numbers given (16 R435, R437, R438). -/
def State.writeFeatAcc (s : State) (p : Path) (k : Nat) (value : Word) : State :=
  let off := (Reg.kpFeataccBits k).off
  if s.fld Reg.kpReadyStage < 5 then s.accessEvent p 0x07 off
  else if s.flag Reg.kpFeatstatLocked then s.accessEvent p 0x0A off
  else s.setReg off value

/-- FEAT_ACC_WRITE (16 R435, R437, R438). -/
def execFeatAccWrite (p : Path) (word reg : Nat) (value : Word) (s : State) : Host.Outcome State Fault Refusal :=
  .next (s.access p (Reg.kpFeataccBits (4 * word + reg)).off fun s => s.writeFeatAcc p (4 * word + reg) value)

/-- Bits of a register of the accepted words that are not offered, and CORE when it is missing (16 R436). -/
def State.offending (s : State) (k : Nat) : Nat :=
  let acc := s.fld (Reg.kpFeataccBits k)
  let dev := (s.reg (0x10 + 4 * k)).toNat
  let extra := (List.range 32).foldl (fun n b =>
    n + (if bits acc b 1 = 1 ∧ bits dev b 1 = 0 then 2 ^ b else 0)) 0
  if k = 0 ∧ acc % 2 = 0 then extra + 1 else extra

/-- The lowest offending bit: word and bit. -/
def State.firstOffending (s : State) : Option (Nat × Nat) :=
  ((List.range 512).find? fun n => bits (s.offending (n / 32)) (n % 32) 1 = 1).map fun n => (n / 128, n % 128)

/-- A lock while the words are open (16 R436, 14 R416), the lowest offending bit given. -/
def State.lockWith (s : State) (offending : Option (Nat × Nat)) : State :=
  match offending with
  | some (w, b) => (s.setFld Reg.kpFeatstatRejected 1).raise srcIdent 0x8 0x05 (w + 4 * b)
  | none =>
    let s := (s.setFld Reg.kpFeatstatLocked 1).setFld Reg.kpFeatstatRejected 0
    let s := s.setFld Reg.kpReadyStage 6
    if s.agreed 3 2 then s else s.setFld (Reg.eavStateState (57 - s.hostPort)) 0

/-- A lock while the words are open. -/
def State.lockWords (s : State) : State := s.lockWith s.firstOffending

/-- A write of KP_FEATCTL (16 R436 to R438). -/
def State.writeFeatctl (s : State) (p : Path) (lock : Bool) : State :=
  let off := Reg.kpFeatctlLock.off
  if s.fld Reg.kpReadyStage < 5 then s.accessEvent p 0x07 off
  else if s.flag Reg.kpFeatstatLocked then s.accessEvent p 0x0A off
  else if lock then s.lockWords
  else s

/-- FEATURE_LOCK (16 R436 to R438): a write of KP_FEATACC that the other path brings in the same cycle, as
register and value, comes after the lock. -/
def execFeatureLock (p : Path) (same : Option (Nat × Word)) (s : State) : Host.Outcome State Fault Refusal :=
  let s := s.access p Reg.kpFeatctlLock.off fun s => s.writeFeatctl p true
  .next (match same with
    | some (k, v) => s.access (otherPath p) (Reg.kpFeataccBits k).off fun s => s.writeFeatAcc (otherPath p) k v
    | none => s)

end Sys2Proof.Machine
end

