-- ==== Sys2Proof/Machine/Sync.lean ====
section
/-! DEFINITION. Pegs, watches and ties: the tasks that work on them and the arrival of a watch (11 R306 to
R316). -/

namespace Sys2Proof.Machine

/-- A task whose whole operation is performed as it runs: only its completion is left (09 R227; log entry
39). -/
def State.runDone (s : State) (b : PBay) (t : Task) (overlaps : Bool) : State :=
  let r := { newRunning s t overlaps [] with phase := 1 }
  let v := s.bay b
  s.setBay b { v with running := v.running ++ [r] }

/-- A PEG task (11 R307, 09 R260). One that an abort met after its operation does not perform it again (17 R463). -/
def startPeg (op : PegOp) (s : State) (b : PBay) (t : Task) (overlaps : Bool) : State :=
  let s := if t.acted then s else s.sendPeg (le t.desc 32 2)
    { op := op, value := BitVec.ofNat 32 (le t.desc 36 4), die := b.die, ctx := (s.queueCtx t.queue).getD 0 }
  s.runDone b t overlaps

/-- PEG_SET (11 R307). -/
def execPegSet (b : Bay) (s : State) : Host.Outcome State Fault Refusal :=
  .next (s.startTask b (opPeg, 1) (startPeg .set))

/-- PEG_ADD (11 R307). -/
def execPegAdd (b : Bay) (s : State) : Host.Outcome State Fault Refusal :=
  .next (s.startTask b (opPeg, 2) (startPeg .add))

/-- PEG_SUB (11 R307). -/
def execPegSub (b : Bay) (s : State) : Host.Outcome State Fault Refusal :=
  .next (s.startTask b (opPeg, 3) (startPeg .sub))

/-- WATCH_ARRIVE (11 R309, R311, R314): the watch of a queue's head task reaches the peg unit, behind those that its
die sent before it. -/
def execWatchArrive (queue : Nat) (s : State) : Host.Outcome State Fault Refusal :=
  .next (match s.watches.find? fun w => decide (w.queue = queue ∧ w.arrived = false) with
    | none => s
    | some w => (((s.underWay w.bay.die).takeWhile fun x => decide (x ≠ w)).foldl State.watchIn s).watchIn w)

/-! ### Ties -/

/-- A tie operation in the issuing context's partition; another is discarded and recorded (11 R316). One that was performed
before an abort is not performed again (17 R463). -/
def State.tieOp (s : State) (b : PBay) (t : Task) (act : State → Nat → Nat → State) : State :=
  let tie := dbits t.desc 32 0 12
  let ctx := (s.queueCtx t.queue).getD 0
  if t.acted then s
  else if s.tieIn ctx tie then act s tie ctx else s.raise ⟨30, 9⟩ 0x4 0x03 (tie + b.die % 32 * 2 ^ 12)

/-- An arrival; the last of a generation releases the tie (11 R315). -/
def State.arrive (s : State) (b : PBay) (tie ctx : Nat) : State :=
  let n := s.fld (Reg.tieStatArrived tie) + 1
  if s.fld (Reg.tieStatMembers tie) = n then
    let s := (s.setFld (Reg.tieStatArrived tie) 0).step1 (Reg.tieStatGen tie)
    s.addPeg (s.fld (Reg.tieRelPeg tie)) 1 b.die ctx
  else s.setFld (Reg.tieStatArrived tie) n

/-- TIE_ARRIVE (11 R315). -/
def execTieArrive (b : Bay) (s : State) : Host.Outcome State Fault Refusal :=
  .next (s.startTask b (opTie, 1) fun s b t overlaps =>
    (s.tieOp b t fun s tie ctx => s.arrive b tie ctx).runDone b t overlaps)

/-- TIE_RESET (11 R315). -/
def execTieReset (b : Bay) (s : State) : Host.Outcome State Fault Refusal :=
  .next (s.startTask b (opTie, 2) fun s b t overlaps =>
    (s.tieOp b t fun s tie _ => s.setFld (Reg.tieStatArrived tie) 0).runDone b t overlaps)

end Sys2Proof.Machine
end

