-- ==== Sys2Proof/Machine/Vector.lean ====
section
/-! DEFINITION. The tasks of the Purlin unit: ELEM, SFU, NORM, POOL, MOVE and KVAPPEND (06, 07 R186 to R189,
08 R214, 09 R253 to R258). -/

namespace Sys2Proof.Machine

/-! ### Exact re-coding -/

/-- The code of a value that a format holds exactly: what a copy without a conversion gives. -/
def exactCode (fmt : Nat) (v : Val) : Nat :=
  match floatOf fmt with
  | some f =>
    (match v with
     | .nan => f.canonical
     | .inf s => f.infinity s
     | .fin s n _ e => f.pack s n e)
  | none =>
    (match v with
     | .fin s n _ e => let x := Val.scale n 1 e; toTwos (fmtBits fmt) (if s then -((x.1 / x.2 : Nat) : Int) else (x.1 / x.2 : Nat))
     | _ => 0)

/-- A value delivered in an output format: itself where the formats agree, else converted (03 R84 to R87). -/
def deliver (ar : Arith) (inFmt outFmt : Nat) (v : Val) : Nat × Cnt :=
  if inFmt = outFmt then (exactCode outFmt v, Cnt.none) else convert ar outFmt v

/-- The greater of two values by 07 R187: a NaN for a NaN, +0 above −0. -/
def maxVal (x y : Val) : Val :=
  if x.isNan || y.isNan then .nan
  else if x.less y then y
  else if y.less x then x
  else if x.isZero && x.sign then y else x

/-- The lesser of two values by the same comparison. -/
def minVal (x y : Val) : Val := (maxVal x.neg y.neg).neg

/-! ### ELEM -/

/-- The exact result of an element-wise operation, and whether a NaN arose from operands that are none (09
R254, 04 R114). `down` gives an exact zero sum the sign −. -/
def elemExact (op : Nat) (down : Bool) (x y z scal : Val) : Val × Bool :=
  let v : Val := match op with
    | 0x01 => x.add y down
    | 0x02 => x.add y.neg down
    | 0x03 => x.mul y
    | 0x04 => (x.mul y).add z down
    | 0x05 => maxVal x y
    | 0x06 => minVal x y
    | 0x07 => x.mul scal
    | 0x09 => x.abs
    | 0x0A => x.neg
    | _ => x
  let two := decide (op = 1 ∨ op = 2 ∨ op = 3 ∨ op = 4 ∨ op = 5 ∨ op = 6)
  (v, v.isNan && !(x.isNan || (two && y.isNan) || (decide (op = 4) && z.isNan) || (decide (op = 7) && scal.isNan)))

/-- One rounding of an element-wise result to its output format (04 R105, R114, 09 R254). -/
def roundElem (ar : Arith) (fmt : Nat) (v : Val) (invalid : Bool) : Nat × Cnt :=
  match floatOf fmt with
  | some f =>
    if ar.strict then
      let (c, n) := roundStrict f ar.rnd v
      (c, if invalid then { n with flags := n.flags ||| 16 } else n)
    else roundFast f ar.ovf v
  | none => toInteger (fmtBits fmt) v

/-- The exact INT32 result of an integer operation (09 R254). -/
def elemInt (op : Nat) (x y z : Int) : Int :=
  match op with
  | 0x01 => x + y
  | 0x02 => x - y
  | 0x03 => x * y
  | 0x04 => x * y + z
  | 0x05 => max x y
  | 0x06 => min x y
  | 0x09 => x.natAbs
  | 0x0A => -x
  | _ => x

/-- Inputs of an ELEM operation besides X: Y, and Z. -/
def elemUsesY (op : Nat) : Bool := decide (op = 1 ∨ op = 2 ∨ op = 3 ∨ op = 4 ∨ op = 5 ∨ op = 6 ∨ op = 8)
def elemUsesZ (op : Nat) : Bool := decide (op = 4)

/-- Every input operand of the operation is INT32, and it is not scale (09 R254). -/
def elemIsInt (d : List Byte) : Bool :=
  let op := le d 68 1
  decide (op ≠ 0 ∧ op ≠ 7 ∧ (refAt d 32).fmt = fINT32 ∧ (elemUsesY op = true → (refAt d 40).fmt = fINT32) ∧
    (elemUsesZ op = true → (refAt d 48).fmt = fINT32))

/-- One element of an element-wise task in its output format (09 R254). -/
def State.elemOne (s : State) (b : PBay) (ar : Arith) (d : List Byte) (row i : Nat) : Nat × Cnt :=
  let op := le d 68 1
  let len := le d 76 4
  let out := refAt d 56
  let yRow := if dbits d 69 0 1 = 1 then 0 else row
  let zRow := if dbits d 69 1 1 = 1 then 0 else row
  if op = 0 then
    convert ar out.fmt (s.value b (refAt d 32) len row i)
  else if elemIsInt d then
    let y := if elemUsesY op then s.intValue b (refAt d 40) len yRow i else 0
    let z := if elemUsesZ op then s.intValue b (refAt d 48) len zRow i else 0
    let r := elemInt op (s.intValue b (refAt d 32) len row i) y z
    let (v, c) := if op = 5 ∨ op = 6 then (r, Cnt.none) else rangeStep ar.ovf r
    let (code, n) := deliver ar fINT32 out.fmt (Val.ofInt v)
    (code, c.plus n)
  else
    let x := s.value b (refAt d 32) len row i
    let y := if elemUsesY op then s.value b (refAt d 40) len yRow i else Val.zero
    let z := if elemUsesZ op then s.value b (refAt d 48) len zRow i else Val.zero
    let (v, bad) := elemExact op (ar.strict && decide (ar.rnd = .down)) x y z (decodeElem fFP32 (le d 64 4))
    roundElem ar out.fmt v bad

/-- A dot of two rows (04 R104, R113). -/
def State.elemDot (s : State) (b : PBay) (ar : Arith) (d : List Byte) (row : Nat) : Acc64 × Cnt :=
  let x := refAt d 32
  let y := refAt d 40
  let len := le d 76 4
  let yRow := if dbits d 69 0 1 = 1 then 0 else row
  if elemIsInt d then
    let prods := (List.range len).map fun i => s.intValue b x len row i * s.intValue b y len yRow i
    let (v, c) := dotInt ar.ovf 0 (chunks32 len prods)
    (.int v, c)
  else if ar.strict then
    let (v, c) := dotStrict ar Val.zero ((List.range len).map fun i => (s.value b x len row i, s.value b y len yRow i))
    (.float v, c)
  else
    let (v, c) := dotFast ar Val.zero (slatesOf ((List.range len).map fun i =>
      (dotElem ar x.fmt (s.code b x len row i), dotElem ar y.fmt (s.code b y len yRow i))) fun _ => some 0)
    (.float v, c)

/-- How an element leaves: by the array's element-wise path under TRUSS. A STRICT task never uses the array (05 R122,
R143). -/
def elemRoute (d : List Byte) (strict : Bool) (row i : Nat) : Route :=
  if dbits d 69 2 1 = 1 ∧ strict = false then Route.diagonal (row * le d 76 4 + i) else Route.purlin

/-- ELEM: the results. -/
def elemParts (s : State) (b : PBay) (t : Task) : Parts :=
  let d := t.desc
  let ar := s.arithOfQueue t.queue
  let rows := le d 72 4
  let len := le d 76 4
  let out := refAt d 56
  [(b, Result.all (List.range rows) fun row =>
    if le d 68 1 = 8 then
      let (v, c) := s.elemDot b ar d row
      (Result.count (c.plus (v.nan ar))).then_ (putValue b ar Route.purlin out 1 row 0 v.val)
    else Result.all (List.range len) fun i =>
      let (code, c) := s.elemOne b ar d row i
      { outs := [putCode b (elemRoute d ar.strict row i) out len row i code], cnt := c })]

/-- ELEM (09 R253, R254). -/
def execElem (r : TaskRun) (s : State) : Host.Outcome State Fault Refusal := .next (s.startPlain r.bay opElem elemParts r.member r.sram)

/-! ### SFU -/

/-- SFU: the function of each element (06 R146 to R158, 09 R255). -/
def sfuParts (s : State) (b : PBay) (t : Task) : Parts :=
  let d := t.desc
  let ovf := (s.arithOfQueue t.queue).ovf
  let tables := (s.image.map Image.tables).getD []
  let n := le d 52 4
  let out := refAt d 40
  [(b, Result.all (List.range n) fun i =>
    let x := s.value b (refAt d 32) n 0 i
    let (code, c) := sfuEval ovf tables (dbits d 48 0 5) out.fmt x
    { outs := [putCode b Route.purlin out n 0 i code], cnt := c })]

/-- SFU (09 R255). -/
def execSfu (r : TaskRun) (s : State) : Host.Outcome State Fault Refusal := .next (s.startPlain r.bay opSfu sfuParts r.member r.sram)

/-! ### NORM -/

/-- A value rounded once to Tally64. -/
def toTally (v : Val) : Val := decodeElem fTally (tallyCode v)

/-- The sum of a list in ascending order, one rounding to Tally64 per addition (06 R164). It starts from the first
element, be it the first tap of an average (07 R188; DESIGN CHOICE, log entry 135). -/
def tallySum (vs : List Val) : Val :=
  match vs with
  | [] => Val.zero
  | v :: t => t.foldl (fun a x => toTally (a.add x)) v

/-- Mean and variance of a row (06 R164 to R166), and whether a negative one-pass variance was replaced. -/
def rowStats (kind : Nat) (onePass : Bool) (xs : List Val) : Val × Val × Bool :=
  let n := Val.ofInt xs.length
  let sq (l : List Val) : Val := tallySum (l.map fun x => toTally (x.mul x))
  if kind = 1 then (Val.zero, toTally ((sq xs).div n), false)
  else
    let mean := toTally ((tallySum xs).div n)
    if onePass then
      let v := toTally ((toTally ((sq xs).div n)).add (toTally (mean.mul mean)).neg)
      if v.sign && !v.isZero then (mean, Val.zero, true) else (mean, v, false)
    else (mean, toTally ((sq (xs.map fun x => toTally (x.add mean.neg))).div n), false)

/-- The channel or position whose γ and β an element takes (09 R256). -/
def normIndex (d : List Byte) (row j : Nat) : Nat :=
  if dbits d 68 0 4 = 2 then
    row % max (le d 82 2) 1 * le d 80 2 + j / max (le d 84 4) 1
  else j

/-- A normalised row (06 R163 to R168); beta is +0 with HASBETA 0 (09 R256). -/
def State.normRow (s : State) (b : PBay) (ar : Arith) (d : List Byte) (row : Nat) (xs : List Val) :
    List Val × Cnt :=
  let kind := dbits d 68 0 4
  let has := decide (dbits d 68 4 1 = 1)
  let gammas := if kind = 2 then le d 82 2 * le d 80 2 else le d 76 4
  if xs.all Val.isFin then
    let (mean, v, neg) := rowStats kind (decide (dbits d 68 5 1 = 1)) xs
    let ve := toTally (v.add (decodeElem fFP32 (le d 64 4)))
    let r := rsqrtTally ve
    let (ys, c) := mapCnt xs.zipIdx fun (x, j) =>
      let dj := if kind = 1 then x else toTally (x.add mean.neg)
      let (zc, c0) := roundFast fp32 ar.ovf (dj.mul r)
      let z := decodeElem fFP32 zc
      let g := s.value b (refAt d 48) gammas 0 (normIndex d row j)
      let beta := if has then s.value b (refAt d 56) gammas 0 (normIndex d row j) else Val.zero
      let y := (z.mul g).add beta
      let (yc, c1) := roundFast fp32 ar.ovf y
      (decodeElem fFP32 yc, c0.plus c1)
    (ys, c.plus (if neg then { Cnt.none with varneg := 1, status := stVarneg } else Cnt.none))
  else (xs.map fun _ => .nan, { Cnt.none with nanrow := 1 })

/-- A soft maximum (06 R160, R161): Tally64 quotients. -/
def softmaxRow (xs : List Val) : List Val × Cnt :=
  if xs.any Val.isNan then (xs.map fun _ => .nan, { Cnt.none with nanrow := 1 })
  else if xs.all fun x => x = .inf true then (xs.map fun _ => Val.zero, { Cnt.none with status := stEmpty })
  else
    let (es, c) := mapCnt xs fun x => let (y, n) := clampCnt x; (expTally y, n)
    let (sum, sat) := es.foldl (fun acc e => let (v, t) := tallyAdd acc.1 e; (v, acc.2 || t)) (Val.zero, false)
    (es.map fun e => toTally (e.div sum),
     c.plus (if sat then { Cnt.none with sumsat := 1, status := stSumsat } else Cnt.none))

/-- NORM: the results; statistics and conversions in fast mode (06 R146). -/
def normParts (s : State) (b : PBay) (t : Task) : Parts :=
  let d := t.desc
  let ar := attnArith (s.arithOfQueue t.queue).ovf
  let len := le d 76 4
  [(b, Result.all (List.range (le d 72 4)) fun row =>
    let xs := s.rowValues b (refAt d 32) len row
    let (ys, c) := if dbits d 68 0 4 = 3 then softmaxRow xs else s.normRow b ar d row xs
    (Result.count c).then_ (putValues s b ar Route.purlin (refAt d 40) len row 0 ys))]

/-- NORM (06 R163, 09 R256). -/
def execNorm (r : TaskRun) (s : State) : Host.Outcome State Fault Refusal := .next (s.startPlain r.bay opNorm normParts r.member r.sram)

/-! ### POOL -/

/-- The window of a POOL task with each channel a group of its own. -/
def poolWindow (d : List Byte) : Window := { windowOf d with groups := (windowOf d).c }

/-- The result of a pooling window, before its delivery; `none` for a copy keeps the input format (07 R186
to R188). -/
def State.poolValue (s : State) (b : PBay) (d : List Byte) (n c ot oh ow : Nat) : Val × Bool :=
  let w := poolWindow d
  let r := refAt d 32
  let kind := poolKind d
  let taps := (List.range (w.t.k * w.h.k * w.w.k)).map fun k => s.tapCode b r w n c ot oh ow k
  let padv := decodeElem r.fmt (w.padCode r.fmt)
  let inside := taps.filterMap fun t => t.map (decodeElem r.fmt)
  let all := taps.map fun t => match t with | some code => decodeElem r.fmt code | none => padv
  if kind = 1 then (toTally ((tallySum all).div (Val.ofInt taps.length)), false)
  else match inside with
    | [] => (padv, true)
    | x :: rest =>
      if kind = 0 then (rest.foldl maxVal x, true)
      else (toTally ((tallySum inside).div (Val.ofInt inside.length)), false)

/-- One step of linear interpolation: position `o` on an axis of extent `n` enlarged by `f` (07 R189): the
two source positions and the weight. -/
def lerpAt (n f o : Nat) : Nat × Nat × Val :=
  -- p = (2 o + 1 - f) / (2 f)
  let p : Int := 2 * (o : Int) + 1 - f
  let i := Int.fdiv p (2 * f)
  let num := (p - i * (2 * f)).toNat
  let hold (x : Int) : Nat := min x.toNat (n - 1)
  (hold i, hold (i + 1), decodeElem fFP32 (roundFast fp32 false (vRat num (2 * f))).1)

/-- (1 − λ) a + λ b rounded once to FP32 (07 R189). -/
def lerp (ovf : Bool) (l x y : Val) : Val × Cnt :=
  let (c, n) := roundFast fp32 ovf (((vOne.add l.neg).mul x).add (l.mul y))
  (decodeElem fFP32 c, n)

/-- One axis of a linear up-sampling: `n` lines of values, each replaced by its interpolations, for every
factor from 1 on (07 R189). -/
def lerpAxis (ovf : Bool) (f : Nat) (lines : List (List Val)) : List (List Val) × Cnt :=
  mapCnt lines fun line =>
    mapCnt (List.range (line.length * f)) fun o =>
      let (i, j, l) := lerpAt line.length f o
      lerp ovf l (line.getD i Val.zero) (line.getD j Val.zero)

/-- The lines of a T × H × W block along its columns: each list of lines is transposed. -/
def transposeLines (ls : List (List Val)) : List (List Val) :=
  match ls with
  | [] => []
  | l :: _ => (List.range l.length).map fun i => ls.map fun x => x.getD i Val.zero

/-- Cuts a list into runs of `n`. -/
def cutRuns {α : Type} (n fuel : Nat) (l : List α) : List (List α) :=
  match fuel with
  | 0 => []
  | k + 1 => if l.isEmpty then [] else l.take n :: cutRuns n k (l.drop n)

/-- A linear up-sampling of one channel: W, then H, then T (07 R189). The result is indexed by T × H and
W. -/
def State.upLinear (s : State) (b : PBay) (ovf : Bool) (d : List Byte) (n c : Nat) : List (List Val) × Cnt :=
  let w := windowOf d
  let r := refAt d 32
  let (ft, fh, fw) := upFactors d
  let at_ (t h x : Nat) : Val := let (len, row, i) := inPlace w n c t h x; s.value b r len row i
  let src := (List.range (w.t.ext * w.h.ext)).map fun k =>
    (List.range w.w.ext).map fun x => at_ (k / w.h.ext) (k % w.h.ext) x
  let (byW, c1) := lerpAxis ovf fw src
  -- for each T, the planes of H × W with their columns interpolated
  let (planes, c2) := mapCnt (cutRuns w.h.ext (w.t.ext * w.h.ext) byW) fun plane =>
    let (cols, c) := lerpAxis ovf fh (transposeLines plane)
    (transposeLines cols, c)
  -- along T: each place of a plane is a line
  let flat := planes.map List.flatten
  let (lines, c3) := lerpAxis ovf ft (transposeLines flat)
  let outW := w.w.ext * max fw 1
  let out := (transposeLines lines).flatMap fun plane => cutRuns outW (w.h.ext * max fh 1) plane
  (out, (c1.plus c2).plus c3)

/-- The outputs of one channel of an up-sampling. -/
def State.upParts (s : State) (b : PBay) (ar : Arith) (d : List Byte) (n c : Nat) : Result :=
  let w := windowOf d
  let r := refAt d 32
  let out := refAt d 40
  let (ft, fh, fw) := upFactors d
  let (ot, oh, ow) := outExtents d
  let rowOf (k : Nat) : Nat := (n * w.c + c) * ot * oh + k
  if poolKind d = 3 then
    Result.all (List.range (ot * oh)) fun k =>
      Result.all (List.range ow) fun x =>
        let (len, row, i) := inPlace w n c (k / oh / max ft 1) (k % oh / max fh 1) (x / max fw 1)
        if r.fmt = out.fmt then
          { outs := [putCode b Route.purlin out ow (rowOf k) x (s.code b r len row i)], cnt := Cnt.none }
        else putValue b ar Route.purlin out ow (rowOf k) x (s.value b r len row i)
  else
    let (lines, cnt) := s.upLinear b ar.ovf d n c
    (Result.count cnt).then_ (Result.all lines.zipIdx fun (line, k) =>
      Result.all line.zipIdx fun (v, x) => putValue b ar Route.purlin out ow (rowOf k) x v)

/-- POOL: the results. -/
def poolParts (s : State) (b : PBay) (t : Task) : Parts :=
  let d := t.desc
  let ar := s.arithOfQueue t.queue
  let w := windowOf d
  let r := refAt d 32
  let out := refAt d 40
  let (ot, oh, ow) := outExtents d
  [(b, Result.all (List.range w.ns) fun n =>
    Result.all (List.range w.c) fun c =>
      if 3 ≤ poolKind d then s.upParts b ar d n c
      else Result.all (List.range (ot * oh)) fun k =>
        Result.all (List.range ow) fun x =>
          let (v, same) := s.poolValue b d n c (k / oh) (k % oh) x
          let (code, cnt) := deliver ar (if same then r.fmt else fTally) out.fmt v
          { outs := [putCode b Route.purlin out ow ((n * w.c + c) * ot * oh + k) x code], cnt := cnt })]

/-- POOL (07 R186 to R189, 09 R249). -/
def execPool (r : TaskRun) (s : State) : Host.Outcome State Fault Refusal := .next (s.startPlain r.bay opPool poolParts r.member r.sram)

/-! ### MOVE -/

/-- Redirects outputs for a Lath to another bay's. -/
def toLathOf (x : PBay) (r : Result) : Result :=
  { r with outs := r.outs.map fun w => match w.space with
      | .lath _ => { w with space := .lath x }
      | .mem => w }

/-- A row of a target from a row of codes and scales, copied bit for bit (09 R257). -/
def State.copyRow (s : State) (b : PBay) (src dst : Ref) (cols row : Nat) : Result :=
  let n := src.rowBytes cols
  { outs :=
      [{ bay := b, gutters := [], entry := (0, 0), space := dst.space b, addr := dst.rowAddr cols row,
         data := (s.fetch b src.lath (src.rowAddr cols row) n).map some }] ++
      (if src.block then
        [{ bay := b, gutters := [], entry := (0, 0), space := if dst.scaleLath then .lath b else .mem,
           addr := dst.scaleAddr cols row 0,
           data := (s.fetch b src.scaleLath (src.scaleAddr cols row 0) (rowBlocks cols * src.scaleBytes)).map some }]
       else []),
    cnt := Cnt.none }

/-- The outputs of a MOVE in its own bay's reach: copies where the formats agree, else conversions (09
R257). -/
def State.moveResult (s : State) (b : PBay) (ar : Arith) (d : List Byte) (src dst : Ref) : Result :=
  let rows := le d 68 4
  let cols := le d 72 4
  let batch := le d 76 4
  let same := decide (src.fmt = dst.fmt ∧ src.block = dst.block)
  if le d 64 1 = 1 then
    Result.all (List.range (batch * cols)) fun k =>
      let n := k / cols
      let c := k % cols
      if same && !src.block then
        Result.all (List.range rows) fun i =>
          { outs := [putCode b Route.purlin dst rows k i (s.code b src cols (n * rows + i) c)], cnt := Cnt.none }
      else putValues s b ar Route.purlin dst rows k 0
        ((List.range rows).map fun i => s.value b src cols (n * rows + i) c)
  else
    Result.all (List.range (batch * rows)) fun row =>
      if same then s.copyRow b src dst cols row
      else putValues s b ar Route.purlin dst cols row 0 (s.rowValues b src cols row)

/-- MOVE: the results. Kind 0x2 writes the Lath of the physical bay that serves its target as the task
starts; a logical bay that no bay serves takes nothing (log entry 47). -/
def moveParts (s : State) (b : PBay) (t : Task) : Parts :=
  let d := t.desc
  let ar := s.arithOfQueue t.queue
  let r := s.moveResult b ar d (moveRef d 32 48) (moveDst d)
  if le d 64 1 = 2 then
    match s.physical ⟨dbits d 65 0 5, dbits d 66 0 3⟩ with
    | some x => [(b, toLathOf x r)]
    | none => [(b, Result.count r.cnt)]
  else [(b, r)]

/-- MOVE (09 R257). -/
def execMove (r : TaskRun) (s : State) : Host.Outcome State Fault Refusal := .next (s.startPlain r.bay opMove moveParts r.member r.sram)

/-! ### KVAPPEND -/

/-- A token of keys or values into its page (08 R210, R214). -/
def State.appendToken (s : State) (b : PBay) (ar : Arith) (src : Ref) (fmt dim table tok i : Nat) : Result :=
  let slot := tok % 128
  let page := entryPage (s.pageEntry table (tok / 128))
  let vs := s.rowValues b src dim i
  let put (a : Nat) (bs : List Byte) : OutWrite :=
    { bay := b, gutters := [], entry := (0, 0), space := .mem, addr := a, data := bs.map some }
  if cacheForm fmt then
    Result.all ((chunks32 vs.length vs).zipIdx) fun (blk, c) =>
      let (scale, codes, n) := kvBlock fmt blk
      { outs := [put (page + slot * dim * fmtBits fmt / 8 + c * 4 * fmtBits fmt) (packCodes (fmtBits fmt) codes 0),
                 put (page + scalePlane fmt dim + (slot * (dim / 32) + c) * 2) (toLe 2 scale)], cnt := n }
  else
    Result.all vs.zipIdx fun (v, j) =>
      let (code, n) := convert ar fmt v
      { outs := [put (page + (slot * dim + j) * 2) (toLe 2 code)], cnt := n }

/-- KVAPPEND: the results. -/
def kvappendParts (s : State) (b : PBay) (t : Task) : Parts :=
  let d := t.desc
  let ar := s.arithOfQueue t.queue
  let fmt := dbits d 48 40 4
  let dim := headDim d
  [(b, Result.all (List.range (kvTok d)) fun i =>
    (s.appendToken b ar (refAt d 32) fmt dim (kvTables d).1 (kvPos d + i) i).then_
      (s.appendToken b ar (refAt d 40) fmt dim (kvTables d).2 (kvPos d + i) i))]

/-- KVAPPEND (08 R214, 09 R258). -/
def execKvappend (r : TaskRun) (s : State) : Host.Outcome State Fault Refusal :=
  .next (s.startPlain r.bay opKvappend kvappendParts r.member r.sram)

end Sys2Proof.Machine
end

