-- ==== Sys2Proof/Machine/Media.lean ====
section
/-! DEFINITION. The media engines and pre-processors: acceptance of picture jobs, sessions, picture records,
sample conversion, the pre-processor's stages, and what happens when input stops (13). The codecs themselves, which
the manual does not teach, are functions of Config (log entry 15). -/

namespace Sys2Proof.Machine

/-! ### Acceptance of a job -/

/-- Key and slot of a job: a pre-processor has one queue and ignores the slot (13 R349). -/
def mediaSlot (d : List Byte) : Nat := if le d 49 1 = 2 then 0 else dbits d 50 0 3

/-- A job is refused because its slot is closed or closing (13 R350). -/
def Session.refuses (v : Session) (kind : EngKind) (open_ : Bool) : Bool :=
  match kind with
  | .preprocess => false
  | _ => !open_ && (!v.isOpen || v.jobs.any Job.close)

/-- Reads the parameter block of a job (13 R352). -/
def State.readBlock (s : State) (e : Eng) (j : Job) : List Byte × State :=
  (s.peekN j.param 128, (s.noteRead (srcEng e) j.param 128).1)

/-- The gable die of an engine runs. -/
def State.gableUp (s : State) (e : Eng) : Bool := s.up && s.powered (28 + e.gable) && s.clocked

/-- An OPEN at the head of a slot's queue takes effect: it closes the session before it, discards its state, and opens the
slot with the parameter block at PARAM (13 R349). -/
def State.openHead (s : State) (e : Eng) (slot : Nat) : State :=
  let v := s.session e slot
  match v.jobs with
  | [] => s
  | j :: rest =>
    if j.open_ && decide (e.kind ≠ .preprocess) && !v.coding && s.gableUp e then
      let (block, s) := s.readBlock e j
      s.setSession e slot { Session.closed with isOpen := true, block := block, jobs := { j with open_ := false } :: rest }
    else s

/-- A job's end: the next stands at the head, and CLOSE closes the slot (13 R349). -/
def endJob (v : Session) (j : Job) : Session :=
  let rest := v.jobs.tail
  if j.close then { Session.closed with jobs := rest }
  else { v with jobs := rest, coding := false, waiting := false }

/-- A job ends, and an OPEN that then stands at the head takes effect (13 R349). -/
def State.finishJob (s : State) (e : Eng) (slot : Nat) (v : Session) (j : Job) : State :=
  (s.setSession e slot (endJob v j)).openHead e slot

/-- A MEDIA task hands its job over (13 R349, R350): accepted, or refused with QFULL. One that was accepted before an
abort is not handed over again (17 R463). -/
def startMedia (s : State) (b : PBay) (t : Task) (overlaps : Bool) : State :=
  let d := t.desc
  let e := mediaEng d
  let slot := mediaSlot d
  let v := s.session e slot
  let open_ := decide (dbits d 50 3 1 = 1 ∧ e.kind ≠ .preprocess)
  let closed := v.refuses e.kind open_
  if t.acted then s.runDone b t overlaps
  else if 4 ≤ v.jobs.length ∨ closed = true then
    let (n, s) := s.takeFree
    let s := s.writeStatus b t stQfull (n % 257)
    let full := decide (4 ≤ v.jobs.length)
    s.raise (srcEng e) 0x6 0x05 (slot + (if full then 0 else 8))
  else
    let j : Job := { src := le d 32 8, dst := le d 40 8, open_ := open_,
                     close := decide (dbits d 50 4 1 = 1 ∧ e.kind ≠ .preprocess), param := dbits d 56 0 40,
                     bay := b, ctx := (s.queueCtx t.queue).getD 0, ovf := (s.arithOfQueue t.queue).ovf,
                     course := s.course.count.toNat, ref := s.course.phase.toNat }
    ((s.setSession e slot { v with jobs := v.jobs ++ [j] }).openHead e slot).runDone b t overlaps

/-- MEDIA_DECODE (13 R350, KIND 0x0). -/
def execMediaDecode (b : Bay) (s : State) : Host.Outcome State Fault Refusal :=
  .next (s.startTask b (opMedia, 0) startMedia)

/-- MEDIA_ENCODE (13 R350, KIND 0x1). -/
def execMediaEncode (b : Bay) (s : State) : Host.Outcome State Fault Refusal :=
  .next (s.startTask b (opMedia, 1) startMedia)

/-- MEDIA_PREPROCESS (13 R350, KIND 0x2). -/
def execMediaPreprocess (b : Bay) (s : State) : Host.Outcome State Fault Refusal :=
  .next (s.startTask b (opMedia, 2) startMedia)

/-! ### The start of a job -/

/-- The count that the other side of a session's ring last wrote: produced for decode, consumed for encode
(13 R352). -/
def State.peerCount (s : State) (e : Eng) (k : List Byte) : Nat :=
  s.peekLe (blkRingCnt k + (if e.kind = .encode then 8 else 0)) 8

/-- Reads the other side's count; the read records what any does (01 R23). -/
def State.readCount (s : State) (e : Eng) (k : List Byte) : Nat × State :=
  (s.peerCount e k, (s.noteRead (srcEng e) (blkRingCnt k + (if e.kind = .encode then 8 else 0)) 8).1)

/-- A job of an open session begins to code; a decoder without bytes waits. -/
def State.beginJob (s : State) (e : Eng) (slot : Nat) (v : Session) : State :=
  let (peer, s) := s.readCount e v.block
  let dry := decide (e.kind = .decode ∧ peer ≤ v.ownCount)
  s.setSession e slot { v with coding := true, peerCount := peer, waiting := dry }

/-- JOB_START (13 R349): the job at the head of a slot begins, an OPEN first closing the session before it.
In a slot in error a job without OPEN ends with no output, and its CLOSE closes the slot (DEDUCED from 13 R349 and
R358; log entry 15). -/
def execJobStart (e : Eng) (slot : Nat) (s : State) : Host.Outcome State Fault Refusal :=
  let s := s.openHead e slot
  let v := s.session e slot
  .next (match v.jobs with
    | [] => s
    | j :: _ =>
      if v.coding || !s.gableUp e then s
      else if e.kind = .preprocess then
        let (block, s) := s.readBlock e j
        s.setSession e slot { v with isOpen := true, coding := true, block := block }
      else if v.error then s.finishJob e slot v j
      else if !v.isOpen then s
      else s.beginJob e slot v)

/-- DECODE_INPUT_RECHECK (13 R374): a decoder that has reached the produced count re-reads it; with no more
bytes it waits, with more it goes on. -/
def execDecodeInputRecheck (e : Eng) (slot : Nat) (s : State) : Host.Outcome State Fault Refusal :=
  let v := s.session e slot
  .next (if v.coding ∧ e.kind = .decode ∧ s.gableUp e = true then
      let (peer, s) := s.readCount e v.block
      s.setSession e slot { v with peerCount := peer, waiting := decide (peer ≤ v.peerCount) }
    else s)

/-- Free bytes of an encode session's ring, by the consumed count. -/
def ringSpace (v : Session) (peer : Nat) : Nat := 2 ^ blkRingLog2 v.block - (v.ownCount - peer)

/-! ### Planes (13 R354 to R356) -/

/-- Reads planes. -/
def State.readPlanes (s : State) (b : PBay) (r : Ref) (sizes : List (Nat × Nat)) : List Plane :=
  (planeRefs r sizes).map fun (p, w, h) => (List.range h).map fun y => s.rowValues b p w y

/-- What reading planes records. -/
def State.notePlanes (s : State) (src : Source) (r : Ref) (sizes : List (Nat × Nat)) : State :=
  (s.noteRuns src ((planeRefs r sizes).flatMap fun (p, w, h) => p.runs h w)).1

/-- Writes planes, converted to the operand's format (03 R84 to R86). -/
def State.writePlanes (s : State) (e : Eng) (b : PBay) (ovf : Bool) (r : Ref) (sizes : List (Nat × Nat))
    (ps : List Plane) : State :=
  let outs := ((planeRefs r sizes).zip ps).flatMap fun ((p, w, _), rows) =>
    rows.zipIdx.flatMap fun (line, y) => line.zipIdx.map fun (v, x) =>
      putCode b Route.purlin p w y x (convert (attnArith ovf) p.fmt v).1
  outs.foldl (fun (s : State) w => match w.space with
    | .mem => s.unitWrite (srcEng e) w.addr w.data
    | .lath l => (s.lathWrite l w.addr w.data).freshen w) s

/-- A decoded sample: (s − OFS) × GAIN, rounded once as it is written (13 R355). -/
def sampleOut (k : List Byte) (luma : Bool) (x : Nat) : Val :=
  (Val.ofInt ((x : Int) - (if luma then blkOfsY k else blkOfsC k))).mul (blkGain k)

/-- Planes of samples as values. -/
def samplePlanes (k : List Byte) (planes : List (List Nat)) : List Plane :=
  let sizes := planeSizes (blkChroma k) (blkWidth k) (blkHeight k)
  (sizes.zip planes).zipIdx.map fun (((w, h), xs), i) =>
    (List.range h).map fun y => (List.range w).map fun c => sampleOut k (decide (i = 0)) (xs.getD (y * w + c) 0 % 2 ^ blkDepth k)

/-- An encoder's sample, and whether it was clipped or stands for a NaN (13 R356). -/
def sampleIn (k : List Byte) (luma : Bool) (v : Val) : Nat × Bool :=
  let most := 2 ^ blkDepth k - 1
  match (v.mul (blkGain k)).add (Val.ofInt (if luma then blkOfsY k else blkOfsC k)) with
  | .fin sg n d e =>
    let (m, _) := roundUnits .even sg n d e 0
    if m ≠ 0 ∧ sg = true then (0, true) else if most < m then (most, true) else (m, false)
  | .inf sg => (if sg then 0 else most, true)
  | .nan => (0, true)

/-- The samples of planes, each with its clip. -/
def samplesIn (k : List Byte) (ps : List Plane) : List (List (Nat × Bool)) :=
  ps.zipIdx.map fun (p, i) => p.flatMap fun row => row.map (sampleIn k (decide (i = 0)))

/-- Samples that were clipped or stand for a NaN. -/
def clipCount (xs : List (List (Nat × Bool))) : Nat := (xs.flatMap fun l => l.filter Prod.snd).length

/-! ### The pre-processor (13 R364 to R367) -/

/-- A coefficient of the scaling filter: built-in, bilinear or custom (13 R364, R366). -/
def State.filterCoef (s : State) (k : List Byte) (phase tap : Nat) : Val :=
  match preFilter k with
  | 0 => decodeElem fFP32 (Config.filterTap phase tap % 2 ^ 32)
  | 1 => if tap = 3 then vRat (64 - phase) 64 else if tap = 4 then vRat phase 64 else Val.zero
  | _ => decodeElem fFP32 (s.peekLe (bits (le k 80 8) 0 40 + (phase * 8 + tap) * 4) 4)

/-- A line scaled to `out` samples; `shift` is the siting in units of 2^-16 input samples (13 R366). -/
def State.scaleLine (s : State) (k : List Byte) (ovf : Bool) (out : Nat) (shift : Int) (line : List Val) : List Val :=
  let n := line.length
  (List.range out).map fun o =>
    -- (o + 0.5) × in / out − 0.5 in units of 2^-16, rounded down
    let p := Int.fdiv (((2 * o + 1) * n * 65536 : Nat) : Int) (2 * out : Nat) - 32768 + shift
    let i := Int.fdiv p 65536
    let phase := (p - i * 65536).toNat / 1024
    let tap (t : Nat) : Val := line.getD (min (i + t - 3).toNat (n - 1)) Val.zero
    (dotFast (attnArith ovf) Val.zero
      (slatesOf ((List.range 8).map fun t => (tap t, s.filterCoef k phase t)) fun _ => some 0)).1

/-- A plane scaled horizontally, then vertically (13 R366). -/
def State.scalePlane (s : State) (k : List Byte) (ovf : Bool) (w h : Nat) (shiftX shiftY : Int) (p : Plane) : Plane :=
  let rows := p.map (s.scaleLine k ovf w shiftX)
  transposeLines ((transposeLines rows).map (s.scaleLine k ovf h shiftY))

/-- Crop of a plane. -/
def cropPlane (x y w h : Nat) (p : Plane) : Plane := ((p.drop y).take h).map fun row => (row.drop x).take w

/-- Flips, then the clockwise rotation (13 R364, R365). -/
def turnPlane (k : List Byte) (p : Plane) : Plane :=
  let p := if bits (le k 64 1) 3 1 = 1 then p.map List.reverse else p
  let p := if bits (le k 64 1) 4 1 = 1 then p.reverse else p
  match preRot k with
  | 1 => transposeLines p.reverse
  | 2 => (p.map List.reverse).reverse
  | 3 => (transposeLines p).reverse
  | _ => p

/-- The siting of a chroma plane on an axis as it enters the scaler, in units of 2^-16 samples: chroma stands
on the luma columns, and with type 2 on the luma rows (13 R364, R366; DEDUCED, log entry 26). -/
def siteIn (sub cosited : Bool) : Int := if sub && cosited then 16384 else 0

/-- The same as luma is scaled to chroma. -/
def siteOut (sub cosited : Bool) : Int := if sub && cosited then -32768 else 0

/-- The luma weights of red and blue of a MATRIX: BT.709, BT.2020, BT.601 (13 R364). -/
def lumaWeights (matrix : Nat) : Val × Val :=
  match matrix with
  | 1 => (vRat 2126 10000, vRat 722 10000)
  | 2 => (vRat 2126 10000, vRat 722 10000)
  | 3 => (vRat 2627 10000, vRat 593 10000)
  | 4 => (vRat 2627 10000, vRat 593 10000)
  | _ => (vRat 299 1000, vRat 114 1000)

/-- The linear part of a MATRIX on components of nominal range, by row and column (13 R364, R367). -/
def colourMatrix (matrix r c : Nat) : Val :=
  let (kr, kb) := lumaWeights matrix
  let kg := vOne.add (kr.add kb).neg
  let two := Val.ofInt 2
  let dr := two.mul (vOne.add kr.neg)
  let db := two.mul (vOne.add kb.neg)
  if matrix % 2 = 1 then
    match r, c with
    | _, 0 => vOne
    | 0, 2 => dr
    | 1, 1 => ((kb.mul db).div kg).neg
    | 1, _ => ((kr.mul dr).div kg).neg
    | 2, 1 => db
    | _, _ => Val.zero
  else
    match r, c with
    | 0, 0 => kr
    | 0, 1 => kg
    | 0, _ => kb
    | 1, 0 => (kr.div db).neg
    | 1, 1 => (kg.div db).neg
    | 1, _ => vRat 1 2
    | _, 0 => vRat 1 2
    | _, 1 => (kg.div dr).neg
    | _, _ => (kb.div dr).neg

/-- Zero and extent of a component on the scale on which 1 is 2^b samples, in 256ths: limited range, or full
(13 R364; DESIGN CHOICE, log entry 26). -/
def rangeOf (full chroma : Bool) : Val × Val :=
  if full then (if chroma then vRat 128 256 else Val.zero, vOne)
  else if chroma then (vRat 128 256, vRat 224 256) else (vRat 16 256, vRat 219 256)

/-- The exact affine values of MATRIX 1 to 6: nine coefficients row by row, then three offsets (13 R367). -/
def affineExact (k : List Byte) (i : Nat) : Val :=
  let m := preMatrix k
  let inR (c : Nat) := rangeOf (decide (bits (le k 65 1) 2 1 = 1)) (decide (m % 2 = 1 ∧ c ≠ 0))
  let outR (r : Nat) := rangeOf (decide (bits (le k 65 1) 3 1 = 1)) (decide (m % 2 = 0 ∧ r ≠ 0))
  let coef (r c : Nat) : Val := ((colourMatrix m r c).mul (outR r).2).div (inR c).2
  if i < 9 then coef (i / 3) (i % 3)
  else
    let r := i - 9
    (List.range 3).foldl (fun acc c => acc.add ((coef r c).mul (inR c).1).neg) (outR r).1

/-- The 12 affine values, rounded to FP32 (13 R364, R367). -/
def State.affine (s : State) (k : List Byte) (i : Nat) : Val :=
  decodeElem fFP32 (if preMatrix k = 7 then s.peekLe (bits (le k 88 8) 0 40 + 4 * i) 4
    else (roundFast fp32 false (affineExact k i)).1)

/-- The reads of a custom filter and a custom matrix (13 R364). -/
def tableRuns (k : List Byte) : List Span :=
  (if preFilter k = 2 then memSpan (bits (le k 80 8) 0 40) 2048 else []) ++
    (if preMatrix k = 7 then memSpan (bits (le k 88 8) 0 40) 48 else [])

/-- The colour transform of three planes (13 R367); a plane that is absent counts as +0. -/
def State.transform (s : State) (k : List Byte) (ovf : Bool) (ps : List Plane) : List Plane :=
  if preMatrix k = 0 then ps
  else
    let y := ps.headD []
    let at_ (c r x : Nat) : Val := ((ps.getD c []).getD r []).getD x Val.zero
    (List.range 3).map fun c =>
      y.zipIdx.map fun (row, r) => (List.range row.length).map fun x =>
        (dotFast (attnArith ovf) (s.affine k (9 + c))
          (slatesOf ((List.range 3).map fun i => (at_ i r x, s.affine k (3 * c + i))) fun _ => some 0)).1

/-- The stages of the pre-processor on the planes of a picture; `chroma` is the output subsampling (13
R365). -/
def State.preprocess (s : State) (k : List Byte) (ovf : Bool) (chroma : Nat) (ps : List Plane) : List Plane :=
  let inC := preInChroma k
  let subX := decide (inC = 1 ∨ inC = 2)
  let subY := decide (inC = 1)
  let (x, y, w, h) := (le k 68 2, le k 70 2, le k 72 2, le k 74 2)
  let (ow, oh) := (le k 76 2, le k 78 2)
  let turned := decide (preRot k % 2 = 1)
  let ps := ps.zipIdx.map fun (p, i) =>
    let c := decide (i ≠ 0)
    let cut := turnPlane k (cropPlane (if c && subX then x / 2 else x) (if c && subY then y / 2 else y)
      (half (c && subX) w) (half (c && subY) h) p)
    let sx := siteIn (c && subX) true
    let sy := siteIn (c && subY) (preTopSited k)
    s.scalePlane k ovf ow oh (if turned then sy else sx) (if turned then sx else sy) cut
  let ps := s.transform k ovf ps
  let sizes := planeSizes chroma ow oh
  (sizes.zip ps).zipIdx.map fun (((cw, ch), p), i) =>
    if i = 0 ∨ chroma = 3 then p
    else s.scalePlane k ovf cw ch (siteOut (decide (chroma = 1 ∨ chroma = 2)) true)
      (siteOut (decide (chroma = 1)) (preTopSited k)) p

/-! ### Records (13 R351) -/

/-- A picture record: what is written besides the course count. -/
structure PicRec where
  bytes     : Nat
  intra     : Bool
  concealed : Bool
  degraded  : Bool
  error     : Bool
  late      : Bool
  grain     : Bool
  qp        : Nat
deriving DecidableEq, Repr

/-- A bit at a place. -/
def bitAt (b : Bool) (n : Nat) : Nat := if b then 2 ^ n else 0

/-- The 16 bytes of a picture record. -/
def PicRec.toBytes (r : PicRec) (pic course : Nat) : List Byte :=
  toLe 16 (pic % 2 ^ 32 + r.bytes % 2 ^ 32 * 2 ^ 32 + bitAt r.intra 64 + bitAt r.concealed 65 +
    bitAt r.degraded 66 + bitAt r.error 67 + bitAt r.late 68 + bitAt r.grain 69 + r.qp % 256 * 2 ^ 72 +
    course % 2 ^ 48 * 2 ^ 80)

/-- An event of an engine about a picture (13 R378). -/
def State.pictureEvent (s : State) (e : Eng) (num slot pic : Nat) : State :=
  s.raise (srcEng e) 0x6 num (slot + pic % 2 ^ 21 * 8)

/-- The record is written, and then DONEPEG is added to (13 R351). -/
def State.writeRecord (s : State) (e : Eng) (v : Session) (j : Job) (pic : Nat) (r : PicRec) : State :=
  let k := v.block
  let s := s.unitWrite (srcEng e) (blkPicRec k + pic % 2 ^ blkPicLog2 k * 16)
    ((r.toBytes pic s.course.count.toNat).map some)
  s.addPeg (blkDonePeg k) 1 (28 + e.gable) j.ctx

/-- The cycle of a live decode job's deadline, counted in reference cycles (13 R375). -/
def deadlineOf (k : List Byte) (j : Job) : Nat :=
  1024 * j.course + j.ref + blkDeadline k * blkDen k * 100000000 / max (blkNum k) 1

/-- The present reference cycle. -/
def State.refNow (s : State) : Nat := 1024 * s.course.count.toNat + s.course.phase.toNat

/-- What a decoder writes in place of a lost picture (13 R375): the previous output, or grey. -/
def concealPlanes (v : Session) : List (List Nat) :=
  if v.prev.isEmpty then
    (planeSizes (blkChroma v.block) (blkWidth v.block) (blkHeight v.block)).zipIdx.map fun ((w, h), i) =>
      List.replicate (w * h) (if i = 0 then 16 * 2 ^ (blkDepth v.block - 8) else 2 ^ (blkDepth v.block - 1))
  else v.prev

/-! ### Decoding -/

/-- The bytes of a ring from one count to another. -/
def State.ringBytes (s : State) (k : List Byte) (lo hi : Nat) : List Byte :=
  (List.range (hi - lo)).map fun i => s.peek (blkRing k + (lo + i) % 2 ^ blkRingLog2 k)

/-- The places of those bytes. -/
def ringRuns (k : List Byte) (lo n : Nat) : List Span :=
  let size := 2 ^ blkRingLog2 k
  let first := min n (size - lo % size)
  memSpan (blkRing k + lo % size) first ++ memSpan (blkRing k) (n - first)

/-- A decoder passes over `n` bytes of its ring and writes the consumed count (13 R352). -/
def State.consume (s : State) (e : Eng) (v : Session) (n : Nat) : State × Session :=
  (s.unitWrite (srcEng e) (blkRingCnt v.block + 8) ((toLe 8 (v.ownCount + n)).map some),
   { v with ownCount := v.ownCount + n })

/-- The answer at the shortest beginning of some bytes that has one, within that beginning: more bytes never change it
(13 R374). -/
def firstPrefix (f : List Byte → Option Nat) (bs : List Byte) : Option Nat :=
  (List.range bs.length).findSome? fun n => (f (bs.take (n + 1))).map fun m => min m (n + 1)

/-- Passes over what is left of concealed pictures: the bytes to discard, and the marks still missing. An even number of
marks begins with the first slice or temporal delimiter of a concealed picture, an odd one with the start of the picture
after it. Bytes that may belong to a start which has not wholly arrived stay (13 R375). -/
def passStarts (v : Session) (k : Nat) (bs : List Byte) : Nat × Nat :=
  match k with
  | 0 => (0, 0)
  | n + 1 =>
    match firstPrefix ((if n % 2 = 0 then Config.pictureStart else Config.pictureBody) v.block v.codec) bs with
    | none => (bs.length - Config.startHeld v.block v.codec bs, n + 1)
    | some m =>
      let (x, left) := passStarts v n (bs.drop m)
      (m + x, left)

/-- The decoder passes over what is left of concealed pictures among the bytes at hand. -/
def State.pass (s : State) (e : Eng) (v : Session) (bs : List Byte) : State × Session × Nat :=
  let (n, left) := passStarts v v.skipping bs
  let (s, v) := if v.skipping = 0 then (s, v) else s.consume e v n
  (s, { v with skipping := left }, n)

/-- The bytes that lie ahead of a decoder. What is left of concealed pictures is discarded as it arrives (13 R375). -/
def State.ahead (s : State) (e : Eng) (v : Session) : State × Session × List Byte :=
  let (peer, s) := s.readCount e v.block
  let bs := s.ringBytes v.block v.ownCount peer
  let s := (s.noteRuns (srcEng e) (ringRuns v.block v.ownCount bs.length)).1
  let (s, v, n) := s.pass e { v with peerCount := peer } bs
  (s, v, bs.drop n)

/-- The next picture's bytes, when all of them have arrived. -/
def nextBytes (v : Session) (bs : List Byte) : Option (List Byte) :=
  if v.skipping ≠ 0 then none
  else (firstPrefix (Config.pictureEnd v.block v.codec) bs).map fun n => bs.take (max n 1)

/-- The headers of the next picture, when all of them have arrived. -/
def nextHeaders (v : Session) (bs : List Byte) : Option Config.Headers :=
  if v.skipping ≠ 0 then none
  else (firstPrefix (Config.headersEnd v.block v.codec) bs).map fun n => Config.readHeaders v.block v.codec (bs.take n)

/-- The headers of a picture that has wholly arrived. -/
def headersOf (v : Session) (p : List Byte) : Config.Headers :=
  (nextHeaders v p).getD (Config.readHeaders v.block v.codec p)

/-- The planes of a session's picture are written. -/
def State.output (s : State) (e : Eng) (v : Session) (j : Job) (planes : List (List Nat)) : State :=
  s.writePlanes e j.bay j.ovf (refOf j.dst 0) (targetSizes 0 v.block) (samplePlanes v.block planes)

/-- A picture shows with film grain (13 R351). -/
def hasGrain (k : List Byte) (h : Config.Headers) : Bool := blkAv1 k && h.grain.isSome

/-- QP of a picture's record (13 R351): base_q_idx, or the mean of an HEVC picture that was decoded to its end; of one that
was not, the spec gives none (a free value, log entry 147). -/
def State.recordQp (s : State) (k : List Byte) (h : Option Config.Headers) (mean : Option Nat) : Nat × State :=
  match blkAv1 k, h, mean with
  | true, some h, _ => (h.qp, s)
  | false, _, some q => (q, s)
  | _, _, _ => s.takeFree

/-- A picture is concealed and its job ends (13 R351, R358, R375): `n` coded bytes of it have come, which the decoder has
passed over, and `mean` is its QP where it was decoded. One whose headers have not come takes the next number, as the
first picture is taken for an IRAP picture (DESIGN CHOICE, log entry 147); a first picture that is lost is still the
first (13 R373). -/
def State.conceal (s : State) (e : Eng) (slot : Nat) (v : Session) (j : Job) (n : Nat) (h : Option Config.Headers)
    (mean : Option Nat) (error : Bool) : State :=
  let k := v.block
  let planes := concealPlanes v
  let pic := (h.map Config.Headers.order).getD v.pic
  let intra := (h.map Config.Headers.rap).getD false
  let (qp, s) := s.recordQp k h mean
  let s := s.output e v j planes
  let s := s.bump (Reg.gblCnt0Event e) 1
  let s := s.pictureEvent e 0x01 slot pic
  let s := if error then s.pictureEvent e 0x03 slot pic else s
  let s := s.writeRecord e v j pic { bytes := n, intra := intra, concealed := true, degraded := false, error := error,
                                     late := false, grain := (h.map (hasGrain k)).getD false, qp := qp }
  s.finishJob e slot { v with
    pic := v.pic + 1, degraded := true, prev := planes, codec := Config.concealRef k v.codec planes, started := true,
    firstRap := if intra then !v.started else v.firstRap || !v.started, tainted := v.tainted ++ [v.pic] } j

/-- A live picture whose deadline has come (13 R375). -/
def State.overdue (s : State) (v : Session) (j : Job) : Bool :=
  blkLive v.block && decide (deadlineOf v.block j ≤ s.refNow)

/-- Tools and extensions that a decoder does not support (13 R357). -/
def unsupported (av1 : Bool) (x : Config.CodecTool) : Bool :=
  match x with
  | .intraBlockCopy => false
  | .palette => false
  | .superResolution => false
  | .largeScaleTile => av1
  | .otherRangeExtension => !av1
  | .extendedPrecision => !av1
  | .multilayer => !av1
  | .screenContent => !av1

/-- A stream uses something outside 13 R357 (13 R358). -/
def foreignStream (k : List Byte) (h : Config.Headers) : Bool :=
  h.tools.any (unsupported (blkAv1 k)) || !profileOk (blkAv1 k) h.profile h.chroma h.depth || !levelOk (blkAv1 k) h.level ||
    !sizeOk h.width h.height || !blockOk (blkAv1 k) h.block

/-- A picture that is discarded: before the first IRAP picture, or a RASL picture of that CRA (13 R373). -/
def preRap (v : Session) (h : Config.Headers) : Bool :=
  (!v.started && !h.rap) || (h.rasl && (!v.started || v.firstRap))

/-- An unsupported stream stops its session, with no output (13 R358). -/
def State.stopStream (s : State) (e : Eng) (slot : Nat) (v : Session) (j : Job) : State :=
  (s.finishJob e slot { v with error := true } j).raise (srcEng e) 0x6 0x04 slot

/-- A picture before the first IRAP picture is discarded and counted (13 R373). -/
def State.discard (s : State) (e : Eng) (slot : Nat) (v : Session) (h : Config.Headers) : State :=
  (s.bump (Reg.gblCnt1Prerap e) 1).setSession e slot { v with codec := h.codec }

/-- LIVE_DEADLINE (13 R375): at the deadline cycle an unfinished live picture is concealed. What has arrived of it is
discarded at once, the rest as it arrives. Pictures before the first IRAP picture are discarded as at any time (13
R373). -/
def execLiveDeadline (gable : Nat) (kind : EngKind) (idx slot : Nat) (s : State) : Host.Outcome State Fault Refusal :=
  let e : Eng := ⟨gable, kind, idx⟩
  let v := s.session e slot
  .next (match v.jobs with
    | [] => s
    | j :: _ =>
      if e.kind = .decode ∧ v.coding = true ∧ s.overdue v j = true ∧ s.gableUp e = true then
        let (s, v, bs) := s.ahead e v
        match nextBytes v bs with
        | some p =>
          let h := headersOf v p
          if foreignStream v.block h then s.stopStream e slot v j
          else
            let (s, v) := s.consume e v p.length
            if preRap v h then s.discard e slot v h
            else s.conceal e slot v j p.length (some h) none false
        | none =>
          let h := nextHeaders v bs
          let (s, v, n) := s.pass e { v with skipping := v.skipping + 2 } bs
          match h.filter (preRap v) with
          | some h => s.discard e slot v h
          | none => s.conceal e slot v j n h none false
      else s)

/-- The planes that a decoder puts out: an AV1 frame with its film grain, unless GRAINOUT is 1 (13 R360). -/
def grained (k : List Byte) (grain : Option (List Byte)) (planes : List (List Nat)) : List (List Nat) :=
  match grain with
  | some g => if blkAv1 k && !blkGrainOut k then Config.filmGrain k g planes else planes
  | none => planes

/-- The film-grain record of a picture (13 R360). -/
def State.grainRecord (s : State) (e : Eng) (v : Session) (pic : Nat) (grain : Option (List Byte)) : State :=
  match grain with
  | some g =>
    if blkAv1 v.block && blkGrainOut v.block then
      s.unitWrite (srcEng e) (blkGrainRec v.block + pic % 2 ^ blkGrainLog2 v.block * 128) ((fit 128 g).map some)
    else s
  | none => s

/-- A picture that has been decoded is put out at its job's DST, under its number in output order, and its job ends (13
R351, R355, R360, R375; log entry 137). -/
def State.picture (s : State) (e : Eng) (slot : Nat) (v : Session) (j : Job) (n : Nat) (h : Config.Headers)
    (r : Config.Decoded) : State :=
  let k := v.block
  let lost := !h.rap && r.refs.any v.tainted.contains
  let planes := grained k h.grain r.planes
  let (qp, s) := s.recordQp k (some h) (some r.qp)
  let s := s.output e v j planes
  let s := s.grainRecord e v h.order h.grain
  let s := if lost then s.bump (Reg.gblCnt1Degraded e) 1 else s
  let s := s.writeRecord e v j h.order { bytes := n, intra := h.rap, concealed := false, degraded := lost,
                                         error := false, late := false, grain := hasGrain k h, qp := qp }
  s.finishJob e slot { v with
    pic := v.pic + 1, degraded := v.degraded && !h.rap, started := true, prev := planes, codec := r.codec,
    tainted := if h.rap then [] else if lost then v.tainted ++ [v.pic] else v.tainted,
    firstRap := if h.rap then !v.started else v.firstRap } j

/-- A decoder reaches the end of its next picture, or of its bytes (13 R355, R358, R359, R373 to R375). -/
def State.decodeDone (s : State) (e : Eng) (slot : Nat) (v : Session) (j : Job) : State :=
  let (s, v, bs) := s.ahead e v
  match nextBytes v bs with
  | none => s.setSession e slot { v with waiting := true }
  | some p =>
    let h := headersOf v p
    let r := Config.decodeCoded v.block h.codec p
    if foreignStream v.block h then s.stopStream e slot v j
    else
      let (s, v) := s.consume e v p.length
      if preRap v h then s.discard e slot v h
      else if h.error || r.error || s.overdue v j then
        s.conceal e slot v j p.length (some h) (some r.qp) (h.error || r.error)
      else s.picture e slot v j p.length h r

/-! ### Encoding -/

/-- Bytes written into a ring, round its end. -/
def State.ringWrite (s : State) (e : Eng) (k : List Byte) (pos : Nat) (bs : List Byte) : State :=
  let size := 2 ^ blkRingLog2 k
  let first := size - pos % size
  let s := s.unitWrite (srcEng e) (blkRing k + pos % size) ((bs.take first).map some)
  s.unitWrite (srcEng e) (blkRing k) ((bs.drop first).map some)

/-- The samples that an encoder takes from planes in a source's layout (13 R356, R365). -/
def State.encoderSamples (s : State) (k : List Byte) (j : Job) (src : Ref) : List (List (Nat × Bool)) :=
  let ps := s.readPlanes j.bay src (sourceSizes 1 k)
  samplesIn k (if preEnabled k then s.preprocess k j.ovf (blkChroma k) ps else ps)

/-- Count, sum and sum of squares of the differences in each of `n` equal intensity bins of a plane (13 R362;
DESIGN CHOICE, log entry 15). -/
def binStats (n depth : Nat) (clean grainy : List Nat) : List (Nat × Int × Int) :=
  (List.range n).map fun i =>
    ((clean.zip grainy).filter fun x => decide (x.1 * n / 2 ^ depth = i)).foldl (fun acc x =>
      let d : Int := (x.2 : Int) - x.1
      (acc.1 + 1, acc.2.1 + d, acc.2.2 + d * d)) (0, 0, 0)

/-- The autocorrelation of the differences of a plane to lag 3: rows up to 3 above, columns up to 3 to either side
(13 R362). -/
def autocorr (width : Nat) (clean grainy : List Nat) : List Int :=
  let d := (clean.zip grainy).map fun x => (x.2 : Int) - x.1
  let at_ (i : Int) : Int := if i < 0 then 0 else d.getD i.toNat 0
  (List.range 4).flatMap fun (dy : Nat) => (List.range 7).map fun (dx : Nat) =>
    (List.range d.length).foldl (fun (acc : Int) (i : Nat) =>
      let x : Int := (i % max width 1 : Nat) + (dx : Int) - 3
      if x < 0 ∨ (width : Int) ≤ x then acc
      else acc + at_ i * at_ ((i : Int) - (dy * width : Nat) + (dx : Int) - 3)) 0

/-- ar_coeff_lag of the parameters that the firmware fits (13 R362). -/
def arCoeffLag : Nat := 3

/-- Bytes of fields by width and value, the upper bit first, the last byte filled up with 0. -/
def packBits (fields : List (Nat × Nat)) : List Byte :=
  let all := fields.flatMap fun x => (List.range x.1).map fun i => bits x.2 (x.1 - 1 - i) 1
  (List.range (ceilDiv all.length 8)).map fun i =>
    BitVec.ofNat 8 ((List.range 8).foldl (fun n b => 2 * n + all.getD (8 * i + b) 0) 0)

/-- film_grain_params() of a fit, in the order of the AV1 specification (PRESUMED, log entry 137): the parameters are
applied, an inter picture updates them, and ar_coeff_lag is the one of 13 R362. The seed is set when it is written. -/
def fitRecord (chroma : Nat) (intra : Bool) (f : Config.GrainFit) : List Byte :=
  let points (l : List (Nat × Nat)) : List (Nat × Nat) := (4, l.length) :: l.flatMap fun x => [(8, x.1), (8, x.2)]
  let bytes (n : Nat) (l : List Nat) : List (Nat × Nat) := (List.range n).map fun i => (8, l.getD i 0)
  let mult (x : Nat × Nat × Nat) : List (Nat × Nat) := [(8, x.1), (8, x.2.1), (9, x.2.2)]
  let y := f.pointsY.take 14
  let fromLuma := f.fromLuma && decide (chroma ≠ 0)
  let none_ := decide (chroma = 0) || fromLuma || decide (chroma = 1 ∧ y.isEmpty = true)
  let cb := if none_ then [] else f.pointsCb.take 10
  let cr := if none_ then [] else f.pointsCr.take 10
  let luma := 2 * arCoeffLag * (arCoeffLag + 1)
  let chromas := luma + (if y.isEmpty then 0 else 1)
  packBits ([(1, 1), (16, 0)] ++ (if intra then [] else [(1, 1)]) ++ points y ++
    (if chroma = 0 then [] else [(1, bitAt fromLuma 0)]) ++ (if none_ then [] else points cb ++ points cr) ++
    [(2, f.scalingShift), (2, arCoeffLag)] ++ (if y.isEmpty then [] else bytes luma f.coeffsY) ++
    (if fromLuma || !cb.isEmpty then bytes chromas f.coeffsCb else []) ++
    (if fromLuma || !cr.isEmpty then bytes chromas f.coeffsCr else []) ++ [(2, f.coeffShift), (2, f.grainShift)] ++
    (if cb.isEmpty then [] else mult f.multCb) ++ (if cr.isEmpty then [] else mult f.multCr) ++
    [(1, bitAt f.overlap 0), (1, bitAt f.clip 0)])

/-- The grained source of a picture to encode, as samples with their clips (13 R356, R361). -/
def State.grainySamples (s : State) (k : List Byte) (j : Job) : List (List (Nat × Bool)) :=
  if blkAv1 k && decide (blkGrainMode k = 2) then s.encoderSamples k j (refOf j.dst 0) else []

/-- The film-grain parameters of a picture to encode: none, the record at DST, or those fitted to the difference of
the two pictures (13 R361, R362). -/
def State.grainOf (s : State) (k : List Byte) (j : Job) (intra : Bool) (clean : List (List Nat)) : Option (List Byte) :=
  let r := refOf j.dst 0
  if !blkAv1 k then none
  else if blkGrainMode k = 1 then some (s.fetch j.bay r.lath r.addr 128)
  else if blkGrainMode k = 2 then
    let grainy := (s.grainySamples k j).map fun p => p.map Prod.fst
    let pairs := (clean.zip grainy).zip (targetSizes 1 k)
    some (fitRecord (blkChroma k) intra (Config.grainFit arCoeffLag
      (pairs.zipIdx.map fun ((x, _), i) => binStats (if i = 0 then 14 else 10) (blkDepth k) x.1 x.2)
      (pairs.map fun (x, w, _) => autocorr w x.1 x.2)))
  else none

/-- The seed of the film grain (13 R363). -/
def grainSeed (k : List Byte) (pic : Nat) : Nat := (blkSeedBase k + 0x9E37 * pic) % 2 ^ 16

/-- A film_grain_params() record with another random_seed: the 16 bits after apply_grain, the first bit, each byte from
its upper bit on (PRESUMED from the AV1 specification, log entry 137). -/
def putSeed (g : List Byte) (seed : Nat) : List Byte :=
  let v := beNat (g.take 3)
  toBe 3 (v - bits v 7 16 * 2 ^ 7 + seed % 2 ^ 16 * 2 ^ 7) ++ g.drop 3
where
  /-- A number from bytes, the first the most significant, and back. -/
  beNat (l : List Byte) : Nat := ofLe (fit 3 l).reverse
  toBe (n v : Nat) : List Byte := (toLe n v).reverse

/-- The first picture after OPEN and every KEYINT-th after it are intra (13 R372). -/
def intraOf (v : Session) : Bool :=
  decide (v.pic = 0) || decide (blkKeyint v.block ≠ 0 ∧ v.pic % blkKeyint v.block = 0)

/-- The QP from which a picture is coded: base_q_idx 0 of a lossless AV1 picture (13 R357), QPINIT under RC 0 and for the
first picture after OPEN, from which rate control starts (13 R352, R372), else that of rate control. -/
def pictureQp (v : Session) (clean : List (List Nat)) : Nat :=
  let k := v.block
  if blkAv1 k && blkLossless k then 0
  else if blkRc k = 0 ∨ v.pic = 0 then blkQpInit k
  else Config.rateQp (blkRc k) (blkQpInit k) (blkBitrate k) v.codec clean

/-- The tools with which a session's next picture is coded (13 R352, R357, R372). -/
def toolsOf (v : Session) (clean : List (List Nat)) : Config.Tools :=
  let k := v.block
  { av1 := blkAv1 k, profile := le k 1 1, level := le k 2 1, tier := blkTier k, chroma := blkChroma k
    depth := blkDepth k, block := encodeBlock k, refs := encodeRefs (blkAv1 k), bframes := blkBframes k
    lossless := blkLossless k, extra := [], intra := intraOf v, first := decide (v.pic = 0), annexB := annexB k
    qp := pictureQp v clean }

/-- What an encoder makes of a picture: the samples that it reads, with their clips, its film grain with the session's seed, its coded
bytes, and the codec's result (13 R359, R361, R363, R377). The QP of a picture that is coded at one is that. -/
def State.encoded (s : State) (v : Session) (j : Job) :
    List (List (Nat × Bool)) × Bool × List Byte × Config.Encoded :=
  let k := v.block
  let xs := s.encoderSamples k j (refOf j.src 0)
  let clean := xs.map fun p => p.map Prod.fst
  let g := (s.grainOf k j (intraOf v) clean).map fun x => putSeed x (grainSeed k v.pic)
  let tools := toolsOf v clean
  let r := Config.encodeCoded tools v.codec clean
  (xs ++ s.grainySamples k j, g.isSome,
    Config.packPicture tools (blkWidth k, blkHeight k) (blkNum k, blkDen k) v.codec g r.payload,
    { r with qp := if blkRc k = 0 ∨ (blkAv1 k && blkLossless k) = true then tools.qp else r.qp })

/-- ENCODE_RING_SPACE (13 R376): an encoder whose ring lacks room for its picture waits, and goes on when the ring has
it. -/
def execEncodeRingSpace (gable : Nat) (unit : EngKind × Nat) (slot : Nat) (s : State) :
    Host.Outcome State Fault Refusal :=
  let e : Eng := ⟨gable, unit.1, unit.2⟩
  let v := s.session e slot
  .next (match v.jobs with
    | [] => s
    | j :: _ =>
      if v.coding ∧ e.kind = .encode ∧ s.gableUp e = true then
        let need := (s.encoded v j).2.2.1.length
        let (peer, s) := s.readCount e v.block
        s.setSession e slot { v with peerCount := peer, waiting := decide (ringSpace v peer < need) }
      else s)

/-- The reads of an encoder for a picture. -/
def encodeRuns (k : List Byte) (j : Job) : List Span :=
  let planes (r : Ref) := (planeRefs r (sourceSizes 1 k)).flatMap fun (p, w, h) => p.runs h w
  let d := refOf j.dst 0
  planes (refOf j.src 0) ++ (if preEnabled k then tableRuns k else []) ++
    (if !blkAv1 k then [] else if blkGrainMode k = 1 then [{ lath := d.lath, addr := d.addr, size := 128 }]
     else if blkGrainMode k = 2 then planes d else [])

/-- An encoded picture (13 R351, R356, R372, R376). It waits while the ring has no room for its bytes; a live picture
that ends after its deadline is LATE. -/
def State.encodeDone (s : State) (e : Eng) (slot : Nat) (v : Session) (j : Job) : State :=
  let k := v.block
  let (xs, grain, bs, r) := s.encoded v j
  let n := bs.length
  let (peer, s) := s.readCount e k
  if ringSpace v peer < n then s.setSession e slot { v with peerCount := peer, waiting := true }
  else
    let intra := intraOf v
    let s := (s.noteRuns (srcEng e) (encodeRuns k j)).1
    let s := s.bump (Reg.gblCnt0Clip e) (clipCount xs)
    let late := blkLive k && decide (deadlineOf k j < s.refNow)
    let s := s.ringWrite e k v.ownCount bs
    let s := s.unitWrite (srcEng e) (blkRingCnt k) ((toLe 8 (v.ownCount + n)).map some)
    let s := if late then (s.bump (Reg.gblCnt0Event e) 1).pictureEvent e 0x02 slot v.pic else s
    let s := s.writeRecord e v j v.pic { bytes := n, intra := intra, concealed := false, degraded := false,
                                         error := false, late := late, grain := grain, qp := r.qp }
    s.finishJob e slot { v with
      pic := v.pic + 1, started := true, peerCount := peer, ownCount := v.ownCount + n, codec := r.codec,
      sinceIntra := if intra then 0 else v.sinceIntra + 1 } j

/-! ### Pre-processing, and the end of a picture -/

/-- A pre-processed picture (13 R351, R365). -/
def State.preDone (s : State) (e : Eng) (slot : Nat) (v : Session) (j : Job) : State :=
  let k := v.block
  let sizes := sourceSizes 2 k
  let src := refOf j.src 0
  let ps := s.preprocess k j.ovf (preOutChroma k) (s.readPlanes j.bay src sizes)
  let s := ((s.notePlanes (srcEng e) src sizes).noteRuns (srcEng e) (tableRuns k)).1
  let s := s.writePlanes e j.bay j.ovf (refOf j.dst 0) (targetSizes 2 k) ps
  let s := s.writeRecord e v j v.pic { bytes := 0, intra := false, concealed := false, degraded := false,
                                       error := false, late := false, grain := false, qp := 0 }
  s.finishJob e slot { v with pic := v.pic + 1 } j

/-- PICTURE_COMPLETE (13 R351): the job that codes on a slot ends with its picture. A picture that waits for input or
ring space does not. -/
def execPictureComplete (gable : Nat) (unit : EngKind × Nat) (slot : Nat) (s : State) :
    Host.Outcome State Fault Refusal :=
  let e : Eng := ⟨gable, unit.1, unit.2⟩
  let v := s.session e slot
  .next (match v.jobs with
    | [] => s
    | j :: _ =>
      if !v.coding || v.waiting || !s.gableUp e then s
      else match e.kind with
        | .decode => s.decodeDone e slot v j
        | .encode => s.encodeDone e slot v j
        | .preprocess => s.preDone e slot v j)

end Sys2Proof.Machine
end

