-- ==== Sys2Proof/Machine/Power.lean ====
section
/-! DEFINITION. Power, resets and dormer states (18 R474 to R494), and PMBus. -/

namespace Sys2Proof.Machine

/-! ### What survives (18 R492) -/

/-- A register of the weathering history: WTH_PLAN, BAY_SPARE, BAY_MAP, WTH_RAIL, HBM_RETIRE and HBM_RLIST. -/
def isHistory (off : Nat) : Bool :=
  let o := off % 0x100000
  decide (off = Reg.wthPlanFstep.off) || (decide (0x1000000 ≤ off ∧ off < 0x2800000) &&
    decide (o = 0xF0000 ∨ o = 0xF0008 ∨ o = 0xE0040 ∨ o = 0xB0080 ∨ (0xB0100 ≤ o ∧ o < 0xB0200)))

/-- A register whose value the Flashing die's store gives or a pin senses: FL_PSTAT, FL_SLOT, FL_ILK, FL_SVCSTAT
and FL_FWSTAT. -/
def isStore (off : Nat) : Bool :=
  off ∈ [Reg.flPstatPgood.off, Reg.flSlotSlotid.off, Reg.flIlkClosed.off, Reg.flSvcstatOpen.off,
    Reg.flFwstatSlot.off]

/-- Planned voltage steps stand in the history, from which the rails are set (17 R465, 18 R478). -/
def State.settleRails (s : State) : State :=
  s.reliab.vsteps.foldl (fun (s : State) (die, n) => s.setFld (Reg.wthRailVstep die) n) s

/-- HBM_RETIRE.THRESH returns to its after-reset value, the history's fields stay. -/
def State.resetThresh (s : State) : State :=
  ((List.range 24).filter fun d => hasController d).foldl (fun (s : State) d =>
    s.setFld (Reg.hbmRetireThresh d) (bits (RegMap.resetWord (Reg.hbmRetireThresh d).off).toNat 0 8)) s

/-- The physical bays that are powered down stay so. -/
def State.offBays (s : State) : List (Nat × BayState) :=
  (s.bays.filter fun e => e.2.off).map fun e => (e.1, { BayState.empty with off := true })

/-- Every die but the Flashing die at its after-reset state: what is left is the weathering history, the
registers that meet a test, what the Flashing die holds, and the stacks' contents. -/
def State.restart (s : State) (keep : Nat → Bool) : State :=
  let s := s.settleRails
  State.resetThresh
    { State.reset with
      pending := s.pending
      free := s.free
      resp := s.resp
      regs := s.regs.filter fun e => isHistory e.1 || keep e.1
      power := s.power
      mgmt := s.mgmt
      mem := s.mem
      poison := s.poison
      bays := s.offBays
      reliab := { Reliab.reset with pagePend := s.reliab.pagePend, pageRow := s.reliab.pageRow, spareRows := s.reliab.spareRows,
                                    records := s.reliab.records, sparedPorts := s.reliab.sparedPorts,
                                    sparedMesh := s.reliab.sparedMesh } }

/-- Service access is closed, with an event when it was open (19 R504, R508, R513). -/
def State.closeService (s : State) (event : Bool) : State :=
  let s0 := (s.setFld Reg.flSvcstatOpen 0).setFld Reg.flSvcstatHow 0
  if event && s.service then s0.raise ⟨31, 2⟩ 0xC 0x04 0 else s0

/-- The chapter 19 registers and the access lock at power-on or module reset (19 R504, R507, R510, R511): the
store's fields stay, the slot installed last becomes active, and the challenge is void. Every lit unit goes
dark; the hold of 100 ms starts for each unit whose contacts are closed (DEDUCED; log entry 59). -/
def State.resetFlashing (s : State) : State :=
  let s := (((s.setFld Reg.flIlkLit 0).setFld Reg.flIlkOpens 0).setFld Reg.flIlkShortrst 0).closeService false
  let s := ((s.setFld Reg.flSvcstatBusy 0).setFld Reg.flSvcstatLockout 0).setFld Reg.flSvcstatTries 5
  let s := (s.setFld Reg.flSvcstatLastfail 0).setFld Reg.flFwstatSlot s.mgmt.fwNext
  { s with mgmt := { s.mgmt with
    pointer := 0, svcCmd := 0, challenge := false
    hold := if s.flag Reg.flIlkClosed then s.mgmt.presence else 0 } }

/-- A module reset (18 R481, R491, R492): the Underlays drain first. -/
def State.moduleReset (s : State) : State := (s.drainAll.restart isStore).resetFlashing

/-- A power loss (18 R479, R480, R492): the rails drop, and all but the Flashing die's store is lost. The
open registers of the last loss are given. -/
def State.powerLoss (s : State) (uv op : Bool) : State :=
  let s := (s.restart isStore).resetFlashing
  let s := ((s.setFld Reg.flPstatPgood 0).setFld Reg.flPstatFailrail 0).resetReg Reg.flSlotSlotid.off
  let s := (s.setFlag Reg.flPstatLastuv uv).setFlag Reg.flPstatLastop op
  { s with
    mem := []
    poison := []
    power := { s.power with input := false, rails := 0, released := false, lost := true, status := 0,
                            dormer3 := false } }

/-- All rails are up and power-good is asserted; module reset is released unless the reset input is low (18
R478). -/
def State.railsUp (s : State) : State :=
  let s := (s.setFld Reg.flPstatPgood 1).setFld Reg.flPstatFailrail 0
  let s : State := { s with power := { s.power with rails := 0x7F, dormer3 := false, released := !s.power.pinLow } }
  { s with mgmt := { s.mgmt with hold := if s.flag Reg.flIlkClosed then s.mgmt.presence else 0 } }

/-! ### Input power -/

/-- The Flashing die boots (18 R478 step 2): every register is at its after-reset value, whatever was written over the bus
before (19 R504); the SLOTID contacts are sampled (R495) and the interlock loop is sensed, which keeps its state between 1
and 3 mA (R503). -/
def State.boot (s : State) (pins : PowerPins) : State :=
  let s := (s.restart isStore).resetFlashing.setFld Reg.flSlotSlotid pins.slotId
  if 3000 ≤ pins.microamps then s.setFld Reg.flIlkClosed 1
  else if pins.microamps ≤ 1000 then s.setFld Reg.flIlkClosed 0
  else s

/-- POWER_ON (18 R478): the input rises past 355 V. -/
def execPowerOn (pins : PowerPins) (resetLow : Bool) (s : State) : Host.Outcome State Fault Refusal :=
  .next
    (if s.power.input then s
    else
      let s : State := { s with power := { s.power with input := true, pinLow := resetLow } }
      (s.boot pins).railsUp)

/-- RAIL_TIMEOUT (18 R478): a rail of order 1 to 6 stays outside 5 % of nominal for 2 ms, at a power-on, which has passed
step 2 by then, or on the way out of Dormer-3, which closes service access (19 R504). STATUS_WORD shows it as an
output-voltage fault (PRESUMED; log entry 60). -/
def execRailTimeout (f : RailFail) (s : State) : Host.Outcome State Fault Refusal :=
  let rail := f.rail
  .next
    (if (s.power.input && !s.power.dormer3) || decide (rail < 1 ∨ 6 < rail) then s
    else
      let s := if s.power.dormer3 then s.closeService true else s.boot f.pins
      let s := ((s.setFld Reg.flPstatPgood 0).setFld Reg.flPstatFailrail rail).setFld Reg.flAlertPwr 1
      { s with power := { s.power with input := true, rails := 2 ^ rail - 1, released := false, dormer3 := false,
                                       status := putBits s.power.status 15 1 1 } })

/-- UNDER_VOLTAGE_SHUTOFF (18 R474, R480). -/
def execUnderVoltageShutoff (s : State) : Host.Outcome State Fault Refusal :=
  .next (if s.power.input then s.powerLoss true false else s)

/-- OVER_VOLTAGE_SHUTOFF (18 R474): a power loss that is neither of FL_PSTAT's two kinds. -/
def execOverVoltageShutoff (s : State) : Host.Outcome State Fault Refusal :=
  .next (if s.power.input then s.powerLoss false false else s)

/-- OVER_POWER_SHUTOFF (18 R474, R480). -/
def execOverPowerShutoff (s : State) : Host.Outcome State Fault Refusal :=
  .next (if s.power.input then s.powerLoss false true else s)

/-- POWER_EXCURSION (18 R476, R494, 19 FL_ALERT): nothing is slowed or stopped. -/
def execPowerExcursion (peak : Nat) (s : State) : Host.Outcome State Fault Refusal :=
  .next
    (if s.powered 31 then
      let s := (s.setFld Reg.flPinPeak (max (s.fld Reg.flPinPeak) (satTo 0xFFFF peak))).setFld Reg.flAlertPwr 1
      s.raise ⟨31, 0⟩ 0xB 0x01 (s.fld Reg.flPinPeak)
    else s)

/-! ### KP_RESET -/

/-- A bay reset by the host is accepted for a physical bay that is the spare, retired or isolated (18 R485). -/
def State.bayResettable (s : State) (b : PBay) : Bool :=
  decide (b.die < 24 ∧ b.pbay ≤ 8) && (decide (s.spareOf b.die = some b) || s.bayRetired b || (s.bay b).off)

/-- A write of KP_RESET (18 R481 to R485, R491). A span that the loaded image does not have is reached by no
reset (log entry 58). -/
def State.writeReset (s : State) (p : Path) (v : Nat) : State :=
  let off := Reg.kpResetModule.off
  let bad := decide (bits v 24 8 ≠ 0x5A ∨ ¬(bits v 0 4 ∈ [1, 2, 4, 8])) || s.transit.entering ||
    decide (s.fld Reg.kpDormerState ≠ 0)
  if bad then s.accessEvent p 0x07 off
  else if bits v 0 4 = 1 then s.moduleReset
  else if bits v 0 4 = 2 then
    if s.transit.warm = 0 then { s with transit := { s.transit with warm := 1 } } else s
  else if bits v 0 4 = 4 then
    match s.image with
    | some i =>
      if s.fld Reg.kpImgstatState = 3 ∧ bits v 4 5 < i.spans.length then
        { s with transit := { s.transit with spans := s.transit.spans.erase (bits v 4 5) ++ [bits v 4 5] } }
      else s
    | none => s
  else
    let b : PBay := ⟨bits v 9 5, bits v 14 4⟩
    if s.bayResettable b then s.bayReset b else s.accessEvent p 0x07 off

/-- MODULE_RESET (18 R481, R491, R492): a write of KP_RESET with MODULE. -/
def execModuleReset (p : Path) (value : Word) (s : State) : Host.Outcome State Fault Refusal :=
  .next (s.access p Reg.kpResetModule.off fun s => s.writeReset p value.toNat)

/-- WARM_RESET (18 R481 to R483, R491): a write of KP_RESET with WARM. -/
def execWarmReset (p : Path) (value : Word) (s : State) : Host.Outcome State Fault Refusal :=
  .next (s.access p Reg.kpResetWarm.off fun s => s.writeReset p value.toNat)

/-- SPAN_RESET (18 R481, R484, R491): a write of KP_RESET with SPAN. -/
def execSpanReset (p : Path) (value : Word) (s : State) : Host.Outcome State Fault Refusal :=
  .next (s.access p Reg.kpResetSpan.off fun s => s.writeReset p value.toNat)

/-- BAY_RESET (18 R481, R485, R491): a write of KP_RESET with BAY. -/
def execBayReset (p : Path) (value : Word) (s : State) : Host.Outcome State Fault Refusal :=
  .next (s.access p Reg.kpResetBay.off fun s => s.writeReset p value.toNat)

/-! ### Warm and span resets -/

/-- The bays of the given dies are reset and their Lofts lost. A fault that waits for its isolation stands, and
what has been loaded into its spare is lost (log entry 58). -/
def State.resetBays (s : State) (mine : Nat → Bool) : State :=
  let s := s.resetRegs fun o => decide (0x1000000 ≤ o ∧ o < 0x2800000 ∧ o % 0x100000 < 0x90000) &&
    mine ((o - 0x1000000) / 0x100000)
  let bays := (s.bays.map fun e =>
    if mine (e.1 / 9) then (e.1, { BayState.empty with off := e.2.off, faulty := e.2.faulty }) else e).filter
      fun e => decide (e.2 ≠ BayState.empty)
  let preparing := s.reliab.preparing.map fun e =>
    if mine e.1 then (e.1, e.2.1, e.2.2.1, e.2.2.2.1, false) else e
  { s with
    lath := s.lath.filter fun e => !mine (e.1 / lathSize / 9)
    loft := s.loft.filter fun e => !mine e.1
    plru := s.plru.filter fun e => !mine (e.1 / 32768)
    bays := bays
    reliab := { s.reliab with preparing := preparing } }

/-- An arbiter's block lies in a Rafter die's window. -/
def inRafter (blk : Nat) : Bool := decide (0x1000000 ≤ blk ∧ blk < 0x2800000)

/-- The Rafter and Gable dies are reset (18 R481, R492, column Warm); the arbiters of the Eave dies keep running
(18 R482). -/
def State.resetDies (s : State) : State :=
  let s := (s.resetBays fun _ => true).resetSets
  let s := s.resetRegs fun o => decide (0x3800000 ≤ o ∧ o < 0x3A00000)
  { s with media := [], arbs := s.arbs.filter fun e => !(inRafter e.1 || decide (0x3800000 ≤ e.1 ∧ e.1 < 0x3A00000)) }

/-- The image is applied again (18 R483): steps 1 to 5 of 16 R449. -/
def State.applyAgain (s : State) : State :=
  match s.image with
  | some i => if s.fld Reg.kpImgstatState = 3 then (s.setUp i true).setUpDone i else s
  | none => s

/-- WARM_RESET_COMPLETE (18 R482, R483, R494, 17 R453, R454, 10 R283): what has entered the Underlays since drains
before the reset completes. When the mesh fails to train, the reset stops with ECODE 0x04. Stacks that Dormer-2 holds in
self-refresh stay there (R487). -/
def execWarmResetComplete (mesh : MeshTest) (s : State) : Host.Outcome State Fault Refusal :=
  .next
    (if !s.up || decide (s.transit.warm ≠ 2) then s
    else if !meshDown mesh then
      let s := s.drainAll.resetDies.trainMesh mesh
      let s : State := { s with transit := { s.transit with warm := 0, selfRefresh := s.transit.diesOff } }
      let again := s.image.isSome && decide (s.fld Reg.kpImgstatState = 3)
      s.applyAgain.raise srcLoader 0xB 0x03 (if again then 1 else 0)
    else
      let s := (s.drainAll.resetDies.trainMesh mesh).setFld Reg.kpReadyError 1
      let s := (s.setFld Reg.kpReadyEcode 0x04).setFld Reg.flAlertBringup 1
      { s with transit := { s.transit with warm := 3 } })

/-- The image is applied again to a span's contexts (18 R484). -/
def State.applySpan (s : State) (i : Image) (span : Nat) : State :=
  let mine (c : Nat) : Bool := i.ctxIn (some span) c
  let mineQ (q : Nat) : Bool := i.queues[q]?.any fun e => mine e.ctx
  let s : State := { s with
    watches := s.watches.filter fun w => !mineQ w.queue
    collseq := s.collseq.filter fun e => !mine (e.1 / 4)
    reliab := { s.reliab with lostSaves := s.reliab.lostSaves.filter fun e => !mine e.1 } }
  let s := ((s.putPegs i (some span)).putTies i (some span)).putSlots i (some span)
  ((s.zeroSaves i (some span)).putRings i (some span) true).putOccupants i (some span)

/-- SPAN_RESET_COMPLETE (18 R481, R484, R492, R494): when no task of the span's contexts runs. The arbiter sets
are kept; the counts of the Loft banks' arbiters restart, and the memory controllers and mesh routers run on. -/
def execSpanResetComplete (span : Nat) (s : State) : Host.Outcome State Fault Refusal :=
  .next (match s.image with
    | none => s
    | some i =>
      let runs := s.bays.any fun e => e.2.running.any fun r => s.inSpan span r.task.queue
      if !s.up || !s.transit.spans.contains span || runs then s
      else
        let mine (die : Nat) : Bool := decide (bits (i.spans.getD span 0) die 1 = 1)
        let s := s.resetBays mine
        let s : State := { s with arbs := s.arbs.filter fun e =>
          !(inRafter e.1 && mine ((e.1 - 0x1000000) / 0x100000) && decide (e.1 % 0x100000 < 0xD4000)) }
        let s := s.applySpan i span
        let s : State := { s with transit := { s.transit with spans := s.transit.spans.erase span } }
        s.giveWatches.raise srcLoader 0xB 0x04 (span % 2 ^ 5))

/-! ### The reset input -/

/-- Module reset through the reset input, which is then low (18 R481, R489): it also ends Dormer-3, which runs the
rails up again and closes service access with its event (19 R504). -/
def State.pinReset (s : State) : State :=
  let open_ := s.service
  let asleep := s.power.dormer3
  let s := s.moduleReset
  let s : State := { s with power := { s.power with pinLow := true, released := false } }
  if asleep then
    let s := s.railsUp.raise ⟨30, 2⟩ 0xB 0x06 3
    if open_ then s.raise ⟨31, 2⟩ 0xC 0x04 0 else s
  else s

/-- RESET_PIN (18 R481, 19 R495): RESET_N has been low for at least 1 µs. -/
def execResetPin (lowNs : Nat) (s : State) : Host.Outcome State Fault Refusal :=
  .next (if s.powered 31 && decide (1000 ≤ lowNs) then s.pinReset else s)

/-- RESET_INPUT_RELEASE (18 R478, R481): module reset is released once the rails are good. -/
def execResetInputRelease (s : State) : Host.Outcome State Fault Refusal :=
  .next
    (if s.powered 31 && s.power.pinLow then
      { s with power := { s.power with pinLow := false, released := decide (s.power.rails = 0x7F) } }
    else s)

/-- RESET_SHORT_PULSE (19 R497): a pulse from 50 ns to less than 1 µs. -/
def execResetShortPulse (lowNs : Nat) (s : State) : Host.Outcome State Fault Refusal :=
  .next
    (if s.powered 31 && decide (50 ≤ lowNs ∧ lowNs < 1000) then
      (s.bump Reg.flIlkShortrst 1).setFld Reg.flAlertRstpulse 1
    else s)

/-- PCIE_HOT_RESET (18 R481): it resets the endpoint's configuration space alone, and starts none of the resets. -/
def execPcieHotReset (s : State) : Host.Outcome State Fault Refusal :=
  .next (if s.up then { s with hostCfg := HostCfg.reset } else s)

/-! ### Dormer states -/

/-- A register that Dormer-2 returns to its after-reset value (18 R492): all of the Rafter, Gable and axis- and
stream-port windows but the history, the arbiters' sets, the pegs and ties, and the image's registers. -/
def lostInDormer2 (off : Nat) : Bool :=
  !isHistory off &&
    (decide (0x1000000 ≤ off ∧ off < 0x2800000) || decide (0x3800000 ≤ off ∧ off < 0x3A00000) ||
     (decide (0x3000000 ≤ off ∧ off < 0x3400000) &&
       (decide (off % 0x10000 ≥ 0xF000) || !(decide (portBase 28 ≤ off ∧ off < portBase 30)))) ||
     idxIn off 0x40000 65536 || idxIn off 0x80000 8192 || idxIn off 0x10200 128 || idxIn off 0x10040 4 ||
     off ∈ [Reg.kpSchedExcl.off, Reg.kpBeaconRole.off, Reg.kpCoordX.off, Reg.kpCutXrole.off])

/-- The Underlays drain, the stacks enter self-refresh, and the Rafter and Gable dies and every port but 28 and
29 are powered down (18 R487, R488, R492). -/
def State.sleepDies (s : State) : State :=
  let s := s.drainAll.resetRegs lostInDormer2
  { s with
    live := [], prev := [], commits := [], lath := [], slots := [], loft := [], plru := [], arbs := []
    watches := [], queues := [], bays := s.offBays, held := [], collseq := [], inTransit := [], media := []
    ports := s.ports.filter fun e => isHostPort e.1
    reliab := { s.reliab with preparing := [], losing := [], lostSaves := [] }
    transit := { s.transit with entering := false, leaving := false, selfRefresh := true, diesOff := true } }

/-- Entry into Dormer-2 (18 R488, R494). -/
def State.enterDormer2 (s : State) : State :=
  let s := (s.sleepDies.setFld Reg.kpDormerState 2).setFld Reg.kpDormerBusy 0
  s.raise ⟨30, 2⟩ 0xB 0x05 2

/-- Entry into Dormer-3 (18 R479, R487, R488, R492): as Dormer-2, and every rail but the standby ones drops.
Only the Flashing window keeps its registers (19 R504); its sources' SEQ restart with all others. The record of the entry
(R494) is made before the Kingpost loses power (DESIGN CHOICE, log entry 141). -/
def State.enterDormer3 (s : State) : State :=
  let entered := s.record ⟨30, 2⟩ 0xB 0x05 3
  let s := s.sleepDies.restart fun o => decide (0x100000 ≤ o ∧ o < 0x200000)
  let s := (s.setFld Reg.flPstatPgood 0).setFld Reg.flIlkLit 0
  { s with
    mem := []
    poison := []
    raised := [entered]
    mgmt := { s.mgmt with hold := 0 }
    power := { s.power with rails := 1, released := false, dormer3 := true } }

/-- A dormer state can be entered (18 R488). -/
def State.mayDoze (s : State) : Bool := decide (s.fld Reg.kpDormerState = 0)

/-- The condition of Dormer-2 and Dormer-3 (18 R488). -/
def State.maySleep (s : State) : Bool := s.mayDoze && decide (s.fld Reg.kpImgstatState = 0)

/-- A write of KP_DORMER.REQ (18 R488). -/
def State.writeDormer (s : State) (p : Path) (req : Nat) : State :=
  if req = 1 ∧ s.mayDoze = true then
    State.setFld { s with transit := { s.transit with entering := true } } Reg.kpDormerBusy 1
  else if req = 2 ∧ s.maySleep = true then s.enterDormer2
  else if req = 3 ∧ s.maySleep = true then s.enterDormer3
  else if req = 0 ∧ s.fld Reg.kpDormerState = 1 then
    State.setFld { s with transit := { s.transit with leaving := true } } Reg.kpDormerBusy 1
  else if req = 0 ∧ s.fld Reg.kpDormerState = 2 then
    let s : State := { s with transit := { s.transit with
      selfRefresh := decide (2 ≤ s.transit.warm), diesOff := false } }
    (s.setFld Reg.kpDormerState 0).raise ⟨30, 2⟩ 0xB 0x06 2
  else s.accessEvent p 0x07 Reg.kpDormerReq.off

/-- DORMER1_REQUEST (18 R488). -/
def execDormer1Request (p : Path) (s : State) : Host.Outcome State Fault Refusal :=
  .next (s.access p Reg.kpDormerReq.off fun s => s.writeDormer p 1)

/-- DORMER2_REQUEST (18 R487, R488, R492). -/
def execDormer2Request (p : Path) (s : State) : Host.Outcome State Fault Refusal :=
  .next (s.access p Reg.kpDormerReq.off fun s => s.writeDormer p 2)

/-- DORMER3_REQUEST (18 R479, R487, R488, R492). -/
def execDormer3Request (p : Path) (s : State) : Host.Outcome State Fault Refusal :=
  .next (s.access p Reg.kpDormerReq.off fun s => s.writeDormer p 3)

/-- DORMER_EXIT (18 R488). -/
def execDormerExit (p : Path) (s : State) : Host.Outcome State Fault Refusal :=
  .next (s.access p Reg.kpDormerReq.off fun s => s.writeDormer p 0)

/-- OPERATION_DORMER3_ENTER (18 R493): PMBus OPERATION 0x00 under the condition of R488. -/
def execOperationDormer3Enter (s : State) : Host.Outcome State Fault Refusal :=
  .next (if s.up && s.maySleep then s.enterDormer3 else s)

/-- OPERATION_DORMER3_LEAVE (18 R489, R493, R494, 19 R504): PMBus OPERATION 0x80. -/
def execOperationDormer3Leave (s : State) : Host.Outcome State Fault Refusal :=
  .next (if s.powered 31 && s.power.dormer3 then (s.railsUp.raise ⟨30, 2⟩ 0xB 0x06 3).closeService true else s)

/-! ### PMBus -/

/-- A PMBus command is answered while the standby rails are up (18 R493, 19 R498). -/
def State.pmbus (s : State) (answer : Nat) : State :=
  if s.powered 31 then { s with resp := .word answer } else s

/-- LINEAR11 of a quantity n / d: the smallest exponent whose mantissa does not pass 1,023 (PRESUMED: PMBus; log
entry 60). -/
def linear11 (n d : Nat) : Nat :=
  let mant (k : Nat) : Nat := if k ≤ 16 then n * 2 ^ (16 - k) / d else n / (d * 2 ^ (k - 16))
  match (List.range 32).find? fun k => decide (mant k ≤ 1023) with
  | some k => mant k + (k + 16) % 32 * 2 ^ 11
  | none => 1023 + 15 * 2 ^ 11

/-- LINEAR16 with an exponent of −9. -/
def linear16 (n d : Nat) : Nat := satTo 0xFFFF (n * 512 / d)

/-- CLEAR_FAULTS (18 R493). -/
def execClearFaults (s : State) : Host.Outcome State Fault Refusal :=
  .next (if s.powered 31 then { s with power := { s.power with status := 0 } } else s)

/-- STATUS_WORD (18 R493): the fault bits, OFF and POWER_GOOD# (PRESUMED: PMBus; log entry 60). -/
def execStatusWord (s : State) : Host.Outcome State Fault Refusal :=
  let off := if s.power.dormer3 then 2 ^ 6 else 0
  let bad := if s.flag Reg.flPstatPgood then 0 else 2 ^ 11
  .next (s.pmbus (s.power.status + off + bad))

/-- READ_VIN (18 R493): the input voltage, which FL_VIN.DV shows too. -/
def execReadVin (decivolts : Nat) (s : State) : Host.Outcome State Fault Refusal :=
  .next (if s.powered 31 then (s.setFld Reg.flVinDv decivolts).pmbus (linear11 decivolts 10) else s)

/-- READ_IIN (18 R493). -/
def execReadIin (milliamps : Nat) (s : State) : Host.Outcome State Fault Refusal :=
  .next (s.pmbus (linear11 milliamps 1000))

/-- READ_VOUT (18 R493): the 48 V bus, which FL_VIN.BUS shows too. -/
def execReadVout (centivolts : Nat) (s : State) : Host.Outcome State Fault Refusal :=
  .next (if s.powered 31 then (s.setFld Reg.flVinBus centivolts).pmbus (linear16 centivolts 100) else s)

/-- READ_TEMPERATURE_1 (18 R493): FL_TEMP.DIE. -/
def execReadTemperature1 (degC die : Nat) (s : State) : Host.Outcome State Fault Refusal :=
  .next
    (if s.powered 31 then
      ((s.setFld Reg.flTempDie degC).setFld Reg.flTempWhich die).pmbus (linear11 degC 1)
    else s)

/-- READ_POUT (18 R493): power of the 48 V bus. -/
def execReadPout (watts : Nat) (s : State) : Host.Outcome State Fault Refusal :=
  .next (s.pmbus (linear11 watts 1))

/-- READ_PIN (18 R493): input power, which FL_PIN.W shows too. -/
def execReadPin (watts : Nat) (s : State) : Host.Outcome State Fault Refusal :=
  .next (if s.powered 31 then (s.setFld Reg.flPinW watts).pmbus (linear11 watts 1) else s)

/-- PMBUS_REVISION (18 R493). -/
def execPmbusRevision (s : State) : Host.Outcome State Fault Refusal :=
  .next (s.pmbus (Config.pmbusRevision % 2 ^ 8))

end Sys2Proof.Machine
end

