-- ==== Sys2Proof/Machine/Mgmt.lean ====
section
/-! DEFINITION. The management connector and the Flashing die's guards: lasers and the interlock, signed firmware,
service access (19 R495 to R513, 01 R25). -/

namespace Sys2Proof.Machine

/-- The access lock's event source. -/
def srcLock : Source := ⟨31, 2⟩

/-! ### Lasers -/

/-- A laser source unit goes dark: its UP ports enter REPLAY and those that train go OFF (01 R25, 14 R388,
R389, R394). With no light no lane is usable: cause 0. A DOWN port stays DOWN until light returns. -/
def State.darken (s : State) (unit : Nat) : State :=
  if bits (s.fld Reg.flIlkLit) unit 1 = 1 then
    let s := s.setFld Reg.flIlkLit (putBits (s.fld Reg.flIlkLit) unit 1 0)
    (List.range 8).foldl (fun (s : State) j =>
      let p := 8 * unit + j
      if s.pstate p = 2 then s.portDark p 0
      else if s.pstate p = 1 ∨ s.pstate p = 5 then s.setFld (Reg.eavStateState p) 0
      else s) s
  else s

/-- INTERLOCK_OPEN (19 R503, 01 R25): the loop current falls to 1 mA or less. -/
def execInterlockOpen (microamps : Nat) (s : State) : Host.Outcome State Fault Refusal :=
  .next
    (if s.powered 31 && s.flag Reg.flIlkClosed && decide (microamps ≤ 1000) then
      let s := ((s.setFld Reg.flIlkClosed 0).bump Reg.flIlkOpens 1).setFld Reg.flAlertIlk 1
      let s : State := { s with mgmt := { s.mgmt with hold := 0 } }
      let s := (List.range 4).foldl State.darken s
      s.raise ⟨31, 3⟩ 0xC 0x06 (s.fld Reg.flIlkOpens)
    else s)

/-- INTERLOCK_CLOSE (19 R503): the loop current reaches 3 mA; the hold of 100 ms starts for every unit whose
presence contact is made. -/
def execInterlockClose (microamps : Nat) (s : State) : Host.Outcome State Fault Refusal :=
  .next
    (if s.powered 31 && !s.flag Reg.flIlkClosed && decide (3000 ≤ microamps) then
      State.setFld { s with mgmt := { s.mgmt with hold := s.mgmt.presence } } Reg.flIlkClosed 1
    else s)

/-- LASER_PRESENCE_OPEN (01 R25). -/
def execLaserPresenceOpen (unit : Nat) (s : State) : Host.Outcome State Fault Refusal :=
  .next
    (if unit < 4 then
      let m := s.mgmt
      let s : State := { s with mgmt := { m with presence := putBits m.presence unit 1 0
                                                 hold := putBits m.hold unit 1 0 } }
      s.darken unit
    else s)

/-- LASER_PRESENCE_CLOSE (01 R25, 19 R503). -/
def execLaserPresenceClose (unit : Nat) (s : State) : Host.Outcome State Fault Refusal :=
  .next
    (if unit < 4 ∧ bits s.mgmt.presence unit 1 = 0 then
      let m := s.mgmt
      let runs := if s.flag Reg.flIlkClosed then 1 else 0
      { s with mgmt := { m with presence := putBits m.presence unit 1 1, hold := putBits m.hold unit 1 runs } }
    else s)

/-- LASER_RELIGHT (01 R25, 19 R503): the unit's contacts have stayed closed for 100 ms. Its ports then train from
OFF. -/
def execLaserRelight (unit : Nat) (s : State) : Host.Outcome State Fault Refusal :=
  .next
    (if decide (unit < 4 ∧ bits s.mgmt.hold unit 1 = 1 ∧ s.power.rails = 0x7F) && s.flag Reg.flIlkClosed then
      let s : State := { s with mgmt := { s.mgmt with hold := putBits s.mgmt.hold unit 1 0 } }
      let s := s.setFld Reg.flIlkLit (putBits (s.fld Reg.flIlkLit) unit 1 1)
      (List.range 8).foldl (fun (s : State) j =>
        let p := 8 * unit + j
        if s.pstate p = 2 ∨ s.pstate p = 3 then s else s.setFld (Reg.eavStateState p) 0) s
    else s)

/-! ### Signed firmware -/

/-- FL_FWADDR.ADDR. -/
def State.fwAddr (s : State) : Nat := s.fld Reg.flFwaddrAddrLo + s.fld Reg.flFwaddrHiAddrHi * 2 ^ 32

/-- An image is verified and written into the inactive slot, or refused (19 R505, R507). Nothing verifies while
the stacks cannot be read. -/
def State.install (s : State) : State :=
  let (s, bad) := s.noteRead srcLock s.fwAddr Config.firmwareLength
  let version := if bad || !s.up || s.transit.selfRefresh then none
    else Config.firmwareVersion (s.peekN s.fwAddr Config.firmwareLength)
  match version with
  | some v =>
    if s.fld Reg.flFwstatSvn ≤ v then
      let k := 1 - s.fld Reg.flFwstatSlot
      let s : State := { s with mgmt := { s.mgmt with fwVer := putAt s.mgmt.fwVer k v, fwNext := k } }
      s.setFld (if k = 0 then Reg.flFwstatAok else Reg.flFwstatBok) 1
    else (s.setFld Reg.flAlertFw 1).raise srcLock 0xC 0x02 0
  | none => (s.setFld Reg.flAlertFw 1).raise srcLock 0xC 0x02 0

/-- The fused version rises to that of the running image, and never falls (19 R507). -/
def State.commitVersion (s : State) : State :=
  if s.fld Reg.flFwstatSvn < s.mgmt.fwRun then s.setFld Reg.flFwstatSvn (satTo 0x20 s.mgmt.fwRun) else s

/-- A write of FL_FWCTL (19 R507). -/
def State.writeFwctl (s : State) (install commit : Bool) : State :=
  let s := if install then s.install else s
  if commit then s.commitVersion else s

/-- FW_INSTALL (19 R507). -/
def execFwInstall (p : Path) (s : State) : Host.Outcome State Fault Refusal :=
  .next (s.access p Reg.flFwctlInstall.off fun s => s.writeFwctl true false)

/-- FW_COMMIT (19 R507). -/
def execFwCommit (p : Path) (s : State) : Host.Outcome State Fault Refusal :=
  .next (s.access p Reg.flFwctlCommit.off fun s => s.writeFwctl false true)

/-! ### Service access -/

/-- The bytes of FL_SVCBUF that FL_SVCLEN counts. -/
def State.svcBytes (s : State) : List Byte :=
  (((List.range 24).flatMap fun k => toLe 4 (s.fld (Reg.flSvcbufData k))).take (s.fld Reg.flSvclenLen))

/-- The bytes of the current challenge. -/
def State.challengeBytes (s : State) : List Byte :=
  (List.range 12).flatMap fun k => toLe 4 (s.fld (Reg.flChalData k))

/-- The end of a service command (19 R512): LASTFAIL, and the buffer is cleared. -/
def State.svcEnd (s : State) (failed : Bool) : State :=
  let s := (s.setFlag Reg.flSvcstatLastfail failed).setFld Reg.flSvclenLen 0
  s.resetRegs fun o => idxIn o 0x180100 24

/-- Access opens (19 R508, R513). -/
def State.openService (s : State) (how : Nat) : State :=
  let s := ((s.setFld Reg.flSvcstatOpen 1).setFld Reg.flSvcstatHow how).setFld Reg.flAlertSvc 1
  s.raise srcLock 0xC 0x03 how

/-- A password is refused (19 R513). -/
def State.refusePassword (s : State) : State :=
  s.raise srcLock 0xC 0x05 (s.fld Reg.flSvcstatTries + s.fld Reg.flSvcstatLockout * 2 ^ 3)

/-- SET (19 R509): a password of 8 to 32 bytes, while none is set. -/
def State.svcSet (s : State) : State :=
  let n := s.fld Reg.flSvclenLen
  if s.flag Reg.flSvcstatPwset then s.refusePassword.svcEnd true
  else if 8 ≤ n ∧ n ≤ 32 then
    let h := Config.passwordHash s.svcBytes
    let s : State := { s with mgmt := { s.mgmt with pwHash := some h } }
    (s.setFld Reg.flSvcstatPwset 1).svcEnd false
  else s.svcEnd true

/-- TRY begins (19 R510): it runs for 1 s. -/
def State.svcTry (s : State) : State :=
  State.setFld { s with mgmt := { s.mgmt with svcCmd := 2 } } Reg.flSvcstatBusy 1

/-- TRY ends (19 R510): it judges the buffer as it then is (DEDUCED, log entry 125). -/
def State.svcTryEnd (s : State) : State :=
  let right := decide (s.mgmt.pwHash = some (Config.passwordHash s.svcBytes))
  let s : State := { s with mgmt := { s.mgmt with svcCmd := 0 } }
  let s := s.setFld Reg.flSvcstatBusy 0
  if s.flag Reg.flSvcstatLockout then s.refusePassword.svcEnd true
  else if right then ((s.setFld Reg.flSvcstatTries 5).openService 1).svcEnd false
  else
    let left := s.fld Reg.flSvcstatTries - 1
    let s := s.setFld Reg.flSvcstatTries left
    let s := if left = 0 then (s.setFld Reg.flSvcstatLockout 1).setFld Reg.flAlertSvc 1 else s
    s.refusePassword.svcEnd true

/-- CHALLENGE (19 R511): the identity, and 32 fresh random bytes (an open value: log entry 16). -/
def State.svcChallenge (s : State) : State :=
  let (v, s) := s.takeFree
  let s := (List.range 12).foldl (fun (s : State) k =>
    s.setFld (Reg.flChalData k)
      (if k < 4 then Config.deviceIdentity / 2 ^ (32 * k) else v / 2 ^ (32 * (k - 4)))) s
  State.svcEnd { s with mgmt := { s.mgmt with challenge := true } } false

/-- RESPONSE (19 R511): valid or not, it voids the challenge; FL_CHAL then reads 0 (DESIGN CHOICE, log entry 126). -/
def State.svcResponse (s : State) : State :=
  let valid := s.mgmt.challenge && decide (s.fld Reg.flSvclenLen = 96) &&
    Config.responseValid s.challengeBytes s.svcBytes
  let s : State := { s with mgmt := { s.mgmt with challenge := false } }
  let s := s.resetRegs fun o => idxIn o 0x180200 12
  if valid then (s.openService 2).svcEnd false else s.svcEnd true

/-- CLOSE (19 R508). -/
def State.svcClose (s : State) : State := (s.closeService true).svcEnd false

/-- A write of FL_SVCCMD (19 R512). An unnamed CMD fails. -/
def State.writeSvc (s : State) (p : Path) (cmd key : Nat) : State :=
  if s.flag Reg.flSvcstatBusy || decide (key ≠ 0xA5) then s.accessEvent p 0x07 Reg.flSvccmdCmd.off
  else match cmd with
    | 1 => s.svcSet
    | 2 => s.svcTry
    | 3 => s.svcChallenge
    | 4 => s.svcResponse
    | 5 => s.svcClose
    | _ => s.svcEnd true

/-- SVC_SET (19 R509, R512). -/
def execSvcSet (p : Path) (key : Nat) (s : State) : Host.Outcome State Fault Refusal :=
  .next (s.access p Reg.flSvccmdCmd.off fun s => s.writeSvc p 1 key)

/-- SVC_TRY (19 R510, R512). -/
def execSvcTry (p : Path) (key : Nat) (s : State) : Host.Outcome State Fault Refusal :=
  .next (s.access p Reg.flSvccmdCmd.off fun s => s.writeSvc p 2 key)

/-- SVC_TRY_COMPLETE (19 R510, R512): the second of a TRY is over. -/
def execSvcTryComplete (s : State) : Host.Outcome State Fault Refusal :=
  .next
    (if s.powered 31 && s.flag Reg.flSvcstatBusy && decide (s.mgmt.svcCmd = 2) then s.svcTryEnd else s)

/-- SVC_CHALLENGE (19 R511, R512). -/
def execSvcChallenge (p : Path) (key : Nat) (s : State) : Host.Outcome State Fault Refusal :=
  .next (s.access p Reg.flSvccmdCmd.off fun s => s.writeSvc p 3 key)

/-- SVC_RESPONSE (19 R511, R512). -/
def execSvcResponse (p : Path) (key : Nat) (s : State) : Host.Outcome State Fault Refusal :=
  .next (s.access p Reg.flSvccmdCmd.off fun s => s.writeSvc p 4 key)

/-- SVC_CLOSE (19 R508, R512). -/
def execSvcClose (p : Path) (key : Nat) (s : State) : Host.Outcome State Fault Refusal :=
  .next (s.access p Reg.flSvccmdCmd.off fun s => s.writeSvc p 5 key)

end Sys2Proof.Machine
end

