-- ==== Sys2Proof/Machine/Reduce.lean ====
section
/-! DEFINITION. REDUCE: the six kinds over the bays of a group, the dies of a span, and the modules of an
axis (14 R407 to R412, 15 R422, R423). -/

namespace Sys2Proof.Machine

/-! ### Additions and conversions -/

/-- The integer of a value that is one. -/
def valInt (v : Val) : Int :=
  match v with
  | .fin s n _ e => let x := (Val.scale n 1 e).1; if s then -(x : Int) else x
  | _ => 0

/-- One step of a sum, maximum or minimum (14 R408). -/
def redStep (ar : Arith) (src op : Nat) (x y : Val) : Val × Cnt :=
  if op = 1 then (maxVal x y, Cnt.none)
  else if op = 2 then (minVal x y, Cnt.none)
  else if src = fINT32 then
    let (v, c) := rangeStep ar.ovf (valInt x + valInt y)
    (Val.ofInt v, c)
  else if ar.strict then
    let v := x.add y (decide (ar.rnd = .down))
    let (code, n) := roundStrict fp32 ar.rnd v
    (decodeElem fFP32 code, if v.isNan && !x.isNan && !y.isNan then { n with flags := n.flags ||| 16 } else n)
  else roundAcc ar (x.add y)

/-- The values of the members combined in ascending index, with what each member counts (14 R408). -/
def redFold (ar : Arith) (src op : Nat) (vs : List Val) : Val × List Cnt :=
  match vs with
  | [] => (Val.zero, [])
  | v :: t => t.foldl (fun acc x => let (r, c) := redStep ar src op acc.1 x; (r, acc.2 ++ [c])) (v, [Cnt.none])

/-- A moved element in the target's format: the same code where the formats agree, else converted (15 R422). -/
def redConvert (ar : Arith) (src dst code : Nat) : Nat × Cnt :=
  if src = dst then (code, Cnt.none) else convert ar dst (decodeElem src code)

/-! ### Members of one module -/

/-- A member of a REDUCE within the module: its bay and its descriptor. -/
abbrev Member := PBay × List Byte

/-- An element of a member's SRC. -/
def State.srcCode (s : State) (m : Member) (i : Nat) : Nat :=
  s.code m.1 (refAt m.2 32) (redCount m.2) 0 i

/-- An element written to a member's DST. -/
def dstPut (m : Member) (len i code : Nat) : OutWrite := putCode m.1 Route.purlin (refAt m.2 40) len 0 i code

/-- A block of a member's SRC as it travels: its scale and its codes, those beyond the row 0. -/
def State.srcBlock (s : State) (m : Member) (blk : Nat) : List Byte :=
  let r := redRef m.2 32
  let n := redCount m.2
  toLe r.scaleBytes (s.scaleOf m.1 r n 0 (32 * blk)) ++
    packCodes (fmtBits r.fmt) ((List.range 32).map fun i =>
      if 32 * blk + i < n then s.code m.1 r n 0 (32 * blk + i) else 0) 0

/-- The scale and the codes of a block that has travelled. -/
def blockOfBytes (fmt : Nat) (bs : List Byte) : Nat × List Nat :=
  let k := if isMx fmt then 1 else 2
  let w := fmtBits fmt
  (le bs 0 k, (List.range 32).map fun i => bits (ofLe (bs.drop k)) (w * i) w)

/-- The data of a shift, from element `first` on and of a whole number of blocks, at a member's DST: a block format's
blocks as they are where the formats agree, else converted once (15 R422; 03 R84 to R89). -/
def State.shiftPut (s : State) (ar : Arith) (m : Member) (first : Nat) (data : List Byte) : Result :=
  let src := (refAt m.2 32).fmt
  let dst := redRef m.2 40
  let n := redCount m.2
  let blocks : List (Nat × List Nat) :=
    if isBlock src then
      (List.range (data.length / max (blockBytes src) 1)).map fun i => blockOfBytes src (data.drop (i * blockBytes src))
    else []
  if isBlock src ∧ src = dst.fmt then
    { outs := blocks.zipIdx.flatMap fun ((scale, codes), i) =>
        let blk := first / 32 + i
        putBlock s m.1 Route.purlin dst n 0 blk (min 32 (n - 32 * blk)) scale codes,
      cnt := Cnt.none }
  else
    let vs : List Val :=
      if isBlock src then blocks.flatMap fun x => x.2.map fun c => if isMx src then mxValue src c x.1 else kvValue src c x.1
      else (List.range (data.length / max (fmtBits src / 8) 1)).map fun i =>
        decodeElem src (le data (fmtBits src / 8 * i) (fmtBits src / 8))
    putValues s m.1 ar Route.purlin dst n 0 first (vs.take (n - first))

/-- A shift between formats of which one has block scales. -/
def shiftsBlocks (d : List Byte) : Bool :=
  decide (4 ≤ redKind d) && (isBlock (refAt d 32).fmt || isBlock (refAt d 40).fmt)

/-- Elements of a member's SRC as they travel, `n` from element `first` on. -/
def State.srcBytes (s : State) (m : Member) (first n : Nat) : List Byte :=
  let fmt := (refAt m.2 32).fmt
  if isBlock fmt then (List.range (ceilDiv n 32)).flatMap fun k => s.srcBlock m (first / 32 + k)
  else (List.range n).flatMap fun i => toLe (fmtBits fmt / 8) (s.srcCode m (first + i))

/-- The results of a REDUCE whose members all stand in this module, member by member (14 R407 to R410, 15
R422, R423). -/
def State.redParts (s : State) (ar : Arith) (ms : List Member) : Parts :=
  let n := ms.length
  let d := (ms.map Prod.snd).headD []
  let count := redCount d
  let src := (refAt d 32).fmt
  let dst := (refAt d 40).fmt
  let moved (m from_ : Member) (len at_ : Nat) : Result :=
    Result.all (List.range count) fun e =>
      let (code, c) := redConvert ar src dst (s.srcCode from_ e)
      { outs := [dstPut m len (at_ + e) code], cnt := c }
  let shift (j : Nat) (m : Member) : Result :=
    match ms[j]? with
    | some o =>
      if (refAt o.2 32).addr = 0 ∨ (refAt m.2 40).addr = 0 then Result.none
      else if shiftsBlocks m.2 then s.shiftPut ar m 0 (s.srcBytes o 0 count)
      else moved m o count 0
    | none => Result.none
  match redKind d with
  | 2 => ms.map fun m => (m.1, Result.all ms.zipIdx fun (o, j) => moved m o (n * count) (j * count))
  | 3 => ms.map fun m => (m.1, match ms[redRoot d]? with
      | some o => moved m o count 0
      | none => Result.none)
  | 4 => ms.zipIdx.map fun (m, i) => (m.1, shift ((i + n - 1) % max n 1) m)
  | 5 => ms.zipIdx.map fun (m, i) => (m.1, shift ((i + 1) % max n 1) m)
  | kind =>
    let elems := (List.range count).map fun e =>
      let (v, cs) := redFold ar src (redOp d) (ms.map fun m => decodeElem src (s.srcCode m e))
      let (code, c) := convert ar dst v
      (code, cs, c)
    ms.zipIdx.map fun (m, i) =>
      let cnt := elems.foldl (fun t x =>
        (t.plus (x.2.1.getD i Cnt.none)).plus (if i + 1 = n then x.2.2 else Cnt.none)) Cnt.none
      let part := count / max n 1
      let outs := if kind = 1 then
          (List.range part).map fun e => dstPut m part e ((elems.getD (i * part + e) (0, [], Cnt.none)).1)
        else elems.zipIdx.map fun (x, e) => dstPut m count e x.1
      (m.1, { outs := outs, cnt := cnt })

/-! ### The dies of a span -/

/-- What tells the REDUCE tasks of one collective of a span: context and operation (14 R407). -/
def State.spanKey (s : State) (t : Task) : Option Nat × List Nat :=
  let d := t.desc
  (s.queueCtx t.queue,
   [redOp d, redKind d, redCount d, redRoot d, (refAt d 32).fmt, (refAt d 40).fmt])

/-- Changes the running REDUCE of a queue on a bay that still waits. -/
def State.onWaiting (s : State) (b : PBay) (queue : Nat) (f : Running → Running) : State :=
  let v := s.bay b
  let l := v.running.map fun r => if r.waiting = true ∧ r.task.queue = queue then f r else r
  s.setBay b { v with running := l }

/-- The die's waiting SCOPE 0x1 REDUCE of a collective. -/
def State.spanMember (s : State) (die : Nat) (key : Option Nat × List Nat) : Option (PBay × Running) :=
  (dieBays die).findSome? fun o =>
    ((s.bay o).running.find? fun r => r.waiting && decide (dOp r.task.desc = opReduce ∧
      redScope r.task.desc = 1 ∧ s.spanKey r.task = key)).map fun r => (o, r)

/-- The dies of a queue's span. -/
def State.spanDies (s : State) (queue : Nat) : List Nat :=
  let mask := ((s.image.bind fun i => (s.queueEntry queue).bind fun q => i.spans[q.span]?)).getD 0
  (List.range 24).filter fun die => bits mask die 1 = 1

/-- The results of a part join its member's running task, which waits no longer. -/
def State.giveResult (s : State) (b : PBay) (queue : Nat) (res : Result) : State :=
  (s.addCnt b res.cnt).onWaiting b queue fun r =>
    { r with outs := res.outs, flags := r.flags ||| res.cnt.status ||| res.cnt.flags % 32 * 2 ^ 16,
             sflags := r.sflags ++ [(b, res.cnt.flags)], waiting := false }

/-- When the tasks of every die of the span run, the collective is formed (14 R407; log entry 23). -/
def State.meetDies (s : State) (t : Task) : State :=
  let key := s.spanKey t
  let ms := (s.spanDies t.queue).map fun die => s.spanMember die key
  if ms.all Option.isSome then
    let ms := ms.filterMap id
    let parts := s.redParts (s.arithOfQueue t.queue) (ms.map fun m => (m.1, m.2.task.desc))
    (ms.zip parts).foldl (fun (s : State) (m, p) => s.giveResult m.1 m.2.task.queue p.2) s
  else s

/-! ### Modules along an axis -/

/-- A collective that a task of this module takes part in. -/
structure Coll where
  bay  : PBay
  task : Task
  ar   : Arith
  ctx  : Nat
  axis : Nat
  n    : Nat
  me   : Nat
  seq  : Nat
deriving DecidableEq, Repr

/-- The collective of a running task. -/
def State.collOf (s : State) (b : PBay) (t : Task) (seq : Nat) : Coll :=
  let axis := redAxis t.desc
  { bay := b, task := t, ar := s.arithOfQueue t.queue, ctx := (s.queueCtx t.queue).getD 0, axis := axis,
    n := s.extent axis, me := coordOf s.ownCoord axis, seq := seq }

/-- The member of the collective that this module is. -/
def Coll.member (c : Coll) : Member := (c.bay, c.task.desc)

/-- The format in which source data and partials travel (14 R409). -/
def Coll.fmt (c : Coll) : Nat := redFormat c.ar c.task.desc

/-- Format of the target. -/
def Coll.dst (c : Coll) : Nat := (refAt c.task.desc 40).fmt

/-- Elements of a piece: 16 KiB of the wider of the two formats that travel, or as many whole blocks (14 R411; log entries
48 and 138). -/
def Coll.per (c : Coll) : Nat :=
  if isBlock c.fmt then 16384 / blockBytes c.fmt * 32
  else 131072 / max (if redKind c.task.desc < 2 then max (fmtBits c.fmt) (fmtBits c.dst) else fmtBits c.fmt) 1

/-- Pieces of one member's elements. -/
def Coll.pieces (c : Coll) : Nat := ceilDiv (redCount c.task.desc) (max c.per 1)

/-- Steps from the root of a broadcast in the + direction, and in the − direction. -/
def Coll.fromRoot (c : Coll) : Nat × Nat :=
  let r := redRoot c.task.desc
  ((c.me + c.n - r % max c.n 1) % max c.n 1, (r + c.n - c.me) % max c.n 1)

/-- A member of a broadcast passes data on in a direction: the next member lies on that side by the shorter
way, + on a tie (14 R410). -/
def Coll.casts (c : Coll) (plus : Bool) : Bool :=
  let (p, m) := c.fromRoot
  if plus then decide (2 * (p + 1) ≤ c.n ∧ 2 * p ≤ c.n) else decide (2 * (m + 1) < c.n ∧ 2 * m < c.n)

/-- The directions in which this member starts pieces of its own (14 R410, 15 R422). -/
def Coll.starts (c : Coll) : List Bool :=
  match redKind c.task.desc with
  | 2 => [true]
  | 3 => if c.fromRoot.1 = 0 then [true, false].filter fun p => c.casts p else []
  | 4 => [true]
  | 5 => [false]
  | _ => if c.me = 0 then [true] else []

/-- The directions in which this member sends at all. -/
def Coll.sends (c : Coll) : List Bool :=
  match redKind c.task.desc with
  | 2 => [true]
  | 3 => [true, false].filter fun p => c.casts p
  | 4 => [true]
  | 5 => [false]
  | _ => (if c.me + 1 < c.n then [true] else []) ++ (if 0 < c.me then [false] else [])

/-- Pieces that this member takes for its result. -/
def Coll.needs (c : Coll) : Nat :=
  match redKind c.task.desc with
  | 2 => (c.n - 1) * c.pieces
  | 3 => if c.fromRoot.1 = 0 then 0 else c.pieces
  | _ => c.pieces

/-- Notes a transfer, a count or an output of the collective's task. -/
def Coll.note (c : Coll) (s : State) (f : Running → Running) : State := s.onWaiting c.bay c.task.queue f

/-- What the collective's task counts. -/
def Coll.count (c : Coll) (s : State) (cnt : Cnt) : State :=
  c.note (s.addCnt c.bay cnt) fun r =>
    { r with flags := r.flags ||| cnt.flags % 32 * 2 ^ 16, sflags := r.sflags ++ [(c.bay, cnt.flags)] }

/-- A piece on its way to the next module (14 R399, R411). -/
def Coll.piece (c : Coll) (s : State) (plus : Bool) (offset : Nat) (data : List Byte) (tag : Nat) : Msg :=
  { mtype := 1, ctx := c.ctx, tag := tag, dest := s.neighbour c.axis plus, src := s.ownCoord, collseq := c.seq,
    offset := offset, len := data.length, data := data }

/-- Sends a piece one hop, on the credits of the task's context whichever way round it goes (12 R340): a tag of a port
of the direction (14 R399, R404, R411; which of the direction's ports is the model's choice, log entry 48). None while no
tag is free. -/
def Coll.send (c : Coll) (s : State) (plus : Bool) (k offset : Nat) (data : List Byte) : Option State :=
  let ports := s.waysOf c.axis plus
  let e := k % max ports.length 1
  match ports[e]? with
  | none => none
  | some port =>
    (s.allocTag port e ports.length c.task.queue).map fun (tag, s) =>
      let s := s.sendMsg port 1 (some c.task.queue) (c.piece s plus offset data tag)
      c.note s fun r => { r with tags := r.tags ++ [(port, tag)] }

/-- Bytes of a list of codes. -/
def codeBytes (fmt : Nat) (codes : List Nat) : List Byte := codes.flatMap fun x => toLe (fmtBits fmt / 8) x

/-- Codes in a list of bytes. -/
def bytesCodes (fmt : Nat) (bs : List Byte) : List Nat :=
  let w := fmtBits fmt / 8
  (List.range (bs.length / max w 1)).map fun i => le bs (w * i) w

/-- The elements of one of this member's own pieces as they travel. -/
def Coll.ownCodes (c : Coll) (s : State) (k : Nat) : List Nat :=
  let src := (refAt c.task.desc 32).fmt
  (List.range (min c.per (redCount c.task.desc - k * c.per))).map fun i =>
    let x := s.srcCode c.member (k * c.per + i)
    if src = c.fmt then x else exactCode c.fmt (decodeElem src x)

/-- First byte of a member's piece in the collective's data. -/
def Coll.offset (c : Coll) (k : Nat) : Nat :=
  let base := if redKind c.task.desc = 2 then c.me * redCount c.task.desc else 0
  travelBytes c.fmt (base + k * c.per)

/-- A shift with SRC.ADDR 0 sends pieces of no data (15 R423). -/
def Coll.mute (c : Coll) : Bool := decide (4 ≤ redKind c.task.desc ∧ (refAt c.task.desc 32).addr = 0)

/-- A shift with DST.ADDR 0 takes the pieces that arrive and writes nothing (15 R423). -/
def Coll.deaf (c : Coll) : Bool := decide (4 ≤ redKind c.task.desc ∧ (refAt c.task.desc 40).addr = 0)

/-- The bytes of one of this member's own pieces. -/
def Coll.ownBytes (c : Coll) (s : State) (k : Nat) : List Byte :=
  if c.mute then []
  else if isBlock c.fmt then s.srcBytes c.member (k * c.per) (min c.per (redCount c.task.desc - k * c.per))
  else codeBytes c.fmt (c.ownCodes s k)

/-- Sends the pieces of its own that are not sent, in order, while tags are free. -/
def Coll.sendOwn (c : Coll) (fuel : Nat) (s : State) : State :=
  match fuel with
  | 0 => s
  | f + 1 =>
    match (s.bay c.bay).running.find? fun r => r.waiting && decide (r.task.queue = c.task.queue) with
    | none => s
    | some r =>
      match c.starts[r.phase / max c.pieces 1]? with
      | none => s
      | some plus =>
        let k := r.phase % max c.pieces 1
        match c.send s plus k (c.offset k) (c.ownBytes s k) with
        | none => s
        | some s => c.sendOwn f (c.note s fun r => { r with phase := r.phase + 1 })

/-- Elements of the result written from an index on; a reduce-scatter keeps its own part (14 R410), and a
shift with DST.ADDR 0 writes nothing (15 R423). -/
def Coll.keep (c : Coll) (s : State) (first : Nat) (codes : List Nat) : State :=
  let d := c.task.desc
  let count := redCount d
  let part := count / max c.n 1
  let (lo, len) :=
    if redKind d = 1 then (c.me * part, part)
    else if redKind d = 2 then (0, c.n * count) else (0, count)
  let outs := codes.zipIdx.filterMap fun (x, i) =>
    if lo ≤ first + i ∧ first + i < lo + len then some (dstPut c.member len (first + i - lo) x) else none
  if c.deaf then s
  else c.note s fun r => { r with outs := r.outs ++ outs }

/-- A partial with this member's own elements combined (14 R408). -/
def Coll.combine (c : Coll) (s : State) (first : Nat) (codes : List Nat) : List Val × Cnt :=
  let src := (refAt c.task.desc 32).fmt
  mapCnt codes.zipIdx fun (x, i) =>
    redStep c.ar src (redOp c.task.desc) (decodeElem c.fmt x) (decodeElem src (s.srcCode c.member (first + i)))

/-- A member takes one more piece of its result. -/
def Coll.took (c : Coll) (s : State) : State := c.note s fun r => { r with got := r.got + 1 }

/-- Codes converted to the target format, counted. -/
def Coll.convert (c : Coll) (s : State) (codes : List Nat) : List Nat × State :=
  let (xs, cnt) := mapCnt codes (redConvert c.ar c.fmt c.dst)
  (xs, c.count s cnt)

/-- Passes a piece on, when it goes on. -/
def Coll.pass (c : Coll) (s : State) (goes plus : Bool) (k offset : Nat) (data : List Byte) : Option State :=
  if goes then c.send s plus k offset data else some s

/-- What this member does with a piece of a sum, maximum or minimum (14 R409, R410): partials run through
the + direction, results come back through the − direction. -/
def Coll.takeSum (c : Coll) (s : State) (m : Msg) : Option State :=
  let partial_ := decide ((coordOf m.src c.axis + 1) % max c.n 1 = c.me ∧ 0 < c.me)
  let w := fmtBits c.fmt / 8
  let v := fmtBits c.dst / 8
  if partial_ then
    let first := m.offset / max w 1
    let k := first / max c.per 1
    let (vs, cnt) := c.combine s first (bytesCodes c.fmt m.data)
    if c.me + 1 < c.n then
      (c.send s true k m.offset (codeBytes c.fmt (vs.map (exactCode c.fmt)))).map fun s => c.count s cnt
    else
      let (xs, cnt') := mapCnt vs (Machine.convert c.ar c.dst)
      (c.send s false k (first * v) (codeBytes c.dst xs)).map fun s =>
        c.took (c.keep (c.count s (cnt.plus cnt')) first xs)
  else
    let first := m.offset / max v 1
    (c.pass s (decide (0 < c.me)) false (first / max c.per 1) m.offset m.data).map fun s =>
      c.took (c.keep s first (bytesCodes c.dst m.data))

/-- What this member does with a piece that is only moved (14 R410, 15 R422). -/
def Coll.takeMove (c : Coll) (s : State) (m : Msg) : Option State :=
  let d := c.task.desc
  let first := travelFirst c.fmt m.offset
  let k := first / max c.per 1
  let origin := first / max (redCount d) 1
  let passed : Option State := match redKind d with
    | 2 => c.pass s (decide ((c.me + 1) % max c.n 1 ≠ origin)) true k m.offset m.data
    | 3 =>
      let plus := decide (2 * c.fromRoot.1 ≤ c.n)
      c.pass s (c.casts plus) plus k m.offset m.data
    | _ => some s
  passed.map fun s =>
    if c.deaf then c.took s
    else if shiftsBlocks d then
      let r := s.shiftPut c.ar c.member first m.data
      c.took (c.note (c.count s r.cnt) fun x => { x with outs := x.outs ++ r.outs })
    else
      let (xs, s) := c.convert s (bytesCodes c.fmt m.data)
      c.took (c.keep s first xs)

/-- A piece that stands again in the pool, since its sender has run again: the member has taken one at that place from that
side (15 R428). -/
def Coll.has (c : Coll) (s : State) (h : Held) : Bool :=
  (s.bay c.bay).running.any fun r => r.waiting && decide (r.task.queue = c.task.queue) && r.taken.any fun x =>
    decide (portPlus x.port = portPlus h.port ∧ x.msg.offset = h.msg.offset)

/-- A held piece leaves the pool: its buffer is returned and its completion sent on the port it came by (14 R395, R404), once
for each arrival. -/
def State.release (s : State) (h : Held) : State :=
  let s : State := { s with held := s.held.erase h }
  if h.spent then s
  else
    (s.leaveMsg h.port h.msg).sendMsg h.port 1 none
      { mtype := 2, ctx := h.msg.ctx, tag := h.msg.tag, dest := h.msg.src, src := s.ownCoord, collseq := h.msg.collseq,
        offset := h.msg.offset, len := 0, data := [] }

/-- A held piece is taken: its data go where they belong, and it leaves the pool. One taken before only leaves it. None while
it cannot be passed on. -/
def Coll.take (c : Coll) (s : State) (h : Held) : Option State :=
  if c.has s h then some (s.release h)
  else
    let r := if redKind c.task.desc < 2 then c.takeSum s h.msg else c.takeMove s h.msg
    r.map fun s => c.note (s.release h) fun x => { x with taken := x.taken ++ [h] }

/-- A held piece belongs to the collective. -/
def Coll.owns (c : Coll) (h : Held) : Bool :=
  decide (portAxis h.port = c.axis ∧ h.msg.ctx = c.ctx ∧ h.msg.collseq = c.seq)

/-- No port in a direction in which the task must send: its transfers fail (14 R392, R394, R399). -/
def Coll.fails (c : Coll) (s : State) : Option Nat :=
  (c.sends.find? fun p => (s.waysOf c.axis p).isEmpty).map fun p => (dirPorts c.axis p).headD 0

/-- A collective goes on: pieces of its own, the pieces held for it, and its end (14 R410, R411). -/
def Coll.advance (c : Coll) (s : State) (r : Running) : State :=
  match c.fails s with
  | some port => (s.portEvent port 0x07 c.task.queue).abortTask c.bay r 6
  | none =>
    let s := c.sendOwn (2 * c.pieces) s
    let s := (s.held.filter c.owns).foldl (fun (s : State) h => (c.take s h).getD s) s
    c.note s fun r =>
      if r.got = c.needs ∧ r.phase = c.starts.length * c.pieces then { r with waiting := false } else r

/-- A SCOPE 0x2 REDUCE starts: it takes the context's next number on the axis (14 R412), or, aborted before, keeps its own
(15 R428); an all-gather
keeps its own elements. -/
def State.startColl (s : State) (b : PBay) (t : Task) (ov : Bool) : State :=
  let ctx := (s.queueCtx t.queue).getD 0
  let seq := t.coll.getD (s.nextColl ctx (redAxis t.desc))
  let c := s.collOf b t seq
  if c.n ≤ 1 then s.runParts b t ov (s.redParts c.ar [c.member])
  else
    let s : State :=
      if t.coll.isSome then s else { s with collseq := Store.set s.collseq (4 * ctx + c.axis) ((seq + 1) % 2 ^ 16) 0 }
    let r := { newRunning s t ov [] with waiting := true, coll := some seq }
    let v := s.bay b
    let s := s.setBay b { v with running := v.running ++ [r] }
    let own := (List.range (redCount t.desc)).map fun i => s.srcCode c.member i
    let s :=
      if redKind t.desc = 2 then
        let (xs, s) := c.convert s own
        c.keep s (c.me * redCount t.desc) xs
      else if redKind t.desc = 3 ∧ c.fromRoot.1 = 0 then
        let (xs, s) := c.convert s own
        c.keep s 0 xs
      else s
    match (s.bay b).running.find? fun x => x.waiting && decide (x.task.queue = t.queue) with
    | some r => c.advance s r
    | none => s

/-! ### The rows -/

/-- The running REDUCE of a kind that still waits on a bay. -/
def State.waitingColl (s : State) (b : PBay) (kind : Nat) : Option Running :=
  (s.bay b).running.find? fun r => r.waiting &&
    decide (dOp r.task.desc = opReduce ∧ redKind r.task.desc = kind ∧ redScope r.task.desc = 2)

/-- A REDUCE past its checks, by scope (14 R407). -/
def startReduce (s : State) (b : PBay) (t : Task) (ov : Bool) : State :=
  let d := t.desc
  if redScope d = 0 then
    let group := s.groupOf t
    let ms := if group.isEmpty then [(b, d)] else group.map fun x => (x, d)
    s.runParts b t ov (s.redParts (s.arithOfQueue t.queue) ms)
  else if redScope d = 1 then
    let r := { newRunning s t ov [] with waiting := true }
    let v := s.bay b
    State.meetDies (s.setBay b { v with running := v.running ++ [r] }) t
  else s.startColl b t ov

/-- A REDUCE row: it starts the front task of its kind, or carries on the collective that waits (log entry
23). -/
def State.reduce (s : State) (l : Bay) (kind m : Nat) (e : Sram) : State :=
  match (s.physical l).bind fun b => (s.waitingColl b kind).map fun r => (b, r) with
  | some (b, r) => ((s.collOf b r.task (r.coll.getD 0)).advance s r).sramRead b ((s.teamOf b r.task).getD m b) r.task e
  | none => s.startTask l (opReduce, kind) startReduce m e

/-- ALL_REDUCE (14 R410, KIND 0x0). -/
def execAllReduce (r : TaskRun) (s : State) : Host.Outcome State Fault Refusal :=
  .next (s.reduce r.bay 0 r.member r.sram)

/-- REDUCE_SCATTER (14 R410, KIND 0x1). -/
def execReduceScatter (r : TaskRun) (s : State) : Host.Outcome State Fault Refusal :=
  .next (s.reduce r.bay 1 r.member r.sram)

/-- ALL_GATHER (14 R410, KIND 0x2). -/
def execAllGather (r : TaskRun) (s : State) : Host.Outcome State Fault Refusal :=
  .next (s.reduce r.bay 2 r.member r.sram)

/-- BROADCAST (14 R410, KIND 0x3). -/
def execBroadcast (r : TaskRun) (s : State) : Host.Outcome State Fault Refusal :=
  .next (s.reduce r.bay 3 r.member r.sram)

/-- SHIFT_FORWARD (15 R422, KIND 0x4). -/
def execShiftForward (r : TaskRun) (s : State) : Host.Outcome State Fault Refusal :=
  .next (s.reduce r.bay 4 r.member r.sram)

/-- SHIFT_BACKWARD (15 R422, KIND 0x5). -/
def execShiftBackward (r : TaskRun) (s : State) : Host.Outcome State Fault Refusal :=
  .next (s.reduce r.bay 5 r.member r.sram)

end Sys2Proof.Machine
end

