-- ==== Sys2Proof/Machine/RegWrite.lean ====
section
/-! DEFINITION. A write of any register of BAR0 through either path, and the management bus's own commands (00 R5
to R9, 01 R29, R30, 19 R498 to R502). -/

namespace Sys2Proof.Machine

/-- A write of an arbiter's register, at an offset of its block (11 R305). -/
def State.writeArb (s : State) (p : Path) (blk o value : Nat) : State :=
  if o = 0x30 then
    (if bits value 0 1 = 1 then s.writeVlyCommit p blk
     else if s.expert then s else s.accessEvent p 0x0A (Reg.vlyCommitGo blk).off)
  else if o ∈ arbShadows then s.writeShadow p (blk + o) value
  else s.writeCode p (blk + o) value 0 []

/-- A write of a register of the Kingpost or the Flashing die that does more than its access code says. -/
def State.writeSpecial (s : State) (p : Path) (off value : Nat) : Option State :=
  if 0x50 ≤ off ∧ off < 0x90 then some (s.writeFeatAcc p ((off - 0x50) / 4) (BitVec.ofNat 32 value))
  else if 0x40000 ≤ off ∧ off < 0x80000 then some (s.setPeg ((off - 0x40000) / 4) value)
  else match off with
    | 0x90 => some (s.writeFeatctl p (bits value 0 1 = 1))
    | 0xA0 => some (s.writeReset p value)
    | 0xA4 => some (s.writeDormer p (bits value 0 2))
    | 0x10000 => some (s.writeAperture p value)
    | 0x10018 => some (s.writeImgctl p (bits value 0 1 = 1) (bits value 1 1 = 1))
    | 0x30000 => some (s.writeRing p off value (s.flag Reg.evtCtlEn) false)
    | 0x30004 => some (s.writeRing p off value (s.flag Reg.evtCtlEn) false)
    | 0x30008 => some (s.writeRing p off value (s.flag Reg.evtCtlEn) true)
    | 0x30010 => some (s.writeRead p Reg.evtReadIndex Reg.evtWriteIndex Reg.evtSizeLog2 value)
    | 0x30018 => some (s.writeEvtCtl (bits value 0 1 = 1) (bits value 1 1 = 1))
    | 0x30020 => some (s.writeRing p off value (s.flag Reg.evtCtlCen) false)
    | 0x30024 => some (s.writeRing p off value (s.flag Reg.evtCtlCen) false)
    | 0x30028 => some (s.writeRing p off value (s.flag Reg.evtCtlCen) true)
    | 0x30030 => some (s.writeRead p Reg.evtCreadIndex Reg.evtCwriteIndex Reg.evtCsizeLog2 value)
    | 0x180004 => some (s.writeSvc p (bits value 0 4) (bits value 24 8))
    | 0x180044 => some (s.writeFwctl (bits value 0 1 = 1) (bits value 1 1 = 1))
    | _ => none

/-- The die whose UND_GROUP (`which` 0) or UND_COMMIT (`which` 4) an offset is. -/
def undDie (which off : Nat) : Option Nat :=
  if 0x1000000 ≤ off ∧ off < 0x2800000 ∧ off % 0x100000 = 0xC0000 + which then some ((off - 0x1000000) / 0x100000)
  else none

/-- The effect of a 32-bit write on a populated register. -/
def State.writeOne (s : State) (p : Path) (off value : Nat) : State :=
  match s.writeSpecial p off value with
  | some s => s
  | none =>
    match RegMap.arbBlock off with
    | some blk => s.writeArb p blk (off - blk) value
    | none =>
      match undDie 0 off, undDie 4 off with
      | some die, _ => s.writeUndGroup p die value
      | none, some die =>
        if bits value 0 1 = 1 then s.writeUndCommit p die
        else if s.expert then s else s.accessEvent p 0x0A off
      | none, none => s.writeCode p off value 0 []

/-- A 32-bit write at an aligned offset (01 R29, R30). -/
def State.write32 (s : State) (p : Path) (off value : Nat) : State :=
  s.access p off fun s => s.writeOne p off (value % 2 ^ 32)

/-- A write of `width` bytes: malformed unless it is 4 or 8 bytes wide and aligned to its width; an 8-byte write
writes the lower half, then the upper half (00 R5, R6). -/
def State.writeN (s : State) (p : Path) (off width value : Nat) : State :=
  if width = 4 ∧ off % 4 = 0 then s.write32 p off value
  else if width = 8 ∧ off % 8 = 0 then (s.write32 p off value).write32 p (off + 4) (value / 2 ^ 32)
  else if s.reach p then s.accessEvent p 0x07 off
  else s

/-- Writes of the two paths in one cycle bring both LOAD and UNLOAD to KP_IMGCTL (16 R451). -/
def State.imgctlClash (s : State) (off width : Nat) (host bus : BitVec 64) : Bool :=
  let has (k : Nat) : Bool := (s.reach .host && decide (bits host.toNat k 1 = 1)) || (s.reach .bus && decide (bits bus.toNat k 1 = 1))
  decide (off = Reg.kpImgctlLoad.off ∧ (width = 4 ∨ width = 8)) && has 0 && has 1

/-- Neither is taken. -/
def State.imgctlNeither (s : State) : State :=
  let p : Path := if s.reach .host then .host else .bus
  s.access p Reg.kpImgctlLoad.off fun s => s.accessEvent p 0x07 Reg.kpImgctlLoad.off

/-- The writes of the two paths in one cycle: BAR0's comes first (19 R501). -/
def State.writeBoth (s : State) (off width : Nat) (host bus : BitVec 64) : State :=
  if s.imgctlClash off width host bus then s.imgctlNeither
  else (s.writeN .host off width host.toNat).writeN .bus off width bus.toNat

/-- REGISTER_WRITE (00 R5 to R9, R11, 01 R29, R30): of the writes of both paths in one cycle, BAR0's comes first (19
R501). -/
def execRegisterWrite (p : Path) (off width : Nat) (value : RegValue) (s : State) :
    Host.Outcome State Fault Refusal :=
  .next (match value.other, p with
    | none, _ => s.writeN p off width value.value.toNat
    | some v, .host => s.writeBoth off width value.value v
    | some v, .bus => s.writeBoth off width v value.value)

/-- REGISTER_READ (01 R29, 00 R5, R6): of a read and a write of the two paths in one cycle, BAR0's comes first (19
R501). -/
def execRegisterRead (p : Path) (off : Nat) (r : RegRead) (s : State) : Host.Outcome State Fault Refusal :=
  .next (match r.other, p with
    | none, _ => s.readInto p off r.width
    | some v, .host => (s.readInto .host off r.width).writeN .bus off r.width v.toNat
    | some v, .bus => (s.writeN .host off r.width v.toNat).readInto .bus off r.width)

/-! ### The management bus -/

/-- The access pointer moves on by 4 (19 R499). -/
def State.advancePointer (s : State) : State :=
  { s with mgmt := { s.mgmt with pointer := (s.mgmt.pointer + 4) % 2 ^ 28 } }

/-- A bus command is carried out while the standby rails are up, and answered with a NACK alone when its PEC byte is
wrong (19 R498, R500). -/
def State.busCommand (s : State) (pecOk : Bool) (act : State → State) : State :=
  if !s.powered 31 then s else if pecOk then act s else { s with resp := .nack }

/-- SET_ACCESS_POINTER (19 R499, R500). -/
def execSetAccessPointer (offset : Nat) (pecOk : Bool) (s : State) : Host.Outcome State Fault Refusal :=
  .next (s.busCommand pecOk fun s => { s with mgmt := { s.mgmt with pointer := offset % 2 ^ 28 } })

/-- READ_AT_POINTER (19 R499, R500). -/
def execReadAtPointer (pecOk : Bool) (s : State) : Host.Outcome State Fault Refusal :=
  .next (s.busCommand pecOk fun s => (s.readInto .bus s.mgmt.pointer 4).advancePointer)

/-- WRITE_AT_POINTER (19 R499, R500). -/
def execWriteAtPointer (value : Word) (pecOk : Bool) (s : State) : Host.Outcome State Fault Refusal :=
  .next (s.busCommand pecOk fun s => (s.writeN .bus s.mgmt.pointer 4 value.toNat).advancePointer)

/-- ALERT_N is low (19 R502). -/
def State.alertLow (s : State) : Bool :=
  decide ((s.reg Reg.flAlertPwr.off).toNat % 2 ^ 7 &&& s.fld Reg.flAlertenEn ≠ 0)

/-- ALERT_RESPONSE (19 R498): both targets answer with their own address while ALERT_N is low, the first on the management
bus and the second on PMBus, which have pins of their own (R495; DESIGN CHOICE, log entry 145). -/
def execAlertResponse (s : State) : Host.Outcome State Fault Refusal :=
  .next
    (if s.powered 31 then { s with resp := if s.alertLow then .bytes [0x58, 0x59] else .none } else s)

/-- BUS_CLOCK_TIMEOUT (19 R498): a target releases the bus; no register or store changes. -/
def execBusClockTimeout (_target : Nat) (s : State) : Host.Outcome State Fault Refusal := .next s

end Sys2Proof.Machine
end

