-- ==== Sys2Proof/Machine/Truss.lean ====
section
/-! DEFINITION. The start of an array pass (05 R119 to R129, R135, R136, R143): which passes a running task
makes, the conditions under which one starts, and the stationary bank, scales and accumulators that it brings. -/

namespace Sys2Proof.Machine

/-! ### The passes of a task -/

/-- What the next pass of a running task is: operand class, logical columns, Tally64, the K-tiles of its output tile,
and the output rows that it streams (05 R120 to R124). -/
structure PassKind where
  cls    : Nat
  l      : Nat
  tally  : Bool
  ktiles : Nat
  rows   : Nat
deriving DecidableEq, Repr

/-- Array rows of a pass in a half, or the full array (05 R136). -/
def passDepth (half : Nat) : Nat := if half = 2 then 128 else 64

/-- Class of a pair of formats by its columns (05 R120, R123). -/
def classOf (l : Nat) : Nat := if l = 1 then 0 else if l = 2 then 1 else 2

/-- An element-wise step: its 128 elements a row go through the diagonal cells, and it is whole (05 R143). -/
def elemKind (rows : Nat) : PassKind := { cls := 3, l := 1, tally := false, ktiles := 1, rows := rows }

/-- The extent over which a GEMM or CONV sums. -/
def sumExtent (d : List Byte) : Nat := if dOp d = opGemm then le d 94 3 else (windowOf d).depth

/-- M and N of a GEMM, or of one sample and group of a CONV (09 R238). -/
def outShape (d : List Byte) : Nat × Nat := if dOp d = opGemm then (le d 88 3, le d 91 3) else convExtents d

/-- The form of a GEMM or CONV task. -/
def State.taskForm (s : State) (t : Task) : Form :=
  s.formOf t (s.arithOfQueue t.queue) (refAt t.desc 32).fmt (refAt t.desc 40).fmt (outShape t.desc).1 (outShape t.desc).2

/-- The sub-tiles that a bay runs in a task, in order. -/
def State.worksOf (s : State) (o b : PBay) (t : Task) : List Work :=
  (s.works o t).filter fun w => decide (w.tile.bay = b)

/-- The sub-tile that the next pass of a bay belongs to: it runs the K-tiles of each in turn (09 R239). -/
def State.workNow (s : State) (o b : PBay) (t : Task) (half begun : Nat) : Option Work :=
  (s.worksOf o b t)[begun / max (ceilDiv (sumExtent t.desc) (passDepth half)) 1]?

/-- The next pass of a GEMM or CONV: whole sub-tiles, the rows beyond the extents too (09 R242); none with K = 0, and
once the bay's sub-tiles are done. -/
def State.tileKind (s : State) (t : Task) (o : PBay) (a : PassArgs) (begun : Nat) : Option PassKind :=
  let d := t.desc
  let ar := s.arithOfQueue t.queue
  let fa := (refAt d 32).fmt
  let fb := (refAt d 40).fmt
  let l := logicalCols fa fb
  let acc := accEntries ar fa fb
  if sumExtent d = 0 then none
  else (s.workNow o a.bay t a.half begun).map fun _ =>
    { cls := classOf l, l := l, tally := decide (acc = 2), ktiles := ceilDiv (sumExtent d) (passDepth a.half)
      rows := (s.taskForm t).rows l acc }

/-- These passes of an ATTN task stream query rows from `first` on; for the others `first` is no row. -/
def stepStreams (x : AttnStep) : Bool := decide (x = .score ∨ x = .dP)

/-- These passes of an ATTN task go on over the blocks or groups of their sums. -/
def stepSums (x : AttnStep) : Bool := decide (x = .dQ ∨ x = .dK ∨ x = .dV)

/-- What a pass of an ATTN task is. -/
def attnPass (a : PassArgs) : AttnPass :=
  { step := a.step, first := a.first, blk := a.blk, rows := if stepStreams a.step || decide (a.step = .final) then a.rows else 0 }

/-- The query groups of the rows that a score or dP pass streams. -/
def Attn.groupsIn (a : Attn) (first rows : Nat) : List Nat :=
  (List.range a.groups).filter fun g => decide (first < 128 * g + 128 ∧ 128 * g < min (first + rows) a.qlen)

/-- The passes of the output tile that a pass belongs to, one for each K-tile in their order (05 R121, 08 R196, R202,
R218): a sum of dQ goes on over the key blocks that run for its group, one of dK or dV over the groups that run for its
block. -/
def Attn.tilePasses (a : Attn) (depth : Nat) (x : AttnPass) : List AttnPass :=
  match x.step with
  | .score => List.replicate (ceilDiv a.dim depth) x
  | .dP => List.replicate (ceilDiv a.dim depth) x
  | .final => [x]
  | .value => List.replicate (128 / depth) x
  | .dQ => ((List.range a.blocks).filter fun k => a.runs x.first k).flatMap fun k =>
      List.replicate (128 / depth) { x with blk := k }
  | _ => ((List.range a.groups).filter fun g => a.runs g x.blk).flatMap fun g =>
      List.replicate (128 / depth) { x with first := g }

/-- Rows of a query group have been streamed through every K-tile of a step with a key block. -/
def Attn.streamed (a : Attn) (depth : Nat) (walk : List AttnPass) (step : AttnStep) (r blk : Nat) : Bool :=
  walk.any fun x => decide (x.step = step ∧ x.blk = blk ∧ x.first ≤ r ∧ r < x.first + x.rows) &&
    decide (ceilDiv a.dim depth ≤ walk.count x)

/-- Every row of a group has. -/
def Attn.groupStreamed (a : Attn) (depth : Nat) (walk : List AttnPass) (step : AttnStep) (g blk : Nat) : Bool :=
  (a.rowsOf g).all fun r => a.streamed depth walk step r blk

/-- The value pass of a group and a block has run. -/
def valued (depth : Nat) (walk : List AttnPass) (g blk : Nat) : Bool :=
  decide (128 / depth ≤ walk.count { step := .value, first := g, blk := blk, rows := 0 })

/-- A query group and a key block of the task that runs. -/
def Attn.pairRuns (a : Attn) (g k : Nat) : Bool := decide (g < a.groups ∧ k < a.blocks) && a.runs g k

/-- An output tile of an ATTN task may begin (08 R195, R200, R218): every pair of group and block that it takes runs; it
has not been made; the stages that its operands come from are; and the key blocks of a group go through each stage in
ascending order. -/
def Attn.mayBegin (a : Attn) (depth : Nat) (walk : List AttnPass) (x : AttnPass) : Bool :=
  let before (g : Nat) : List Nat := (List.range x.blk).filter fun k => a.runs g k
  match x.step with
  | .final =>
    decide (128 * x.first < a.qlen * a.dim) && (walk.all fun y => decide (y.step ≠ .final ∨ x.first + x.rows ≤ y.first ∨
      y.first + y.rows ≤ x.first)) &&
    (a.groupsIn (128 * x.first / max a.dim 1)
        ((128 * (x.first + x.rows) - 1) / max a.dim 1 + 1 - 128 * x.first / max a.dim 1)).all fun g =>
      (List.range a.blocks).all fun k => !a.runs g k || valued depth walk g k
  | .value => a.pairRuns x.first x.blk && a.groupStreamed depth walk .score x.first x.blk && !walk.contains x &&
      (before x.first).all fun k => valued depth walk x.first k
  | .dQ => a.pairRuns x.first x.blk && a.groupStreamed depth walk .score x.first x.blk &&
      a.groupStreamed depth walk .dP x.first x.blk && !walk.contains x
  | .dK => a.pairRuns x.first x.blk && a.groupStreamed depth walk .score x.first x.blk &&
      a.groupStreamed depth walk .dP x.first x.blk && !walk.contains x
  | .dV => a.pairRuns x.first x.blk && a.groupStreamed depth walk .score x.first x.blk && !walk.contains x
  | _ =>
    let rows := (List.range x.rows).map fun i => x.first + i
    decide (x.first < a.qlen) && ((a.groupsIn x.first x.rows).all fun g => a.pairRuns g x.blk) &&
      (walk.all fun y => decide (y.step ≠ x.step ∨ y.blk ≠ x.blk ∨ x.first + x.rows ≤ y.first ∨ y.first + y.rows ≤ x.first)) &&
      rows.all fun r => decide (a.qlen ≤ r) || (before (r / 128)).all fun k => a.streamed depth walk x.step r k

/-- The pass is the one that comes next on its half: of the output tile that has begun, its next K-tile; else the first
of a tile that may begin, or of dQ, dK and dV one of which every later part may follow in its turn. -/
def Attn.due (a : Attn) (depth : Nat) (h : TrussHalf) (x : AttnPass) : Bool :=
  decide ((a.tilePasses depth x)[h.ktile]? = some x) &&
    if h.ktile = 0 then a.mayBegin depth h.walk x
    else decide ((a.tilePasses depth x)[h.ktile - 1]? = h.walk.getLast?) &&
      (decide (h.walk.getLast? = some x) || a.mayBegin depth h.walk x)

/-- An ATTN task makes the step: forward and backward tasks have their own, and the element-wise step is that of FINAL 0
on the whole array (05 R144, 08 R195, R206, R218). -/
def attnMakes (d : List Byte) (half : Nat) (step : AttnStep) : Bool :=
  let back := decide (dbits d 108 0 1 = 1)
  match step with
  | .score => true
  | .value => !back
  | .final => !back && decide (dbits d 108 1 1 = 0 ∧ dbits d 108 4 1 = 0 ∧ half = 2)
  | _ => back

/-- The next pass of an ATTN task on a half, where it is due (08 R195, R196, R200, R202, R218). Its accumulators are FP32
whatever TALLY says (06 R146). Score and dP passes sum over the head dimension for the rows that the firmware streams;
the others sum over the 128 keys or queries of a block or group for each head-dimension position, and those of dQ, dK
and dV go on over the blocks or groups that run. The operands of the backward passes are placed as those of the forward
ones (DESIGN CHOICE, log entry 22). -/
def attnKind (t : Task) (a : PassArgs) (h : TrussHalf) : Option PassKind :=
  let x := attnOf t.desc
  let depth := passDepth a.half
  let ktiles := (x.tilePasses depth (attnPass a)).length
  if (attnMakes t.desc a.half a.step && x.due depth h (attnPass a)) = false then none
  else match a.step with
    | .score => some { cls := 0, l := 1, tally := false, ktiles := ktiles, rows := a.rows }
    | .dP =>
      let l := logicalCols (bwdDO t.bwd).fmt x.kvfmt
      some { cls := classOf l, l := l, tally := false, ktiles := ktiles, rows := a.rows }
    | .final => some (elemKind a.rows)
    | _ => some { cls := 0, l := 1, tally := false, ktiles := ktiles, rows := x.dim }

/-- The next pass of a task; none for a task that never uses the array: on a STRICT queue, a GEMM with K = 0, an ELEM
without TRUSS, or any other opcode (05 R122, R124, R143, 08 R196, R206, 09 R234). -/
def State.passKind (s : State) (t : Task) (o : PBay) (a : PassArgs) (h : TrussHalf) : Option PassKind :=
  let d := t.desc
  if (s.arithOfQueue t.queue).strict then none
  else if dOp d = opGemm ∨ dOp d = opConv then s.tileKind t o a h.begun
  else if dOp d = opAttn then attnKind t a h
  else if dOp d = opElem ∧ dbits d 69 2 1 = 1 ∧ a.half = 2 then some (elemKind a.rows)
  else none

/-- Output rows that a pass streams at most: the entries of an accumulator file (05 R121, R136); an element-wise
step uses none. -/
def PassKind.maxRows (k : PassKind) (half : Nat) : Option Nat :=
  if k.cls = 3 then none else some ((if half = 2 then 512 else 256) / (k.l * (if k.tally then 2 else 1)))

/-! ### What a pass brings -/

/-- The stationary operand, the stationary block scales and the accumulators of a pass, and the gutter entry of its
first output row. -/
structure Load where
  bank   : List (List Nat)
  scales : List (List Nat)
  sums   : List (List Nat)
  entry  : Nat × Nat
  /-- The outputs that its entries take to the Lath, of a pass that leaves scores or partials there (08 R195, R202). -/
  drains : List OutWrite := []
deriving DecidableEq, Repr

/-- The 16 bits of a cell: the codes of its logical columns, the lower column in the lower bits; a code narrower than its
place, a 6-bit code widened to 8 bits among them, has zeros above it (05 R120; DESIGN CHOICE, log entry 22). -/
def cellOf (l : Nat) (codes : List Nat) : Nat := (codes.zipIdx.map fun (c, q) => c * 2 ^ (16 / max l 1 * q)).sum

/-- A bank by the code of a K position and a logical column. -/
def bankOf16 (depth l : Nat) (code : Nat → Nat → Nat) : List (List Nat) :=
  (List.range depth).map fun i => (List.range 128).map fun j =>
    cellOf l ((List.range l).map fun q => code i (j * l + q))

/-- The stationary operand of a GEMM or CONV, and a logical column of its sub-tile as a row of it (07 R177). -/
def stationary (d : List Byte) (w : Work) (col : Nat) : Ref × Nat :=
  if dOp d = opGemm then (refScaled d 40 72, w.tile.col + col)
  else (convWeights d, w.group * (convExtents d).2 + w.tile.col + col)

/-- The stationary bank of a K-tile, +0 beyond the extents (05 R119, R120, 09 R242). -/
def State.bankOfTile (s : State) (d : List Byte) (w : Work) (depth kt : Nat) : List (List Nat) :=
  bankOf16 depth w.tile.l fun i c =>
    let (r, row) := stationary d w c
    if kt * depth + i < sumExtent d ∧ c < w.tile.cols then s.code w.tile.bay r (sumExtent d) row (kt * depth + i) else 0

/-- The stationary block scales of a K-tile by slate (05 R120). -/
def State.scalesOfTile (s : State) (d : List Byte) (w : Work) (depth kt : Nat) : List (List Nat) :=
  (List.range (depth / 32)).map fun q =>
    if kt * depth + 32 * q < sumExtent d then
      (List.range w.tile.cols).filterMap fun c =>
        let (r, row) := stationary d w c
        if isMx r.fmt then some (s.scaleOf w.tile.bay r (sumExtent d) row (kt * depth + 32 * q)) else none
    else []

/-- The accumulator of an output row and column of a sub-tile after `k` K positions. -/
def State.accAt (s : State) (ar : Arith) (d : List Byte) (w : Work) (k row col : Nat) : Acc64 :=
  if dOp d = opGemm then (s.gemmAcc w.tile.bay ar d row col k).1
  else
    let (_, oh, ow) := outExtents d
    (s.convAcc w.tile.bay ar d w.sample (w.group * (convExtents d).2 + col) (row / (oh * ow)) (row / ow % max oh 1)
      (row % max ow 1) k).1

/-- The code that the file holds of an accumulator. -/
def Acc64.code (ar : Arith) : Acc64 → Nat
  | .float v => (convertFast (accCode ar) (accFmt ar) true v).1
  | .int x => toTwos 32 x

/-- The accumulators after `k` K positions: by output row, its logical columns; those beyond the extents are not held
(05 R121; log entry 22). -/
def State.fileOfTile (s : State) (ar : Arith) (d : List Byte) (w : Work) (k : Nat) : List (List Nat) :=
  (List.range w.tile.rows).map fun i => (List.range w.tile.cols).map fun j =>
    (s.accAt ar d w k (w.tile.row + i) (w.tile.col + j)).code ar

/-- What a pass of a GEMM or CONV brings. -/
def State.tileLoad (s : State) (t : Task) (w : Work) (depth kt : Nat) : Load :=
  let d := t.desc
  { bank := s.bankOfTile d w depth kt, scales := s.scalesOfTile d w depth kt
    sums := s.fileOfTile (s.arithOfQueue t.queue) d w (min (sumExtent d) ((kt + 1) * depth))
    entry := (if dOp d = opGemm then w.tile.row else w.row d 0, w.tile.col) }

/-- The gutter entries of what a pass leaves in the Lath for the Purlin unit: the passes of a bay have each their own key
(`backKey` gives the even ones). -/
def drainKey (num : Nat) : Nat := 2 * num + 1

/-- The FP32 results of a pass on their way to the Lath, whose accumulators at `l` logical columns a physical one are
`sums`; `at_` numbers the places of 4 bytes by output row and column. What lies beyond the Lath is not written (08 R195,
R202; DESIGN CHOICE, log entry 131). -/
def drained (p : PassArgs) (l : Nat) (e : Nat × Nat) (at_ : Nat → Nat → Nat) (sums : List (List Nat)) : List OutWrite :=
  sums.zipIdx.flatMap fun (row, m) => row.zipIdx.filterMap fun (code, n) =>
    if lathSize < p.place + 4 * at_ m n + 4 then none
    else some { bay := p.bay, gutters := [n / max l 1], entry := (e.1 + m, e.2), space := .lath p.bay,
                addr := p.place + 4 * at_ m n, data := (toLe 4 code).map some }

/-- A pass whose stationary operand is a block of a cache, with its scales, and whose streamed rows are queries or rows
of dO (08 R196, R197, R218). Its FP32 results are drained to the Lath, 128 keys to a row. -/
def State.keyLoad (s : State) (ar : Arith) (a : Attn) (page : Nat) (src : Ref) (l depth kt num : Nat)
    (p : PassArgs) : Load :=
  let keys := a.keysOf p.blk
  let rows := (List.range p.rows).map fun i => p.first + i
  let sums := rows.map fun r => if a.qlen ≤ r then [] else
    (List.range keys.length).map fun c =>
      keyOf (s.keyDotTo ar a.kvfmt a.dim (min (a.dim / 32) ((kt + 1) * depth / 32)) (s.rowValues p.bay src a.dim r) page c).1
  { bank := bankOf16 depth l fun i c =>
      if kt * depth + i < a.dim ∧ c < keys.length then s.kvCode a.kvfmt a.dim page c (kt * depth + i) else 0
    scales := (List.range (depth / 32)).map fun q =>
      if cacheForm a.kvfmt && decide (kt * depth + 32 * q < a.dim) then
        (List.range keys.length).map fun c => s.kvScale a.kvfmt a.dim page c (kt * depth / 32 + q)
      else []
    sums := sums
    entry := (0, drainKey num)
    drains := drained p l (0, drainKey num) (fun m n => 128 * m + n) sums }

/-- A pass whose stationary operand is a matrix of BF16 values by K position and column, with what it has summed by
head-dimension position and column (08 R202, R218). -/
def valueLoad (depth kt : Nat) (cells : List (List Val)) (sums : List (List Val)) (entry : Nat × Nat) : Load :=
  let at_ (i c : Nat) : Nat := match (cells.getD i [])[c]? with
    | some v => (convertFast fBF16 bf16 true v).1
    | none => 0
  { bank := bankOf16 depth 1 fun i c => at_ (kt * depth + i) c
    scales := [], entry := entry
    sums := (List.range (sums.headD []).length).map fun i => sums.map fun x => keyOf (x.getD i Val.zero) }
where
  /-- BF16, in which the stationary values stand. -/
  bf16 : FFmt := (floatOf fBF16).getD fp32

/-- Rows as columns. -/
def transpose (n : Nat) (rows : List (List Val)) : List (List Val) :=
  (List.range n).map fun j => rows.map fun r => r.getD j Val.zero

/-- The value pass of a group and a block: the rebased exponentials of each query row by key. The partial is written to
the Lath in query-major order (08 R202). -/
def State.valueOf (s : State) (ar : Arith) (a : Attn) (d : List Byte) (depth kt num : Nat) (p : PassArgs) : Load :=
  let keys := a.keysOf p.blk
  let ps := (a.rowsOf p.first).map fun r =>
    let ks := s.blockExps ar a (s.rowValues p.bay (refAt d 32) a.dim r) r p.blk
    match blockExp (ks.map KeyExp.exp_) with
    | none => keys.map fun _ => Val.zero
    | some e => (rebase ar e ks).1
  let n := min keys.length ((kt + 1) * depth)
  let x := valueLoad depth kt (transpose keys.length ps)
    (ps.map fun x => (s.valuePass ar a (x.take n) (a.vpage p.blk) (keys.take n)).1) (0, drainKey num)
  { x with drains := drained p 1 x.entry (fun m n => a.dim * n + m) x.sums }

/-- The tiles of a backward task up to a group and block, in the order of its sums, the last one with its first `n` K
positions: keys for dQ, queries for dK and dV (08 R218). -/
def tilesTo (tiles : List Tile) (p : PassArgs) (n : Nat) : List Tile :=
  (tiles.filter fun t => decide (t.group ≤ p.first ∧ t.blk ≤ p.blk)).map fun t =>
    if t.group = p.first ∧ t.blk = p.blk then
      (if p.step = .dQ then { t with cells := t.cells.map fun r => r.take n } else { t with cells := t.cells.take n })
    else t

/-- The dQ, dK or dV pass of a group and a block, K-tile `kt` of its sum (08 R218). -/
def State.backOf (s : State) (ar : Arith) (a : Attn) (d w : List Byte) (depth kt : Nat) (p : PassArgs) : Load :=
  let kt := kt % (128 / depth)
  let tiles := (s.backTiles p.bay ar a d w).1
  let cells := ((tiles.find? fun t => decide (t.group = p.first ∧ t.blk = p.blk)).map Tile.cells).getD []
  let upTo := tilesTo tiles p ((kt + 1) * depth)
  let keys := a.keysOf p.blk
  match p.step with
  | .dQ => valueLoad depth kt (transpose keys.length (cells.map fun r => r.map Prod.snd))
      ((a.rowsOf p.first).map fun r => (s.dqRow ar a upTo r).1) (0, backKey 0 p.first)
  | .dK => valueLoad depth kt (cells.map fun r => r.map Prod.snd)
      (keys.map fun j => (s.dkvRow p.bay ar a upTo false (refAt d 32) j).1) (0, backKey 1 p.blk)
  | _ => valueLoad depth kt (cells.map fun r => r.map Prod.fst)
      (keys.map fun j => (s.dkvRow p.bay ar a upTo true (bwdDO w) j).1) (0, backKey 2 p.blk)

/-- What an element-wise step brings by the broadcast path: for each row of 128 elements that it takes, the second and
third operands, the third in the upper half of each word (05 R143; the words' layout is a DESIGN CHOICE, log entry
22). -/
def State.elemLoad (s : State) (b : PBay) (d : List Byte) (p : PassArgs) : Load :=
  let len := max (le d 76 4) 1
  let code (o k : Nat) : Nat :=
    if le d 72 4 * le d 76 4 ≤ k then 0 else s.code b (refAt d o) len (if k / len < elemRows d o then k / len else 0) (k % len)
  { bank := (List.range p.rows).map fun m => (List.range 128).map fun j =>
      let k := 128 * (p.first + m) + j
      (if elemUsesY (le d 68 1) then code 40 k else 0) + (if elemUsesZ (le d 68 1) then code 48 k * 2 ^ 16 else 0)
    scales := [], sums := [], entry := (p.first, 0) }
where
  /-- Rows of an operand: one that is broadcast has one (09 R253). -/
  elemRows (d : List Byte) (o : Nat) : Nat := if o = 40 ∧ dbits d 69 0 1 = 1 ∨ o = 48 ∧ dbits d 69 1 1 = 1 then 1 else le d 72 4

/-- What the element-wise step of an ATTN task brings: the reciprocal of each element's row (08 R206). -/
def State.finalLoad (s : State) (ar : Arith) (a : Attn) (d : List Byte) (p : PassArgs) : Load :=
  let code (k : Nat) : Nat :=
    if a.qlen * a.dim ≤ k then 0 else
      let st := (s.rowForward p.bay ar a d (k / max a.dim 1)).1
      (sfuBuiltin ar.ovf 0x04 fBF16 (st.sum.mul (pow2 (-(st.g.getD 0))))).1
  { bank := (List.range p.rows).map fun m => (List.range 128).map fun j => code (128 * (p.first + m) + j)
    scales := [], sums := [], entry := (p.first, 0) }

/-- What the next pass of a running task brings, K-tile `kt` of its output tile. -/
def State.loadOf (s : State) (r : Running) (o : PBay) (p : PassArgs) (k : PassKind) (begun kt : Nat) : Load :=
  let t := r.task
  let d := t.desc
  let depth := passDepth p.half
  let a := pagedAttn d r.pages
  let ar := attnArith (s.arithOfQueue t.queue).ovf
  let num := (s.bay p.bay).truss.count
  if dOp d = opGemm ∨ dOp d = opConv then
    match s.workNow o p.bay t p.half begun with
    | some w => s.tileLoad t w depth kt
    | none => { bank := [], scales := [], sums := [], entry := (0, 0) }
  else if dOp d = opAttn then
    match p.step with
    | .score => s.keyLoad ar a (a.kpage p.blk) (refAt d 32) k.l depth kt num p
    | .dP => s.keyLoad ar a (a.vpage p.blk) (bwdDO t.bwd) k.l depth kt num p
    | .value => s.valueOf ar a d depth kt num p
    | .final => s.finalLoad ar a d p
    | _ => s.backOf ar a d t.bwd depth kt p
  else s.elemLoad p.bay d p

/-- The fetch engine reads the entry of an array row and an output row from a store, and does not form it itself as +0
or padding (05, 07 R180, 09 R242). -/
def State.fetches (s : State) (t : Task) (o : PBay) (p : PassArgs) (begun kt i m : Nat) : Bool :=
  let d := t.desc
  let k := (if dOp d = opAttn ∧ stepSums p.step = true then kt % (128 / passDepth p.half) else kt) * passDepth p.half + i
  if dOp d = opGemm ∨ dOp d = opConv then
    match s.workNow o p.bay t p.half begun with
    | none => false
    | some w =>
      decide (k < sumExtent d ∧ m < w.tile.rows) && (decide (dOp d = opGemm) ||
        (let (_, oh, ow) := outExtents d
         let row := w.tile.row + m
         (s.tapCode p.bay (refAt d 32) (windowOf d) w.sample w.group (row / (oh * ow)) (row / ow % max oh 1)
           (row % max ow 1) k).isSome))
  else if dOp d = opAttn then
    match p.step with
    | .score => decide (k < headDim d ∧ p.first + m < (attnOf d).qlen)
    | .dP => decide (k < headDim d ∧ p.first + m < (attnOf d).qlen)
    | .final => true
    | .dQ => decide (k < ((attnOf d).keysOf p.blk).length)
    | .value => decide (k < ((attnOf d).keysOf p.blk).length)
    | _ => decide (k < ((attnOf d).rowsOf p.first).length)
  else true

/-! ### The conditions of the start -/

/-- Two sub-tiles belong to one tile of a form (09 R235, R239). -/
def sameTile (f : Form) (l a : Nat) (x y : Work) : Bool :=
  decide (x.sample = y.sample ∧ x.group = y.group ∧ x.tile.row / max (f.m l a) 1 = y.tile.row / max (f.m l a) 1 ∧
    x.tile.col / max (f.n l) 1 = y.tile.col / max (f.n l) 1)

/-- K-tile t starts on a bay only after every bay of the form has started K-tile t − 1 of the same tile (09 R240). A
bay whose sub-tile of it has no valid output runs nothing in it. K-tile 0 of a later tile waits until each has begun all
its passes of the tiles before it: the rule names K-tiles of one tile only (DESIGN CHOICE, log entry 133). -/
def State.lockStep (s : State) (b o : PBay) (t : Task) (half : Nat) (k : PassKind) : Bool :=
  let d := t.desc
  let mine := ((s.bay b).truss.half half).begun
  if dOp d ≠ opGemm ∧ dOp d ≠ opConv then true
  else
    let ar := s.arithOfQueue t.queue
    let acc := accEntries ar (refAt d 32).fmt (refAt d 40).fmt
    match s.workNow o b t half mine with
    | none => true
    | some w => (s.groupOf t).all fun x =>
      match (s.worksOf o x t).findIdx? fun y => sameTile (s.taskForm t) k.l acc w y with
      | none => true
      | some i => decide (i * k.ktiles + mine % max k.ktiles 1 ≤ ((s.bay x).truss.half half).begun)

/-- A pass on which another depends has its last result readable twelve array steps before (05 R124, R135); one that
leaves no result to be read holds nothing back. -/
def Truss.readable (t : Truss) (pace num : Nat) : Bool :=
  match t.ends.find? fun e => e.1 = num with
  | some (_, c) => decide (c + 12 * pace ≤ t.cycle)
  | none => !t.owes num

/-- The conditions of 05 R126 other than a whole shadow bank, in the cycle that the array has reached. Under TALLY
the two cycles after the previous pass, and the twelve of R135, are array steps of the new pass (05 R124; log
entry 108). -/
def Truss.mayStart (t : Truss) (a : PassArgs) (entryReady pace : Nat) : Bool :=
  (match (t.half a.half).passes.getLast? with
   | none => true
   | some p => (match p.left with
     | some c => decide (c + 2 * pace ≤ t.cycle)
     | none => false)) &&
    decide (entryReady ≤ t.cycle) && a.deps.all fun n => t.readable pace n

/-- The shadow bank is whole: the stationary path has written every row in a cycle before (05 R126, R128, R129); an
element-wise step takes its operands as they stream (05 R143). -/
def Truss.bankWhole (t : Truss) (a : PassArgs) (k : PassKind) : Bool :=
  let rows := loadRows (t.half a.half).passes.getLast? a.loadFrom a.held (passDepth a.half)
  decide (k.cls = 3) || (decide (rows.length = passDepth a.half) && rows.all fun c => decide (c < t.cycle))

/-- Cycles until the pass starts: those in which only the shadow bank holds it back are counted (05
BAY_STWAIT). -/
def State.awaitPass (s : State) (a : PassArgs) (k : PassKind) (entryReady pace : Nat) (fuel : Nat) : State :=
  match fuel with
  | 0 => s
  | n + 1 =>
    let t := (s.bay a.bay).truss
    if t.mayStart a entryReady pace && t.bankWhole a k then s
    else
      let s := if t.mayStart a entryReady pace then s.bump (Reg.bayStwaitCount a.bay) 1 else s
      (s.arrayTick a.bay).awaitPass a k entryReady pace n

/-- The greatest of a list and a number. -/
def maxOf (l : List Nat) (n : Nat) : Nat := l.foldl max n

/-- The first cycle, from that which the array has reached, in which the entries and dependences of a pass are ready
when nothing runs. -/
def Truss.firstCycle (t : Truss) (a : PassArgs) (entryReady pace : Nat) : Nat :=
  maxOf ((t.ends.filter fun e => a.deps.contains e.1).map fun e => e.2 + 12 * pace) (max entryReady t.cycle)

/-- An array in which nothing runs is at the cycle of the first thing that its next pass waits for. -/
def State.seekPass (s : State) (a : PassArgs) (entryReady pace : Nat) : State :=
  let v := s.bay a.bay
  if v.truss.idle then
    s.setBay a.bay { v with truss := { v.truss with cycle := v.truss.firstCycle a entryReady pace } }
  else s

/-- The pass that the array takes. -/
def passOf (a : PassArgs) (k : PassKind) (x : Load) (final : Bool) (late : List (Nat × Nat × Nat)) (t : Truss) : Pass :=
  { num := t.count, depth := passDepth a.half, rows := k.rows, l := k.l, pace := if k.tally then 2 else 1, cls := k.cls
    tally := k.tally, final := final, begun := t.cycle, prog := 0, left := none, switches := [], done := none
    late := late, busy := a.busy, entry := x.entry, bank := x.bank, scales := x.scales, sums := x.sums }

/-- The array with a pass more, which `x` names where it is one of an ATTN task. -/
def Truss.take (t : Truss) (half : Nat) (p : Pass) (final : Bool) (x : Option AttnPass) : Truss :=
  let h := t.half half
  { t.setHalf half (TrussHalf.trim { h with
      passes := h.passes ++ [p], ktile := if final then 0 else h.ktile + 1, begun := h.begun + 1
      walk := h.walk ++ x.toList }) with
    count := t.count + 1 }

/-- The outputs that a pass leaves in the Lath stand with its task, on the bay that runs it. -/
def State.addOuts (s : State) (o : PBay) (r : Running) (l : List OutWrite) : State :=
  let v := s.bay o
  s.setBay o { v with running := v.running.map fun x => if x = r then { x with outs := x.outs ++ l } else x }

/-- A pass of a running task enters the array (05 R126). -/
def State.enterPass (s : State) (a : PassArgs) (o : PBay) (r : Running) (k : PassKind) : State :=
  let t := r.task
  let pace := if k.tally then 2 else 1
  let h := (s.bay a.bay).truss.half a.half
  let x := s.loadOf r o a k h.begun h.ktile
  let late := a.late.filter fun e => s.fetches t o a h.begun h.ktile e.1 e.2.1
  let entry := if s.fetches t o a h.begun h.ktile 0 0 then a.entryReady else 0
  let final := decide (h.ktile + 1 = k.ktiles)
  let s := if final then s.addOuts o r x.drains else s
  let s := s.bump (Reg.bayEccCorr a.bay) a.corrected
  let s := s.seekPass a entry pace
  let v := (s.bay a.bay).truss
  let s := s.awaitPass a k entry pace (v.horizon + 2 * v.firstCycle a entry pace + a.loadFrom + a.held.length +
    maxOf a.held 0 + 4 * passDepth a.half)
  let v := s.bay a.bay
  (s.setBay a.bay { v with
    truss := v.truss.take a.half (passOf a k x final late v.truss) final
      (if dOp t.desc = opAttn then some (attnPass a) else none) }).trussWord a.bay

/-- The running task whose passes a half of a bay makes, with the bay that selected it. -/
def State.passTask (s : State) (b : PBay) (half : Nat) : Option (PBay × Running) :=
  (dieBays b.die).findSome? fun o =>
    ((s.bay o).running.find? fun r =>
      decide (r.half = half) && (decide (o = b) || (s.groupOf r.task).contains b)).map fun r => (o, r)

/-- PASS_START (05 R126): the pass that a running task makes next on a half starts, in the first cycle that meets
its conditions. There is no such pass for a task that does not use the array or has none left, for more output rows
than the accumulator files hold, or before its partners' K-tile. -/
def execPassStart (a : PassArgs) (s : State) : Host.Outcome State Fault Refusal :=
  .next (match s.passTask a.bay a.half with
    | none => s
    | some (o, r) =>
      match s.passKind r.task o a ((s.bay a.bay).truss.half a.half) with
      | none => s
      | some k =>
        if k.rows = 0 ∨ ((k.maxRows a.half).any fun n => n < k.rows) = true ∨ 2 < a.half ∨
            s.lockStep a.bay o r.task a.half k = false then s
        else s.enterPass a o r k)

end Sys2Proof.Machine
end

