-- ==== Sys2Proof/Machine/Dispatch.lean ====
section
/-! DEFINITION. One arm per command: the meaning it calls. -/

namespace Sys2Proof.Machine

def exec (i : Instr) (s : State) : Host.Outcome State Fault Refusal :=
  match i with
  | .registerWrite p off width value => Sys2Proof.Machine.execRegisterWrite p off width value s
  | .counterFieldWrite p off value added => Sys2Proof.Machine.execCounterFieldWrite p off value added s
  | .w1cClear p off value hwSet => Sys2Proof.Machine.execW1cClear p off value hwSet s
  | .courseLoRead p wide => Sys2Proof.Machine.execCourseLoRead p wide s
  | .beaconOfsLoRead p wide => Sys2Proof.Machine.execBeaconOfsLoRead p wide s
  | .clockSpreadWrite p value => Sys2Proof.Machine.execClockSpreadWrite p value s
  | .apertureWrite p value => Sys2Proof.Machine.execApertureWrite p value s
  | .bar2Read off len => Sys2Proof.Machine.execBar2Read off len s
  | .bar2Write off data => Sys2Proof.Machine.execBar2Write off data s
  | .doorbell off data => Sys2Proof.Machine.execDoorbell off data s
  | .pegCountWrite p peg value ligger => Sys2Proof.Machine.execPegCountWrite p peg value ligger s
  | .evtReadWrite p value => Sys2Proof.Machine.execEvtReadWrite p value s
  | .evtCreadWrite p value => Sys2Proof.Machine.execEvtCreadWrite p value s
  | .evtRingEnable p cen => Sys2Proof.Machine.execEvtRingEnable p cen s
  | .evtRingDisable p cen => Sys2Proof.Machine.execEvtRingDisable p cen s
  | .evtCascadeEnable p en => Sys2Proof.Machine.execEvtCascadeEnable p en s
  | .evtCascadeDisable p en => Sys2Proof.Machine.execEvtCascadeDisable p en s
  | .eventRecord src => Sys2Proof.Machine.execEventRecord src s
  | .eventBufferFlush => Sys2Proof.Machine.execEventBufferFlush s
  | .courseBoundary deviant => Sys2Proof.Machine.execCourseBoundary deviant s
  | .taskOverrunAbort b queue => Sys2Proof.Machine.execTaskOverrunAbort b queue s
  | .gemm b member e => Sys2Proof.Machine.execGemm b member e s
  | .conv r => Sys2Proof.Machine.execConv r s
  | .dwconv r => Sys2Proof.Machine.execDwconv r s
  | .attn r => Sys2Proof.Machine.execAttn r s
  | .elem r => Sys2Proof.Machine.execElem r s
  | .sfu r => Sys2Proof.Machine.execSfu r s
  | .norm r => Sys2Proof.Machine.execNorm r s
  | .pool r => Sys2Proof.Machine.execPool r s
  | .move r => Sys2Proof.Machine.execMove r s
  | .kvappend r => Sys2Proof.Machine.execKvappend r s
  | .allReduce r => Sys2Proof.Machine.execAllReduce r s
  | .reduceScatter r => Sys2Proof.Machine.execReduceScatter r s
  | .allGather r => Sys2Proof.Machine.execAllGather r s
  | .broadcast r => Sys2Proof.Machine.execBroadcast r s
  | .shiftForward r => Sys2Proof.Machine.execShiftForward r s
  | .shiftBackward r => Sys2Proof.Machine.execShiftBackward r s
  | .pegSet b => Sys2Proof.Machine.execPegSet b s
  | .pegAdd b => Sys2Proof.Machine.execPegAdd b s
  | .pegSub b => Sys2Proof.Machine.execPegSub b s
  | .watchArrive queue => Sys2Proof.Machine.execWatchArrive queue s
  | .tieArrive b => Sys2Proof.Machine.execTieArrive b s
  | .tieReset b => Sys2Proof.Machine.execTieReset b s
  | .mediaDecode b => Sys2Proof.Machine.execMediaDecode b s
  | .mediaEncode b => Sys2Proof.Machine.execMediaEncode b s
  | .mediaPreprocess b => Sys2Proof.Machine.execMediaPreprocess b s
  | .taskComplete b queue cycles past => Sys2Proof.Machine.execTaskComplete b queue cycles past s
  | .passStart a => Sys2Proof.Machine.execPassStart a s
  | .gutterWrite b port asks => Sys2Proof.Machine.execGutterWrite b port asks s
  | .trussFault b u => Sys2Proof.Machine.execTrussFault b u s
  | .sparePrepared die => Sys2Proof.Machine.execSparePrepared die s
  | .watchdogExpire b => Sys2Proof.Machine.execWatchdogExpire b s
  | .swapComplete r late => Sys2Proof.Machine.execSwapComplete r late s
  | .beaconReceive port count ridge time => Sys2Proof.Machine.execBeaconReceive port count ridge time s
  | .beaconLock => Sys2Proof.Machine.execBeaconLock s
  | .beaconLost => Sys2Proof.Machine.execBeaconLost s
  | .arbiterGrant blk ofTasks ofUnits => Sys2Proof.Machine.execArbiterGrant blk ofTasks ofUnits s
  | .quotaWindowEnd blk => Sys2Proof.Machine.execQuotaWindowEnd blk s
  | .slotBoundary => Sys2Proof.Machine.execSlotBoundary s
  | .vlyCommit p blk same => Sys2Proof.Machine.execVlyCommit p blk same s
  | .vlyShadowWrite p off value => Sys2Proof.Machine.execVlyShadowWrite p off value s
  | .vlyWaitmaxRead p blk => Sys2Proof.Machine.execVlyWaitmaxRead p blk s
  | .bayWaitmaxRead p b => Sys2Proof.Machine.execBayWaitmaxRead p b s
  | .undGroupWrite p die value => Sys2Proof.Machine.execUndGroupWrite p die value s
  | .undCommit p die same => Sys2Proof.Machine.execUndCommit p die same s
  | .undStatRead p die => Sys2Proof.Machine.execUndStatRead p die s
  | .loftRead die addr sectors corrected bad => Sys2Proof.Machine.execLoftRead die addr sectors corrected bad s
  | .underlayWrite src addr data => Sys2Proof.Machine.execUnderlayWrite src addr data s
  | .underlayDrain stack channel waited => Sys2Proof.Machine.execUnderlayDrain stack channel waited s
  | .stackRead src addr ecc => Sys2Proof.Machine.execStackRead src addr ecc s
  | .refresh stack => Sys2Proof.Machine.execRefresh stack s
  | .refreshRateChange stack degC => Sys2Proof.Machine.execRefreshRateChange stack degC s
  | .jobStart e slot => Sys2Proof.Machine.execJobStart e slot s
  | .pictureComplete gable unit slot => Sys2Proof.Machine.execPictureComplete gable unit slot s
  | .liveDeadline gable kind idx slot => Sys2Proof.Machine.execLiveDeadline gable kind idx slot s
  | .decodeInputRecheck e slot => Sys2Proof.Machine.execDecodeInputRecheck e slot s
  | .encodeRingSpace gable unit slot => Sys2Proof.Machine.execEncodeRingSpace gable unit slot s
  | .laneSpareRequest port lane => Sys2Proof.Machine.execLaneSpareRequest port lane s
  | .flitTransmit port => Sys2Proof.Machine.execFlitTransmit port s
  | .flitReceive port flit own others => Sys2Proof.Machine.execFlitReceive port flit own others s
  | .nakReceive port ack => Sys2Proof.Machine.execNakReceive port ack s
  | .nullFlit port => Sys2Proof.Machine.execNullFlit port s
  | .voidedFlit port seq => Sys2Proof.Machine.execVoidedFlit port seq s
  | .piece port m => Sys2Proof.Machine.execPiece port m s
  | .completion port m => Sys2Proof.Machine.execCompletion port m s
  | .streamWrite port m => Sys2Proof.Machine.execStreamWrite port m s
  | .streamCount port m => Sys2Proof.Machine.execStreamCount port m s
  | .streamRead port m => Sys2Proof.Machine.execStreamRead port m s
  | .eventMessage port m => Sys2Proof.Machine.execEventMessage port m s
  | .transitForward port m => Sys2Proof.Machine.execTransitForward port m s
  | .transitTimeout port m => Sys2Proof.Machine.execTransitTimeout port m s
  | .portDark port cause => Sys2Proof.Machine.execPortDark port cause s
  | .ackTimeout port => Sys2Proof.Machine.execAckTimeout port s
  | .trainingStart port lanes rtt => Sys2Proof.Machine.execTrainingStart port lanes rtt s
  | .identityExchange port peer => Sys2Proof.Machine.execIdentityExchange port peer s
  | .replayTimeout port => Sys2Proof.Machine.execReplayTimeout port s
  | .tagQuarantineEnd port idx => Sys2Proof.Machine.execTagQuarantineEnd port idx s
  | .meshLaneMark die link lane ligger => Sys2Proof.Machine.execMeshLaneMark die link lane ligger s
  | .fatalFault die kind => Sys2Proof.Machine.execFatalFault die kind s
  | .weatheringIntervalEnd r => Sys2Proof.Machine.execWeatheringIntervalEnd r s
  | .bringupStageComplete r => Sys2Proof.Machine.execBringupStageComplete r s
  | .featAccWrite p word reg value => Sys2Proof.Machine.execFeatAccWrite p word reg value s
  | .featureLock p same => Sys2Proof.Machine.execFeatureLock p same s
  | .imageLoad p => Sys2Proof.Machine.execImageLoad p s
  | .imageLoaded => Sys2Proof.Machine.execImageLoaded s
  | .imageUnload p => Sys2Proof.Machine.execImageUnload p s
  | .imageUnloadComplete => Sys2Proof.Machine.execImageUnloadComplete s
  | .powerOn pins resetLow => Sys2Proof.Machine.execPowerOn pins resetLow s
  | .railTimeout f => Sys2Proof.Machine.execRailTimeout f s
  | .underVoltageShutoff => Sys2Proof.Machine.execUnderVoltageShutoff s
  | .overVoltageShutoff => Sys2Proof.Machine.execOverVoltageShutoff s
  | .overPowerShutoff => Sys2Proof.Machine.execOverPowerShutoff s
  | .powerExcursion peak => Sys2Proof.Machine.execPowerExcursion peak s
  | .moduleReset p value => Sys2Proof.Machine.execModuleReset p value s
  | .warmReset p value => Sys2Proof.Machine.execWarmReset p value s
  | .warmResetComplete mesh => Sys2Proof.Machine.execWarmResetComplete mesh s
  | .spanReset p value => Sys2Proof.Machine.execSpanReset p value s
  | .spanResetComplete span => Sys2Proof.Machine.execSpanResetComplete span s
  | .bayReset p value => Sys2Proof.Machine.execBayReset p value s
  | .resetPin lowNs => Sys2Proof.Machine.execResetPin lowNs s
  | .resetShortPulse lowNs => Sys2Proof.Machine.execResetShortPulse lowNs s
  | .dormer1Request p => Sys2Proof.Machine.execDormer1Request p s
  | .dormer2Request p => Sys2Proof.Machine.execDormer2Request p s
  | .dormer3Request p => Sys2Proof.Machine.execDormer3Request p s
  | .dormerExit p => Sys2Proof.Machine.execDormerExit p s
  | .operationDormer3Enter => Sys2Proof.Machine.execOperationDormer3Enter s
  | .operationDormer3Leave => Sys2Proof.Machine.execOperationDormer3Leave s
  | .clearFaults => Sys2Proof.Machine.execClearFaults s
  | .statusWord => Sys2Proof.Machine.execStatusWord s
  | .readVin decivolts => Sys2Proof.Machine.execReadVin decivolts s
  | .readIin milliamps => Sys2Proof.Machine.execReadIin milliamps s
  | .readVout centivolts => Sys2Proof.Machine.execReadVout centivolts s
  | .readTemperature1 degC die => Sys2Proof.Machine.execReadTemperature1 degC die s
  | .readPout watts => Sys2Proof.Machine.execReadPout watts s
  | .readPin watts => Sys2Proof.Machine.execReadPin watts s
  | .pmbusRevision => Sys2Proof.Machine.execPmbusRevision s
  | .flPinRead p watts peak => Sys2Proof.Machine.execFlPinRead p watts peak s
  | .eavCredRead p port => Sys2Proof.Machine.execEavCredRead p port s
  | .setAccessPointer offset pecOk => Sys2Proof.Machine.execSetAccessPointer offset pecOk s
  | .readAtPointer pecOk => Sys2Proof.Machine.execReadAtPointer pecOk s
  | .writeAtPointer value pecOk => Sys2Proof.Machine.execWriteAtPointer value pecOk s
  | .alertResponse => Sys2Proof.Machine.execAlertResponse s
  | .busClockTimeout target => Sys2Proof.Machine.execBusClockTimeout target s
  | .interlockOpen microamps => Sys2Proof.Machine.execInterlockOpen microamps s
  | .interlockClose microamps => Sys2Proof.Machine.execInterlockClose microamps s
  | .laserPresenceOpen unit => Sys2Proof.Machine.execLaserPresenceOpen unit s
  | .laserRelight unit => Sys2Proof.Machine.execLaserRelight unit s
  | .fwInstall p => Sys2Proof.Machine.execFwInstall p s
  | .fwCommit p => Sys2Proof.Machine.execFwCommit p s
  | .svcSet p key => Sys2Proof.Machine.execSvcSet p key s
  | .svcTry p key => Sys2Proof.Machine.execSvcTry p key s
  | .svcTryComplete => Sys2Proof.Machine.execSvcTryComplete s
  | .svcChallenge p key => Sys2Proof.Machine.execSvcChallenge p key s
  | .svcResponse p key => Sys2Proof.Machine.execSvcResponse p key s
  | .svcClose p key => Sys2Proof.Machine.execSvcClose p key s
  | .registerRead p off r => Sys2Proof.Machine.execRegisterRead p off r s
  | .laserPresenceClose unit => Sys2Proof.Machine.execLaserPresenceClose unit s
  | .resetInputRelease => Sys2Proof.Machine.execResetInputRelease s
  | .pcieHotReset => Sys2Proof.Machine.execPcieHotReset s

end Sys2Proof.Machine
end

