-- ==== Sys2Proof/Safety.lean ====
section
/-! DEFINITION. The properties of a state that statements use: the canonical form of the byte stores, when a path
carries an access, and the vocabulary of frames. -/

namespace Sys2Proof.Machine

/-- Module memory, a Lath store or a stream-slot store in canonical form: keys strictly rising, and no byte
listed that an unlisted one reads as. -/
def Memory.wf (m : List Host.Cell) : Bool := Store.wf m unlisted

/-- The Underlays' entries in their form: one entry for a line, and 128 bytes with their mask in each (10 R277,
R278). -/
def Underlay.wf (l : List UEntry) : Bool :=
  (l.all fun e => decide (e.data.length = 128)) && decide ((l.map UEntry.line).Nodup)

/-- Every byte store of the block is in canonical form, and so are the Underlays. -/
structure State.Canonical (s : State) : Prop where
  mem   : Memory.wf s.mem = true
  lath  : Memory.wf s.lath = true
  slots : Memory.wf s.slots = true
  under : Underlay.wf s.under = true

/-- A path carries an access to a register: the path is up, the offset is populated and its die has power (01 R29,
R30, R521). -/
def State.Carries (s : State) (p : Path) (off : Nat) : Prop := s.reach p = true ∧ s.refuses off = none

/-- A register whose word follows from other state (`State.computed`): the course count and the beacon offset with their
latches, the slots' activity, the next interval, the input pins, an arbiter's state and masks, a bay's scheduling state,
an Underlay's occupancy, a port's credits, an engine's and a session's state. -/
def derivedReg (off : Nat) : Bool :=
  decide (off ∈ [0x20000, 0x20004, 0x20008, 0x20014, 0x20018, Reg.wthNextCourses.off, Reg.flGpioIn.off]) ||
  decide (0x10200 ≤ off ∧ off < 0x10400) ||
  (match RegMap.arbBlock off with
   | some blk => decide (off - blk = 0x34 ∨ off - blk = 0x38)
   | none =>
     match RegMap.dieOf off with
     | none => false
     | some die =>
       let o := off % 0x100000
       if die < 24 then decide ((o < 0x90000 ∧ o % 0x10000 = 0xE080) ∨ o = 0xC0008)
       else if die < 28 then decide (o < 0x80000 ∧ o % 0x10000 = 0x18)
       else decide (die < 30 ∧ (o % 0x10000 = 0 ∨ (0x100 ≤ o % 0x10000 ∧ o % 0x10000 < 0x120))))

/-- The stores of bytes are the same, and every byte reads the same: memory with its Underlays and poison, the
Laths, the stream slots. -/
def State.SameBytes (s t : State) : Prop :=
  t.mem = s.mem ∧ t.under = s.under ∧ t.poison = s.poison ∧ t.lath = s.lath ∧ t.slots = s.slots

/-- Every register outside a list of offsets holds the same word. -/
def State.SameRegs (s t : State) (but : List Nat) : Prop := ∀ off, off ∉ but → t.reg off = s.reg off

/-- The record that a source raises next: its next SEQ and the course count (02 R53, R54). -/
def State.nextRec (s : State) (src : Source) (cls num detail : Nat) : EventRec :=
  { src := src, seq := s.seq src, course := s.course.count.toNat, cls := cls, num := num, detail := detail }

/-- A byte of a write that the memory controllers let into the Underlay: inside the map, in no retired page and in no
keep window (01 R23, 10 R273, R291). -/
def State.writable (s : State) (a : Nat) : Bool :=
  decide (a < memLimit) && !s.retired a && (s.keepWindow (a / 128 * 128)).isNone

/-- A completion status is written, when the task asks for one: its flags, the die and the bay, and the cycles,
saturated, stand in the 8 bytes at STATUS, and every other byte of memory reads as it did (09 R226, R227). -/
def State.StatusWritten (s t : State) (b : PBay) (desc : List Byte) (flags cycles : Nat) : Prop :=
  ∀ x, t.peek x =
    if dStatEn desc = true ∧ s.writable x = true ∧ dStatus desc ≤ x ∧ x < dStatus desc + 8 then
      (toLe 8 (flags % 2 ^ 21 + b.die % 32 * 2 ^ 21 + b.pbay % 16 * 2 ^ 26 + min 0xFFFFFFFF cycles * 2 ^ 32)).getD
        (x - dStatus desc) 0
    else s.peek x

/-- The front task `t` of logical bay `l`, on its physical bay `b`, may start and its row runs it: it passes its
checks, reads no stale granule and no poisoned sector (09 R230, 10 R289, 17 R460). `a` is the state in which its
operation is performed: the task has left the selected ones, its stream slot stands in the Lath, and its descriptor and
its inputs have been read. -/
def State.Starts (s : State) (l : Bay) (row : Nat × Nat) (b : PBay) (t : Task) (a : State) : Prop :=
  s.frontTask l row = some (b, t) ∧
  ∃ c, s.readTask b t = (c, .runs, false) ∧ c.staleRead b t = none ∧
    c.noteRuns (srcBay b) (c.taskRuns t.desc t.bwd) = (a, false)

/-- The registers in which a bay counts what its tasks do (03 R90, 04, 06, 08). -/
def countRegs (b : PBay) : List Nat :=
  [(Reg.bayCvt0Sat b).off, (Reg.bayCvt1Flush b).off, (Reg.bayFast0Flush b).off, (Reg.bayFast1Nan b).off,
   (Reg.bayRowst0Clamp b).off, (Reg.bayRowst1Varneg b).off, (Reg.bayAttn0Skip b).off, (Reg.bayAttn1Run b).off]

/-- A task runs with these results: it stands last among the running tasks of the bay `b` that selected it, its outputs
formed and none written, nothing signalled; what it counted shows in the counters of the bays that formed them, the words
corrected in the reads of the bay `x` in its BAY_ECC.CORR, and nothing in any other register; nothing is recorded. -/
def State.RunsWith (a u : State) (b x : PBay) (t : Task) (parts : Parts) (corrected : Nat) : Prop :=
  a.SameBytes u ∧ u.raised = a.raised ∧ (u.bay b).selected = (a.bay b).selected ∧
  (∃ r, (u.bay b).running = (a.bay b).running ++ [r] ∧ r.task = t ∧ r.outs = parts.flatMap (fun p => p.2.outs) ∧
    r.slipped = false ∧ r.waiting = false ∧ r.tags = [] ∧ r.course = a.course.count.toNat) ∧
  (∀ y, bayKey y ≠ bayKey b → u.bay y = a.bay y) ∧
  (∀ off, (∀ p ∈ parts, off ∉ countRegs p.1) → off ≠ (Reg.bayEccCorr x).off → u.reg off = a.reg off) ∧
  (x.wf = true → (∀ p ∈ parts, p.1.wf = true) →
    u.fld (Reg.bayEccCorr x) = min 0xFFFF (a.fld (Reg.bayEccCorr x) + corrected) ∧
    u.fld (Reg.bayEccUncorr x) = a.fld (Reg.bayEccUncorr x)) ∧
  u.queues = a.queues ∧ u.watches = a.watches ∧ u.ports = a.ports ∧ u.course = a.course

/-- A task of bay `b` for which bay `x` met an uncorrectable word of its stores is aborted, to be performed again, and the
bay of the word is faulty: the word is counted and recorded with its index, nothing is written (10 R287, 17 R455,
R461). -/
def State.WordFault (a u : State) (b x : PBay) (t : Task) (word : Nat) : Prop :=
  a.SameBytes u ∧ (u.bay b).running = (a.bay b).running ∧
  (∃ x ∈ (u.bay b).aborted, x.task = t ∧ x.cause = 0) ∧
  (∃ v ∈ u.raised, v.src = srcBay x ∧ v.cls = 0x3 ∧ v.num = 0x03 ∧ v.detail = min word 0xFFFFFF) ∧
  u.fld (Reg.bayEccUncorr x) = min 0xFFFF (a.fld (Reg.bayEccUncorr x) + 1) ∧
  ((a.bay x).faulty = none → a.bayRetired x = false → (u.bay x).faulty.map Prod.fst = some 0 ∧
    u.fld (Reg.bayFaultCause x.die) = 0 ∧ u.fld (Reg.bayFaultPbay x.die) = x.pbay) ∧
  ∀ y, bayKey y ≠ bayKey x → (u.bay y).faulty = (a.bay y).faulty

/-- The port by which the piece `k` of a collective goes in a direction (14 R399; log entry 48). -/
def Coll.way (c : Coll) (s : State) (plus : Bool) (k : Nat) : Option Nat :=
  (s.waysOf c.axis plus)[k % (s.waysOf c.axis plus).length]?

/-- A piece as it waits on a port to be sent. -/
def Coll.waits (c : Coll) (s : State) (plus : Bool) (offset : Nat) (data : List Byte) (tag : Nat) : Wait :=
  { typ := 1, queue := some c.task.queue, bytes := msgBytes (c.piece s plus offset data tag), via := none }

/-- A collective may send `n` pieces: there is a way in each direction, and as many tags are free on each of its ports. -/
def Coll.MaySend (c : Coll) (s : State) (n : Nat) : Prop :=
  ∀ plus, s.waysOf c.axis plus ≠ [] ∧ ∀ e port, (s.waysOf c.axis plus)[e]? = some port →
    n ≤ ((List.range 4096).filter fun i =>
      decide (i % (s.waysOf c.axis plus).length = e) && s.tagFree port i).length

/-- A piece has been put on its port. -/
def Coll.Sent (c : Coll) (s u : State) (plus : Bool) (k offset : Nat) (data : List Byte) : Prop :=
  ∃ port tag, c.way s plus k = some port ∧ c.waits s plus offset data tag ∈ (u.port port).waiting

/-- The elements of its result that a member keeps: those of a reduce-scatter from its own part on (14 R410), all of
another's. -/
def Coll.Keeps (c : Coll) (r : Running) (first : Nat) (codes : List Nat) : Prop :=
  let count := redCount c.task.desc
  let lo := if redKind c.task.desc = 1 then c.me * (count / max c.n 1) else 0
  let len := if redKind c.task.desc = 1 then count / max c.n 1
    else if redKind c.task.desc = 2 then c.n * count else count
  ∀ i x, codes[i]? = some x → lo ≤ first + i → first + i < lo + len →
    dstPut c.member len (first + i - lo) x ∈ r.outs

/-- What taking a piece of a collective does (14 R408 to R410, 15 R422): partials of a sum run through the + direction with
the member's own elements combined, the last member converts them to the result, which runs back; each member keeps and
passes on the pieces of the other kinds. `r` is the running task after it, `got` the pieces counted before. -/
def Coll.TakesPiece (c : Coll) (s u : State) (r : Running) (got : Nat) (m : Msg) : Prop :=
  let d := c.task.desc
  let per := max c.per 1
  if redKind d < 2 then
    let w := max (fmtBits c.fmt / 8) 1
    let v := fmtBits c.dst / 8
    if (coordOf m.src c.axis + 1) % max c.n 1 = c.me ∧ 0 < c.me then
      let first := m.offset / w
      let vs := (c.combine s first (bytesCodes c.fmt m.data)).1
      if c.me + 1 < c.n then
        c.Sent s u true (first / per) m.offset (codeBytes c.fmt (vs.map (exactCode c.fmt))) ∧ r.got = got
      else
        let xs := (mapCnt vs (Machine.convert c.ar c.dst)).1
        c.Sent s u false (first / per) (first * v) (codeBytes c.dst xs) ∧ c.Keeps r first xs ∧ r.got = got + 1
    else
      let first := m.offset / max v 1
      (0 < c.me → c.Sent s u false (first / per) m.offset m.data) ∧ c.Keeps r first (bytesCodes c.dst m.data) ∧
        r.got = got + 1
  else
    let first := travelFirst c.fmt m.offset
    let xs := (mapCnt (bytesCodes c.fmt m.data) (redConvert c.ar c.fmt c.dst)).1
    (redKind d = 2 → (c.me + 1) % max c.n 1 ≠ first / max (redCount d) 1 →
      c.Sent s u true (first / per) m.offset m.data) ∧
    (redKind d = 3 → ∀ plus, plus = decide (2 * c.fromRoot.1 ≤ c.n) → c.casts plus = true →
      c.Sent s u plus (first / per) m.offset m.data) ∧
    (c.deaf = false → shiftsBlocks d = false → c.Keeps r first xs) ∧
    (c.deaf = false → shiftsBlocks d = true → ∀ o ∈ (s.shiftPut c.ar c.member first m.data).outs, o ∈ r.outs) ∧
    r.got = got + 1

/-- A collective whose task `r` waits on its bay goes on from `s` to `u` (14 R404, R411): it sends the pieces of its own that
it has not sent, in their order, each with a tag of its own; with nothing held for it nothing else is sent and nothing
taken; a piece held for it is taken, leaves the pool, and its sender is told. -/
def Coll.GoesOn (c : Coll) (s u : State) (r : Running) : Prop :=
  let total := c.starts.length * c.pieces
  let todo := (List.range total).drop r.phase
  let side (i : Nat) : Bool := (c.starts[i / max c.pieces 1]?).getD true
  let place (i : Nat) : Nat := i % max c.pieces 1
  s.SameBytes u ∧
  (c.MaySend s (total + 1) → (s.bay c.bay).running.filter (fun x => x.waiting && decide (x.task.queue = c.task.queue)) = [r] →
    (s.held.filter c.owns = [] → u.held = s.held ∧ ∃ (tag : Nat → Nat) (r' : Running), r' ∈ (u.bay c.bay).running ∧
      r'.task = r.task ∧ r'.phase = max r.phase total ∧ r'.got = r.got ∧ r'.outs = r.outs ∧
      r'.tags = r.tags ++ todo.filterMap (fun i => (c.way s (side i) (place i)).map fun p => (p, tag i)) ∧
      ∀ p, (u.port p).waiting = (s.port p).waiting ++
        (todo.filter fun i => decide (c.way s (side i) (place i) = some p)).map fun i =>
          c.waits s (side i) (c.offset (place i)) (c.ownBytes s (place i)) (tag i)) ∧
    ∀ h, s.held.filter c.owns = [h] → c.has s h = false → ∃ r', r' ∈ (u.bay c.bay).running ∧ r'.task = r.task ∧
      r'.taken = r.taken ++ [h] ∧ u.held = s.held.erase h ∧ c.TakesPiece s u r' r.got h.msg ∧
      (h.spent = false → ∃ w ∈ (u.port h.port).waiting, w.typ = 1 ∧ w.queue = none ∧ w.bytes = msgBytes
        { mtype := 2, ctx := h.msg.ctx, tag := h.msg.tag, dest := h.msg.src, src := s.ownCoord,
          collseq := h.msg.collseq, offset := h.msg.offset, len := 0, data := [] }))

end Sys2Proof.Machine
end

