-- ==== Sys2Proof/Certificates/Slice0/Obligations.lean ====
section
/-! DEFINITION. The statements for the provers: what the commands of the block do, by the rules of the manual. -/

open Sys2Proof Sys2Proof.Machine

/-- O1. The command at the front of the queue takes effect, with the queue's rest waiting behind it; on an empty
queue the block idles (the model's own queue: log entries 1 and 2). -/
def Obligations.StepRunsFront : Prop :=
  (∀ (c : Instr) (rest : List Instr) (s : State),
    step { s with pending := c :: rest } = exec c { s with pending := rest }) ∧
  (∀ s : State, s.pending = [] → step s = .next s)

/-- O2. Every command completes in every state, and every step answers a next state; a step takes exactly the command
at the front of the queue, and no command adds, drops or reorders a waiting one (log entries 1 to 3). -/
def Obligations.StepTakesFront : Prop :=
  (∀ (c : Instr) (s : State), ∃ t, exec c s = .next t ∧ t.pending = s.pending) ∧
  ∀ s : State, ∃ t, step s = .next t ∧ t.pending = s.pending.tail

/-- O3. Every step keeps the byte stores in canonical form and the Underlays one entry a line, 128 bytes each. -/
def Obligations.StepKeepsCanonical : Prop :=
  ∀ s t : State, s.Canonical → step s = .next t → t.Canonical

/-- O4. What reset leaves: the course counter 0, no image, no event waiting, no poisoned sector, nothing in an
Underlay, every bay and session empty, KP_APERTURE 0 and KP_IDENT as the register table has them. -/
def Obligations.ResetState : Prop :=
  State.reset.Canonical ∧ State.reset.pending = [] ∧ State.reset.course.count = 0 ∧ State.reset.image = none ∧
  State.reset.raised = [] ∧ State.reset.evtBuf = [] ∧ State.reset.poison = [] ∧ State.reset.under = [] ∧
  (∀ b, State.reset.bay b = BayState.empty) ∧ (∀ e slot, State.reset.session e slot = Session.closed) ∧
  (∀ off, State.reset.reg off = RegMap.resetWord off) ∧
  State.reset.fld Reg.kpApertureBase = 0 ∧ State.reset.fld Reg.kpIdentFamily = 0x50 ∧
  State.reset.fld Reg.kpIdentPart = 0x32A ∧ State.reset.fld Reg.kpIdentStep = 0xA1

/-- O5. Accesses that are not carried out. A BAR0 access that is not 32 or 64 bits wide, or not aligned to its
width, is answered by all ones (a read) or ignored (a write) with a malformed-access event; one to the window of a
die without power, or to an unpopulated offset, is answered by 0xFFFF_FFFF or discarded with a die-unpowered or an
unmapped-access event. Nothing else changes. Which of two causes is recorded is the model's choice: the malformed one
before any other (log entry 100), a die without power before an unpopulated offset (log entry 77). -/
def Obligations.AccessRefused : Prop :=
  ∀ (p : Path) (off width : Nat) (v : BitVec 64) (s : State), s.reach p = true →
  (¬(width = 4 ∧ off % 4 = 0) → ¬(width = 8 ∧ off % 8 = 0) →
    exec (.registerRead p off ⟨width, none⟩) s =
      .next { s.raise (srcPath p) 0xC 0x07 (off / 16) with resp := .word (2 ^ (8 * width) - 1) } ∧
    exec (.registerWrite p off width ⟨v, none⟩) s = .next (s.raise (srcPath p) 0xC 0x07 (off / 16))) ∧
  (width = 4 → off % 4 = 0 → ∀ num,
    (∃ die, RegMap.dieOf off = some die ∧ s.powered die = false ∧ num = 0x09) ∨
      (RegMap.at? off = none ∧ num = 0x08 ∧ ∀ die, RegMap.dieOf off = some die → s.powered die = true) →
    exec (.registerRead p off ⟨width, none⟩) s =
      .next { s.raise (srcPath p) 0xC num (off / 16) with resp := .word 0xFFFFFFFF } ∧
    exec (.registerWrite p off width ⟨v, none⟩) s = .next (s.raise (srcPath p) 0xC num (off / 16)))

/-- O6. A 64-bit access acts as two 32-bit accesses to ascending addresses in that order: the upper half sees the
effect of the lower half. Of the accesses of both paths in one cycle, BAR0's comes first (19 R501); LOAD and UNLOAD that
come in one cycle are neither taken, and recorded as a malformed access (16 R451). That a path which is down carries
nothing is the model's choice (log entry 24). -/
def Obligations.WideAccess : Prop :=
  ∀ (p : Path) (off : Nat) (v : BitVec 64) (s : State), off % 8 = 0 →
  (∃ s1, exec (.registerWrite p off 4 ⟨v, none⟩) s = .next s1 ∧
    exec (.registerWrite p off 8 ⟨v, none⟩) s = exec (.registerWrite p (off + 4) 4 ⟨v >>> 32, none⟩) s1) ∧
  (s.reach p = true → ∃ s1 s2 lo hi,
    exec (.registerRead p off ⟨4, none⟩) s = .next s1 ∧ s1.resp = .word lo ∧
    exec (.registerRead p (off + 4) ⟨4, none⟩) s1 = .next s2 ∧ s2.resp = .word hi ∧
    exec (.registerRead p off ⟨8, none⟩) s = .next { s2 with resp := .word (lo + hi * 2 ^ 32) }) ∧
  (∀ (v' : BitVec 64) (width : Nat) (s1 : State), exec (.registerWrite .host off width ⟨v, none⟩) s = .next s1 →
    (s.imgctlClash off width v v' = false →
      exec (.registerWrite .host off width ⟨v, some v'⟩) s = exec (.registerWrite .bus off width ⟨v', none⟩) s1 ∧
      exec (.registerWrite .bus off width ⟨v', some v⟩) s = exec (.registerWrite .bus off width ⟨v', none⟩) s1) ∧
    exec (.registerRead .bus off ⟨width, some v⟩) s = exec (.registerRead .bus off ⟨width, none⟩) s1) ∧
  (∀ (v' : BitVec 64) (width : Nat), width = 4 ∨ width = 8 → s.reach .host = true → s.reach .bus = true →
    s.Carries .host 0x10018 → (v.toNat % 2 + v'.toNat % 2) * (v.toNat / 2 % 2 + v'.toNat / 2 % 2) ≠ 0 →
    exec (.registerWrite .host 0x10018 width ⟨v, some v'⟩) s = .next (s.raise (srcPath .host) 0xC 0x07 (0x10018 / 16)) ∧
    exec (.registerWrite .bus 0x10018 width ⟨v', some v⟩) s = .next (s.raise (srcPath .host) 0xC 0x07 (0x10018 / 16))) ∧
  (∀ (width : Nat) (s1 : State), exec (.registerRead .host off ⟨width, none⟩) s = .next s1 →
    exec (.registerRead .host off ⟨width, some v⟩) s = exec (.registerWrite .bus off width ⟨v, none⟩) s1) ∧
  (s.reach p = false → ∀ width, exec (.registerRead p off ⟨width, none⟩) s = .next s ∧
    exec (.registerWrite p off width ⟨v, none⟩) s = .next s)

/-- O7. A carried 32-bit write of a register without a rule of its own follows the access codes field by field: RO
and WO fields keep what they hold, RW fields take the written bits, W1C bits are cleared by 1 and kept by 0, RWL
fields are written only while service access is open; a closed RWL register records an access-refused event. No
other register and no store changes. -/
def Obligations.WriteByCode : Prop :=
  ∀ (p : Path) (off : Nat) (v : BitVec 64) (s : State) (r : RegSpec), s.Carries p off → off % 4 = 0 →
  RegMap.at? off = some r → s.writeSpecial p off (v.toNat % 2 ^ 32) = none → RegMap.arbBlock off = none →
  undDie 0 off = none → undDie 4 off = none →
  ∃ t, exec (.registerWrite p off 4 ⟨v, none⟩) s = .next t ∧ s.SameBytes t ∧ s.SameRegs t [off] ∧
    (∀ f ∈ r.fields,
      let old := s.fld ⟨off, f.lo, f.width⟩
      let new := t.fld ⟨off, f.lo, f.width⟩
      let written := bits v.toNat f.lo f.width
      match f.acc with
      | .ro => new = old
      | .wo => new = old
      | .rw => new = written
      | .rws => new = written
      | .w1c => ∀ i, i < f.width → bits new i 1 = (if bits written i 1 = 1 then 0 else bits old i 1)
      | .rwl => new = (if s.service then written else old)) ∧
    ((s.service = true ∨ ∀ f ∈ r.fields, f.acc ≠ .rwl) → t.raised = s.raised) ∧
    ((s.service = false ∧ ∃ f ∈ r.fields, f.acc = .rwl) →
      t.raised = (s.raise (srcPath p) 0xC 0x0A (off / 16)).raised)

/-- O8. A carried 32-bit read answers the register as it shows: RO, RW, RWS and W1C fields their current (shadow)
value, WO fields and reserved bits 0, RWL fields 0 while service access is closed. Outside the registers that follow from
other state the word shown is the stored one. -/
def Obligations.ReadByCode : Prop :=
  ∀ (p : Path) (off : Nat) (s : State) (r : RegSpec), s.Carries p off → off % 4 = 0 → RegMap.at? off = some r →
  ∃ t w, exec (.registerRead p off ⟨4, none⟩) s = .next t ∧ t.resp = .word w ∧ s.SameBytes t ∧ t.raised = s.raised ∧
    (∀ f ∈ r.fields, bits w f.lo f.width =
      match f.acc with
      | .wo => 0
      | .rwl => if s.service then bits (s.computed p off (s.reg off).toNat) f.lo f.width else 0
      | _ => bits (s.computed p off (s.reg off).toNat) f.lo f.width) ∧
    (derivedReg off = false → s.computed p off (s.reg off).toNat = (s.reg off).toNat) ∧
    (∀ i, i < 32 → (∀ f ∈ r.fields, i < f.lo ∨ f.lo + f.width ≤ i) → bits w i 1 = 0)

/-- O9. A host write to a field of BAY_CVT0 or BAY_CVT1 in a cycle in which conversions add to it leaves the written
value plus that cycle's count, saturated at 0xFFFF. Nothing else changes. Every other counting field that a host can
write behaves so, saturated at all ones: each field of BAY_FAST0 and BAY_FAST1, BAY_ROWST, BAY_ATTN, BAY_SWAPS, EAV_FEC,
EAV_RETRY, EAV_TAG and the alert counts among them. -/
def Obligations.CounterFieldWrite : Prop :=
  ∀ (p : Path) (b : PBay) (v : Word) (n0 n1 : Nat) (s : State), b.wf = true →
  (s.Carries p (Reg.bayCvt0Sat b).off →
    exec (.counterFieldWrite p (Reg.bayCvt0Sat b).off v [n0, n1]) s =
      .next (s.setReg (Reg.bayCvt0Sat b).off (BitVec.ofNat 32
        (min 0xFFFF (v.toNat % 2 ^ 16 + n0) + min 0xFFFF (v.toNat / 2 ^ 16 + n1) * 2 ^ 16)))) ∧
  (s.Carries p (Reg.bayCvt1Flush b).off →
    exec (.counterFieldWrite p (Reg.bayCvt1Flush b).off v [n0]) s =
      .next (s.setReg (Reg.bayCvt1Flush b).off (BitVec.ofNat 32 (min 0xFFFF (v.toNat % 2 ^ 16 + n0))))) ∧
  (∀ (off : Nat) (r : RegSpec) (added : List Nat), s.Carries p off → RegMap.at? off = some r →
    ∃ t, exec (.counterFieldWrite p off v added) s = .next t ∧ s.SameBytes t ∧ s.SameRegs t [off] ∧
      ((∀ f ∈ r.fields, f.acc ≠ .rwl) → t.raised = s.raised) ∧
      ∀ k f, (r.fields.filter fun g => g.cnt)[k]? = some f → f.acc = .rw →
        bits (t.reg off).toNat f.lo f.width =
          min (2 ^ f.width - 1) (bits v.toNat f.lo f.width + added.getD k 0))

/-- O10. W1C bits: hardware's setting a bit in the same cycle wins over a host write of 1 to it; else 1 clears and 0
keeps. Shown of every W1C field of every register; nothing outside the register changes but the event of a closed
RWL field. -/
def Obligations.W1cClear : Prop :=
  ∀ (p : Path) (off : Nat) (v hw : Word) (s : State) (r : RegSpec), s.Carries p off → RegMap.at? off = some r →
  ∃ t, exec (.w1cClear p off v hw) s = .next t ∧ s.SameBytes t ∧ s.SameRegs t [off] ∧
    ∀ f ∈ r.fields, f.acc = .w1c → ∀ i, i < f.width →
      bits (t.reg off).toNat (f.lo + i) 1 =
        if bits hw.toNat (f.lo + i) 1 = 1 then 1
        else if bits v.toNat (f.lo + i) 1 = 1 then 0
        else bits (s.reg off).toNat (f.lo + i) 1

/-- O11. The latches. A read of KP_COURSE_LO or KP_BEACON_OFS_LO through one path loads only that path's latch with
the high bits of that instant, and a read of the HI register returns the latch of its own path; a 64-bit read at
KP_COURSE_LO returns the whole 48-bit count of one instant. -/
def Obligations.CourseLatches : Prop :=
  ∀ (p : Path) (s : State), s.reach p = true → s.up = true →
  let hi := BitVec.ofNat 16 (s.course.count.toNat / 2 ^ 32)
  let ofsHi := BitVec.ofNat 16 (s.course.ofs.toNat / 2 ^ 32)
  exec (.courseLoRead p false) s = .next { s with
    resp := .word (s.course.count.toNat % 2 ^ 32)
    course := (match p with
      | .host => { s.course with hostHi := hi }
      | .bus => { s.course with busHi := hi }) } ∧
  exec (.courseLoRead p true) s = .next { s with
    resp := .word s.course.count.toNat
    course := (match p with
      | .host => { s.course with hostHi := hi }
      | .bus => { s.course with busHi := hi }) } ∧
  exec (.beaconOfsLoRead p false) s = .next { s with
    resp := .word (s.course.ofs.toNat % 2 ^ 32)
    course := (match p with
      | .host => { s.course with hostOfsHi := ofsHi }
      | .bus => { s.course with busOfsHi := ofsHi }) } ∧
  exec (.registerRead p 0x20004 ⟨4, none⟩) s = .next { s with
    resp := .word (match p with | .host => s.course.hostHi.toNat | .bus => s.course.busHi.toNat) } ∧
  exec (.registerRead p 0x20018 ⟨4, none⟩) s = .next { s with
    resp := .word (match p with | .host => s.course.hostOfsHi.toNat | .bus => s.course.busOfsHi.toNat) }

/-- O12. KP_APERTURE and KP_CLOCK: a value above 0xBF leaves KP_APERTURE.BASE as it was and records a
malformed-access event; KP_CLOCK.SPREAD is written while service access is open, and while it is closed the write is
ignored and recorded as an access-refused event. -/
def Obligations.ApertureAndClock : Prop :=
  ∀ (p : Path) (v : Word) (s : State), s.reach p = true → s.up = true →
  (v.toNat % 256 ≤ 0xBF → exec (.apertureWrite p v) s = .next (s.setFld Reg.kpApertureBase (v.toNat % 256))) ∧
  (0xBF < v.toNat % 256 →
    exec (.apertureWrite p v) s = .next (s.raise (srcPath p) 0xC 0x07 (0x10000 / 16))) ∧
  (s.service = true → ∃ t, exec (.clockSpreadWrite p v) s = .next t ∧ s.SameRegs t [0x2000C] ∧ t.raised = s.raised ∧
    t.fld Reg.kpClockSpread = v.toNat % 2 ∧ t.fld Reg.kpClockMhz = s.fld Reg.kpClockMhz) ∧
  (s.service = false → ∃ t, exec (.clockSpreadWrite p v) s = .next t ∧ s.SameRegs t [0x2000C] ∧
    t.fld Reg.kpClockSpread = s.fld Reg.kpClockSpread ∧ t.fld Reg.kpClockMhz = s.fld Reg.kpClockMhz ∧
    t.raised = (s.raise (srcPath p) 0xC 0x0A (0x2000C / 16)).raised)

/-- O13. A write to memory, seen through reads: wherever it is let in, each enabled byte reads as written, and every
other byte of the module reads as before, whether a full Underlay drains its oldest entry or not. A unit whose die has no
power, or no clocks, sends none (18 R487). Stated of states whose stores are in canonical form (kept by every step, O3). -/
def Obligations.MemoryWriteReadsBack : Prop :=
  ∀ (src : Source) (addr : Nat) (data : List (Option Byte)) (s : State),
  s.Canonical → s.up = true → s.transit.diesOff = false →
  (s.unitRuns src = true → ∃ t, exec (.underlayWrite src addr data) s = .next t ∧
    ∀ x, t.peek x =
      if s.writable x = true ∧ addr ≤ x then (data.getD (x - addr) none).getD (s.peek x) else s.peek x) ∧
  (s.unitRuns src = false → exec (.underlayWrite src addr data) s = .next s)

/-- O14. BAR2: a read or write goes to the module address that KP_APERTURE and the offset give. After a write each
enabled byte that is let in reads as written, and every other byte of the module as before. A read of any length
returns the bytes, marked poisoned exactly when it meets an uncorrectable sector, which is recorded; one that leaves
the map is recorded too, and one that meets neither records nothing. In Dormer-2 both are answered as an access to a
die without power (the model's choice, log entry 78). While the module is down neither does anything (the model's
choice, log entry 24). -/
def Obligations.Bar2Access : Prop :=
  ∀ (off len : Nat) (data : List (Option Byte)) (s : State),
  let a := s.fld Reg.kpApertureBase * 2 ^ 32 + off
  let bytes := (List.range len).map fun i => s.peek (a + i)
  let met (x : Nat) : Prop := x ∈ s.poisonedIn a (min len (memLimit - a)) ∧ s.retired x = false
  (s.up = true → s.transit.diesOff = false →
    (∃ t, exec (.bar2Write off data) s = .next t ∧ exec (.underlayWrite ⟨30, 0⟩ a data) s = .next t ∧
      t.lath = s.lath ∧ t.slots = s.slots ∧
      (s.Canonical → ∀ x, t.peek x =
        if s.writable x = true ∧ a ≤ x then (data.getD (x - a) none).getD (s.peek x) else s.peek x)) ∧
    (∃ t p, exec (.bar2Read off len) s = .next t ∧ t.resp = .memory bytes p ∧ s.SameBytes t ∧
      (p = true ↔ ∃ x, met x) ∧
      (∀ x, met x → ∃ r ∈ t.raised.drop s.raised.length, r.src = srcCtl (stackOf x) ∧ r.cls = 0x3 ∧ r.num = 0x02) ∧
      (memLimit < a + len → 0 < len →
        t.raised[s.raised.length]? = some (s.nextRec ⟨30, 0⟩ 0x3 0x01 (max a memLimit / 2 ^ 16 % 2 ^ 24)))) ∧
    (a + len ≤ memLimit → (∀ x, a ≤ x → x < a + len → s.retired x = false) → (∀ x, ¬met x) →
      exec (.bar2Read off len) s = .next { s with resp := .memory bytes false })) ∧
  (s.up = true → s.transit.diesOff = true →
    exec (.bar2Write off data) s = .next (s.raise ⟨30, 0⟩ 0xC 0x09 (off / 16)) ∧
    exec (.bar2Read off len) s = .next { s.raise ⟨30, 0⟩ 0xC 0x09 (off / 16) with
      resp := .memory (List.replicate len 0xFF) false }) ∧
  (s.up = false → exec (.bar2Write off data) s = .next s ∧ exec (.bar2Read off len) s = .next s)

/-- O15. Draining. It changes what no byte reads as; with grouping off the channel's oldest entry alone leaves, with
grouping on all of its entries leave when BATCH drainable sectors, AGE × 64 core cycles or HIGH entries are reached,
and none before. Nothing but memory, poison, the Underlay, the error counters and the pages pending changes; reading a
sector that a partial write completes may record that it is uncorrectable, and its page pending (R289, R290). -/
def Obligations.UnderlayDrain : Prop :=
  ∀ (stack channel waited : Nat) (s : State), s.Canonical →
  let d := stackDie stack
  let es := s.channelEntries stack channel
  let ready := s.liveFld (Reg.undGroupBatch d) ≤ (es.map drainable).sum ∨
    s.liveFld (Reg.undGroupAge d) * 64 ≤ waited ∨ s.liveFld (Reg.undGroupHigh d) ≤ s.occupancy stack
  let gone := if s.liveFld (Reg.undGroupEn d) = 0 then es.take 1
    else if s.liveFld (Reg.undGroupBatch d) ≤ (es.map drainable).sum ∨
      s.liveFld (Reg.undGroupAge d) * 64 ≤ waited ∨ s.liveFld (Reg.undGroupHigh d) ≤ s.occupancy stack
    then es else []
  ∃ t, exec (.underlayDrain stack channel waited) s = .next t ∧ (∀ x, t.peek x = s.peek x) ∧
    t.under = s.under.filter (fun e => decide (e ∉ gone)) ∧
    (s.liveFld (Reg.undGroupEn d) ≠ 0 → ¬ready → t = s) ∧
    t = { s with
      mem := t.mem, under := t.under, poison := t.poison, regs := t.regs, seqs := t.seqs, raised := t.raised
      reliab := { s.reliab with pagePend := t.reliab.pagePend, pageRow := t.reliab.pageRow } } ∧
    s.SameRegs t [(Reg.undRmwCount d).off, (Reg.hbmEccUncorr d).off, (Reg.hbmErraddrOfsLo d).off,
      (Reg.hbmErraddrHiOfsHi d).off, (Reg.hbmRetirePending d).off] ∧
    (∀ x ∈ t.poison, x ∈ s.poison) ∧
    ∃ more, t.raised = s.raised ++ more ∧ ∀ x ∈ more, x.src = srcCtl stack ∧ x.cls = 0x3 ∧ (x.num = 0x02 ∨ x.num = 0x04)

/-- O16. A bay's read of one sector through its die's Loft: from a valid sector (a hit, counted), else fetched from
the stack (a miss, counted), after which that sector of the line is valid and the others are as they were. A sector that
memory refuses (beyond the map, or in a retired page) reads as all ones with its event and becomes valid nowhere. A die
whose clocks Dormer-1 has stopped reads nothing (18 R487). That a refused read counts neither as a hit nor as a miss is
the model's choice (log entry 153). -/
def Obligations.LoftSector : Prop :=
  ∀ (die addr k corrected : Nat) (s : State), die < 24 → s.powered die = true → k < 4 →
  (s.clocked = false → exec (.loftRead die addr (2 ^ k) corrected none) s = .next s) ∧
  (s.clocked = true →
  let a := addr / 128 * 128 + 32 * k
  (∀ l bs, s.loftLine die addr = some l → l.sectors.getD k none = some bs → a < memLimit → s.retired a = false →
    ∃ t, exec (.loftRead die addr (2 ^ k) corrected none) s = .next t ∧ t.resp = .memory bs false ∧
      s.SameBytes t ∧ t.loft = s.loft ∧ t.raised = s.raised ∧
      t.fld (Reg.loftHitCount die) = min 0xFFFFFFFF (s.fld (Reg.loftHitCount die) + 1) ∧
      t.fld (Reg.loftMissCount die) = s.fld (Reg.loftMissCount die) ∧
      t.fld (Reg.loftEccCorr die) = min 0xFFFF (s.fld (Reg.loftEccCorr die) + corrected)) ∧
  ((∀ l, s.loftLine die addr = some l → l.sectors.length = 4 ∧ l.sectors.getD k none = none) →
    a < memLimit → s.retired a = false → a ∉ s.poison →
    ∃ t l', exec (.loftRead die addr (2 ^ k) corrected none) s = .next t ∧
      t.resp = .memory ((List.range 32).map fun i => s.peek (a + i)) false ∧ s.SameBytes t ∧ t.raised = s.raised ∧
      t.fld (Reg.loftMissCount die) = min 0xFFFFFFFF (s.fld (Reg.loftMissCount die) + 1) ∧
      t.fld (Reg.loftHitCount die) = s.fld (Reg.loftHitCount die) ∧
      t.loftLine die addr = some l' ∧
      l'.sectors.getD k none = some ((List.range 32).map fun i => s.peek (a + i)) ∧
      ∀ j, j ≠ k → l'.sectors.getD j none =
        match s.loftLine die addr with
        | some l => l.sectors.getD j none
        | none => none) ∧
  (memLimit ≤ a ∨ s.retired a = true →
    ∃ t, exec (.loftRead die addr (2 ^ k) corrected none) s = .next t ∧
      t.resp = .memory (List.replicate 32 0xFF) false ∧ s.SameBytes t ∧ t.loft = s.loft ∧
      t.fld (Reg.loftHitCount die) = s.fld (Reg.loftHitCount die) ∧
      t.fld (Reg.loftMissCount die) = s.fld (Reg.loftMissCount die) ∧
      t.raised = s.raised ++ [if memLimit ≤ a then s.nextRec ⟨die, 9⟩ 0x3 0x01 (a / 2 ^ 16)
        else s.nextRec (srcCtl (stackOf a)) 0x3 0x06 (a % 2 ^ 36 / 2 ^ 16)]))

/-- O17. The controller's read of one sector: the bytes as memory and the Underlay give them; a corrected sector is
counted and its page becomes pending when the page's count reaches HBM_RETIRE.THRESH; an uncorrectable one is
returned poisoned, counted and recorded, and stays poisoned; a retired page answers all ones with its event, which its
controller records (the model's choice, log entry 79), as does an address beyond the map. -/
def Obligations.StackRead : Prop :=
  ∀ (src : Source) (addr : Nat) (s : State), s.up = true → s.transit.diesOff = false →
  let a := addr / 32 * 32
  let d := stackDie (stackOf a)
  let data := (List.range 32).map fun i => s.peek (a + i)
  (a < memLimit → s.retired a = false → a ∉ s.poison →
    exec (.stackRead src addr .clean) s = .next { s with resp := .memory data false } ∧
    (∃ t, exec (.stackRead src addr .corrected) s = .next t ∧ t.resp = .memory data false ∧ s.SameBytes t ∧
      t.fld (Reg.hbmEccCorr d) = min 0xFFFF (s.fld (Reg.hbmEccCorr d) + 1) ∧
      Store.get t.reliab.pageCorr (a / 2 ^ 16) 0 = Store.get s.reliab.pageCorr (a / 2 ^ 16) 0 + 1 ∧
      (a / 2 ^ 16 ∈ t.reliab.pagePend ↔ a / 2 ^ 16 ∈ s.reliab.pagePend ∨
        s.fld (Reg.hbmRetireThresh d) ≤ Store.get s.reliab.pageCorr (a / 2 ^ 16) 0 + 1))) ∧
  (a < memLimit → s.retired a = false →
    ∃ t, exec (.stackRead src addr .uncorrectable) s = .next t ∧ t.resp = .memory data true ∧ a ∈ t.poison ∧
      t.mem = s.mem ∧ t.under = s.under ∧ a / 2 ^ 16 ∈ t.reliab.pagePend ∧
      t.fld (Reg.hbmEccUncorr d) = min 0xFFFF (s.fld (Reg.hbmEccUncorr d) + 1) ∧
      t.raised[s.raised.length]? = some (s.nextRec (srcCtl (stackOf a)) 0x3 0x02 (a % 2 ^ 36 / 2 ^ 16))) ∧
  (∀ ecc, a < memLimit → s.retired a = true → exec (.stackRead src addr ecc) s =
    .next { s.raise (srcCtl (stackOf a)) 0x3 0x06 (a % 2 ^ 36 / 2 ^ 16) with
      resp := .memory (List.replicate 32 0xFF) false }) ∧
  (∀ ecc, memLimit ≤ a → exec (.stackRead src addr ecc) s =
    .next { s.raise src 0x3 0x01 (a / 2 ^ 16) with resp := .memory (List.replicate 32 0xFF) false })

/-- O18. Refresh keeps every byte and register. It runs at twice the standard rate (HBM_TEMP.HOT) from the first
reading above 85 °C until a reading of 83 °C or less; the change is recorded with HOT after it as DETAIL. -/
def Obligations.RefreshRate : Prop :=
  ∀ (stack degC : Nat) (s : State), stack < 12 → degC < 256 → s.powered (stackDie stack) = true →
  let d := stackDie stack
  let hot := s.fld (Reg.hbmTempHot d) = 1
  exec (.refresh stack) s = .next s ∧
  ∃ t, exec (.refreshRateChange stack degC) s = .next t ∧ s.SameBytes t ∧
    s.SameRegs t [(Reg.hbmTempDegc d).off] ∧ t.fld (Reg.hbmTempDegc d) = degC ∧
    (¬hot → 85 < degC → t.fld (Reg.hbmTempHot d) = 1 ∧
      t.raised = s.raised ++ [s.nextRec (srcCtl stack) 0x3 0x09 1]) ∧
    (hot → degC ≤ 83 → t.fld (Reg.hbmTempHot d) = 0 ∧
      t.raised = s.raised ++ [s.nextRec (srcCtl stack) 0x3 0x09 0]) ∧
    (¬(¬hot ∧ 85 < degC) → ¬(hot ∧ degC ≤ 83) →
      t.fld (Reg.hbmTempHot d) = s.fld (Reg.hbmTempHot d) ∧ t.raised = s.raised)

/-- O19. UND_GROUP and UND_COMMIT while the expert feature bit is agreed: a value with every field in its range
becomes the shadow value, a commit puts the shadow held before any write of the same cycle in the set that waits for
the boundary; out of range, the shadow keeps its value and a malformed-access event is recorded. Without the expert
bit each write is ignored with an access-refused event. UND_STAT answers occupancy and peak, and the peak restarts
from the present occupancy. -/
def Obligations.UnderlayRegisters : Prop :=
  ∀ (p : Path) (die : Nat) (v : Word) (same : Word) (s : State), die < 24 →
  let group := (Reg.undGroupEn die).off
  let commit := (Reg.undCommitGo die).off
  let inRange := 1 ≤ v.toNat / 2 % 2 ^ 7 ∧ 1 ≤ v.toNat / 2 ^ 8 % 2 ^ 8 ∧ 1 ≤ v.toNat / 2 ^ 16 % 2 ^ 9 ∧
    v.toNat / 2 ^ 16 % 2 ^ 9 ≤ 0x100
  (s.Carries p group →
    (s.expert = true → inRange → exec (.undGroupWrite p die v) s =
      .next (s.setReg group (BitVec.ofNat 32 (v.toNat % 2 ^ 25)))) ∧
    (s.expert = true → ¬inRange → exec (.undGroupWrite p die v) s =
      .next (s.raise (srcPath p) 0xC 0x07 (group / 16))) ∧
    (s.expert = false → exec (.undGroupWrite p die v) s = .next (s.raise (srcPath p) 0xC 0x0A (group / 16)))) ∧
  (s.Carries p commit →
    (s.expert = true → exec (.undCommit p die none) s =
      .next { s with commits := s.commits.filter (fun e => e.1 ≠ group) ++ [(group, [(group, s.reg group)])] }) ∧
    (s.expert = true → ∃ t, exec (.undCommit p die (some same)) s = .next t ∧
      t.commits = s.commits.filter (fun e => e.1 ≠ group) ++ [(group, [(group, s.reg group)])]) ∧
    (s.expert = false → exec (.undCommit p die none) s = .next (s.raise (srcPath p) 0xC 0x0A (commit / 16)))) ∧
  (s.Carries p (Reg.undStatOcc die).off → s.occupancy (dieStack die) < 512 →
    ∃ t, exec (.undStatRead p die) s = .next t ∧
      t.resp = .word (s.occupancy (dieStack die) + s.fld (Reg.undStatPeak die) * 2 ^ 9) ∧ s.SameBytes t ∧
      s.SameRegs t [(Reg.undStatOcc die).off] ∧
      t.fld (Reg.undStatPeak die) = s.occupancy (dieStack die) ∧ t.raised = s.raised)

/-- O20. A host write of PEG_COUNTn sets the count and then tests the watches on the peg. A ligger operation of the
same cycle is applied first, behind the watches that its die sent before it: a watch that its result meets is woken,
and stays so when the written value is lower. An operation inside its context's partition has the result of R307 and
the saturation event; a foreign one is discarded and recorded, and the host write stands. -/
def Obligations.PegHostWrite : Prop :=
  ∀ (p : Path) (n : Nat) (v : Word) (m : PegMsg) (s : State), n < 65536 → s.Carries p (Reg.pegCountCount n).off →
  let met (ws : List Watch) (c : Nat) : List Watch := ws.map fun w =>
    if w.peg = n ∧ w.arrived = true ∧ w.thresh ≤ c ∧ s.pegIn w.ctx n = true then { w with woken := true } else w
  let a := s.liggerAhead m.die .peg
  let c1 := match m.op with
    | .set => m.value.toNat
    | .add => min (2 ^ 32 - 1) (s.peg n + m.value.toNat)
    | .sub => s.peg n - m.value.toNat
  (∃ t, exec (.pegCountWrite p n v none) s = .next t ∧ t.peg n = v.toNat ∧
    s.SameRegs t [(Reg.pegCountCount n).off] ∧ t.watches = met s.watches v.toNat ∧ t.raised = s.raised ∧ s.SameBytes t) ∧
  (s.pegIn m.ctx n = true → ∃ t, exec (.pegCountWrite p n v (some m)) s = .next t ∧ t.peg n = v.toNat ∧
    s.SameRegs t [(Reg.pegCountCount n).off] ∧ t.watches = met a.watches (max c1 v.toNat) ∧ s.SameBytes t ∧
    t.raised = a.raised ++
      (if m.op = .add ∧ 2 ^ 32 ≤ s.peg n + m.value.toNat then [a.nextRec ⟨30, 8⟩ 0x4 0x01 (n + 2 ^ 16)]
      else if m.op = .sub ∧ s.peg n < m.value.toNat then [a.nextRec ⟨30, 8⟩ 0x4 0x01 n] else [])) ∧
  (s.pegIn m.ctx n = false → ∃ t, exec (.pegCountWrite p n v (some m)) s = .next t ∧ t.peg n = v.toNat ∧
    s.SameRegs t [(Reg.pegCountCount n).off] ∧ t.watches = met a.watches v.toNat ∧ s.SameBytes t ∧
    t.raised = a.raised ++ [a.nextRec ⟨30, 8⟩ 0x4 0x02 (n + m.die % 32 * 2 ^ 16)])

/-- O21. PEG tasks: SET, ADD and SUB on the peg that the descriptor names, with saturation, inside the issuing
context's partition, after the watches that the issuing die sent before; an ADD or SUB that saturates is recorded; a
foreign peg keeps its count and the operation is discarded with a foreign-peg event; one whose operation was performed
before an abort does not perform it again. The task then waits for its
completion; every other peg, register and byte is unchanged. -/
def Obligations.PegTask : Prop :=
  ∀ (l : Bay) (b : PBay) (t : Task) (a s : State),
  let n := le t.desc 32 2
  let v := le t.desc 36 4
  let ctx := (a.queueCtx t.queue).getD 0
  let ran (u : State) (c : Nat) : Prop := a.SameBytes u ∧ u.peg n = c ∧ a.SameRegs u [(Reg.pegCountCount n).off] ∧
    (u.bay b).selected = (a.bay b).selected ∧
    ∃ r, (u.bay b).running = (a.bay b).running ++ [r] ∧ r.task = t ∧ r.outs = [] ∧ r.phase = 1
  let w := a.liggerAhead b.die .peg
  let foreign := w.raised ++ [w.nextRec ⟨30, 8⟩ 0x4 0x02 (n + b.die % 32 * 2 ^ 16)]
  let full (c : Bool) (d : Nat) : List EventRec := if c then [w.nextRec ⟨30, 8⟩ 0x4 0x01 d] else []
  (s.Starts l (opPeg, 1) b t a → t.acted = false → ∃ u, exec (.pegSet l) s = .next u ∧
    (a.pegIn ctx n = true → ran u v ∧ u.raised = w.raised) ∧
    (a.pegIn ctx n = false → ran u (a.peg n) ∧ u.raised = foreign)) ∧
  (s.Starts l (opPeg, 2) b t a → t.acted = false → ∃ u, exec (.pegAdd l) s = .next u ∧
    (a.pegIn ctx n = true → ran u (min (2 ^ 32 - 1) (a.peg n + v)) ∧
      u.raised = w.raised ++ full (decide (2 ^ 32 ≤ a.peg n + v)) (n + 2 ^ 16)) ∧
    (a.pegIn ctx n = false → ran u (a.peg n) ∧ u.raised = foreign)) ∧
  (s.Starts l (opPeg, 3) b t a → t.acted = false → ∃ u, exec (.pegSub l) s = .next u ∧
    (a.pegIn ctx n = true → ran u (a.peg n - v) ∧
      u.raised = w.raised ++ full (decide (a.peg n < v)) n) ∧
    (a.pegIn ctx n = false → ran u (a.peg n) ∧ u.raised = foreign)) ∧
  ∀ (i : Instr) (kind : Nat), (i, kind) ∈ [(.pegSet l, 1), (.pegAdd l, 2), (.pegSub l, 3)] →
    s.Starts l (opPeg, kind) b t a → t.acted = true →
      ∃ u, exec i s = .next u ∧ ran u (a.peg n) ∧ a.SameRegs u [] ∧ u.raised = a.raised ∧ u.watches = a.watches

/-- O22. A watch that arrives at the peg unit is tested against the count as it then stands: it is woken exactly when
the count is at least WAITTH and the peg lies in its context's partition; one on a foreign peg is never satisfied
and is recorded. The watches that its die sent before it arrive before it; with no watch of a queue under way nothing
happens. -/
def Obligations.WatchArrive : Prop :=
  ∀ (queue : Nat) (w : Watch) (s : State),
  (s.watches.find? fun x => decide (x.queue = queue ∧ x.arrived = false)) = some w →
  let before := (s.underWay w.bay.die).takeWhile fun x => decide (x ≠ w)
  let a := before.foldl State.watchIn s
  let now := { w with arrived := true, woken := s.pegIn w.ctx w.peg && decide (w.thresh ≤ s.peg w.peg) }
  let after := a.watches.map fun x => if x = w then now else x
  (s.pegIn w.ctx w.peg = true → exec (.watchArrive queue) s = .next { a with watches := after }) ∧
  (s.pegIn w.ctx w.peg = false → exec (.watchArrive queue) s =
    .next ({ a with watches := after }.raise ⟨30, 8⟩ 0x4 0x02 (w.peg + w.bay.die % 32 * 2 ^ 16))) ∧
  (before = [] → a = s) ∧ s.SameBytes a ∧ s.SameRegs a [] ∧
  ∀ x ∈ before, ∃ y ∈ a.watches, y.queue = x.queue ∧ y.peg = x.peg ∧ y.arrived = true

/-- O23. TIE tasks inside the partition. ARRIVE adds 1 to ARRIVED; the arrival that reaches MEMBERS sets ARRIVED to
0, adds 1 to GEN modulo 2^16 and performs ADD 1 on the release peg; RESET sets ARRIVED to 0 without a release. A
foreign tie keeps everything and is recorded; a task that performed its operation before an abort does not again. -/
def Obligations.TieTask : Prop :=
  ∀ (l : Bay) (b : PBay) (t : Task) (a s : State),
  let n := dbits t.desc 32 0 12
  let ctx := (a.queueCtx t.queue).getD 0
  let rel := a.fld (Reg.tieRelPeg n)
  let arrived := a.fld (Reg.tieStatArrived n)
  let members := a.fld (Reg.tieStatMembers n)
  let ran (u : State) : Prop := a.SameBytes u ∧
    ∃ r, (u.bay b).running = (a.bay b).running ++ [r] ∧ r.task = t ∧ r.outs = [] ∧ r.phase = 1
  (s.Starts l (opTie, 1) b t a → t.acted = false → ∃ u, exec (.tieArrive l) s = .next u ∧ ran u ∧
    (a.tieIn ctx n = true → arrived + 1 = members → a.pegIn ctx rel = true →
      u.fld (Reg.tieStatArrived n) = 0 ∧ u.fld (Reg.tieStatGen n) = (a.fld (Reg.tieStatGen n) + 1) % 2 ^ 16 ∧
      u.peg rel = min (2 ^ 32 - 1) (a.peg rel + 1) ∧
      a.SameRegs u [(Reg.tieStatArrived n).off, (Reg.pegCountCount rel).off]) ∧
    (a.tieIn ctx n = true → arrived + 1 ≠ members →
      u.fld (Reg.tieStatArrived n) = (arrived + 1) % 256 ∧ u.fld (Reg.tieStatGen n) = a.fld (Reg.tieStatGen n) ∧
      a.SameRegs u [(Reg.tieStatArrived n).off] ∧ u.raised = a.raised) ∧
    (a.tieIn ctx n = false → a.SameRegs u [] ∧
      u.raised = a.raised ++ [a.nextRec ⟨30, 9⟩ 0x4 0x03 (n + b.die % 32 * 2 ^ 12)])) ∧
  (s.Starts l (opTie, 2) b t a → t.acted = false → ∃ u, exec (.tieReset l) s = .next u ∧ ran u ∧
    (a.tieIn ctx n = true → u.fld (Reg.tieStatArrived n) = 0 ∧
      u.fld (Reg.tieStatGen n) = a.fld (Reg.tieStatGen n) ∧
      a.SameRegs u [(Reg.tieStatArrived n).off] ∧ u.raised = a.raised) ∧
    (a.tieIn ctx n = false → a.SameRegs u [] ∧
      u.raised = a.raised ++ [a.nextRec ⟨30, 9⟩ 0x4 0x03 (n + b.die % 32 * 2 ^ 12)])) ∧
  ∀ (i : Instr) (kind : Nat), (i, kind) ∈ [(.tieArrive l, 1), (.tieReset l, 2)] →
    s.Starts l (opTie, kind) b t a → t.acted = true →
      ∃ u, exec i s = .next u ∧ ran u ∧ a.SameRegs u [] ∧ u.raised = a.raised

/-- O24. A write to BAR4 offset q × 0x40 rings queue q: when it enables bytes 0 to 3, the queue is bound by the image
and TAIL lies within the ring, it performs its ADD and then sets the tail, and only its ADD when that is the tail
already; any other is discarded and recorded with its reason; while no image is loaded every one is not bound. Bytes that
the write does not enable count as 0, those before the first byte written too. A BAR4 read answers 0; an access without
data is that read (the model's choice, log entry 140), a write that enables no byte is refused. -/
def Obligations.Doorbell : Prop :=
  ∀ (off : Nat) (data : List (Option Byte)) (s : State), s.up = true → off < 0x100000 →
  let q := off / 0x40
  let given := List.replicate (off % 0x40) none ++ data
  let bs := given.map fun b => b.getD 0
  let tail := le bs 0 4
  let refused (reason : Nat) : Prop := exec (.doorbell off data) s =
    .next (s.raise ⟨30, 0⟩ 0x4 0x04 (q + reason * 2 ^ 14))
  let whole : Prop := ∀ i, i < 4 → (given.getD i none).isSome = true
  let loaded : Prop := s.fld Reg.kpImgstatState = 3 ∨ s.fld Reg.kpImgstatState = 5
  (∃ t, exec (.doorbell off data) s = .next t ∧ s.SameBytes t) ∧
  (data = [] → exec (.doorbell off data) s = .next { s with resp := .word 0 }) ∧
  (data ≠ [] → ¬loaded → refused 1) ∧
  (data ≠ [] → loaded → ¬whole → refused 0) ∧
  (whole → s.queueEntry q = none → refused 1) ∧
  (∀ e, whole → s.queueEntry q = some e → loaded →
    (2 ^ e.log2 < (tail + 2 ^ 32 - (s.queue q).head) % 2 ^ 32 → refused 2) ∧
    ((tail + 2 ^ 32 - (s.queue q).head) % 2 ^ 32 ≤ 2 ^ e.log2 →
      ∃ t, exec (.doorbell off data) s = .next t ∧ (t.queue q).tail = tail ∧ (t.queue q).head = (s.queue q).head ∧
        (t.queue q).rerun = (s.queue q).rerun ∧
        (∀ q', q' ≠ q → t.queue q' = s.queue q') ∧ s.SameBytes t ∧
        (tail = (s.queue q).tail →
          t = if le bs 10 1 % 2 = 1 then s.addPeg (le bs 8 2) (le bs 12 4) 30 e.ctx else s) ∧
        (le bs 10 1 % 2 = 0 → s.SameRegs t []) ∧
        (le bs 10 1 % 2 = 1 → s.pegIn e.ctx (le bs 8 2) = true →
          t.peg (le bs 8 2) = min (2 ^ 32 - 1) (s.peg (le bs 8 2) + le bs 12 4) ∧
          s.SameRegs t [(Reg.pegCountCount (le bs 8 2)).off])))

/-- O25. A write of EVT_READ takes effect only when (EVT_WRITE - value) mod 2^32 is at most the ring's size, else
the previous value stays and a malformed-access event is recorded; the same of EVT_CREAD. -/
def Obligations.EventReadIndex : Prop :=
  ∀ (p : Path) (v : Word) (s : State), s.reach p = true → s.up = true →
  let ok (write size : Field) : Prop :=
    (s.fld write + 2 ^ 32 - v.toNat) % 2 ^ 32 ≤ 2 ^ s.fld size
  (ok Reg.evtWriteIndex Reg.evtSizeLog2 → exec (.evtReadWrite p v) s = .next (s.setReg 0x30010 v)) ∧
  (¬ok Reg.evtWriteIndex Reg.evtSizeLog2 →
    exec (.evtReadWrite p v) s = .next (s.raise (srcPath p) 0xC 0x07 (0x30010 / 16))) ∧
  (ok Reg.evtCwriteIndex Reg.evtCsizeLog2 → exec (.evtCreadWrite p v) s = .next (s.setReg 0x30030 v)) ∧
  (¬ok Reg.evtCwriteIndex Reg.evtCsizeLog2 →
    exec (.evtCreadWrite p v) s = .next (s.raise (srcPath p) 0xC 0x07 (0x30030 / 16)))

/-- O26. EVT_CTL: a 1 written to EN while it reads 0 sets EVT_WRITE and EVT_READ to 0 and enables the ring; a 1
written while it reads 1 changes neither count; a 0 disables it. CEN governs the cascade ring in the same way. No
other register and no byte changes, and nothing is recorded. -/
def Obligations.EventRingEnable : Prop :=
  ∀ (p : Path) (other : Bool) (s : State), s.reach p = true → s.up = true →
  let same (t : State) : Prop := s.SameBytes t ∧ t.raised = s.raised ∧
    s.SameRegs t [0x3000C, 0x30010, 0x30018, 0x3002C, 0x30030]
  (∃ t, exec (.evtRingEnable p other) s = .next t ∧ same t ∧ t.fld Reg.evtCtlEn = 1 ∧
    t.fld Reg.evtCtlCen = other.toNat ∧
    (s.fld Reg.evtCtlEn = 0 → t.fld Reg.evtWriteIndex = 0 ∧ t.fld Reg.evtReadIndex = 0) ∧
    (s.fld Reg.evtCtlEn = 1 → t.fld Reg.evtWriteIndex = s.fld Reg.evtWriteIndex ∧
      t.fld Reg.evtReadIndex = s.fld Reg.evtReadIndex)) ∧
  (∃ t, exec (.evtRingDisable p other) s = .next t ∧ same t ∧ t.fld Reg.evtCtlEn = 0 ∧
    t.fld Reg.evtCtlCen = other.toNat ∧ t.fld Reg.evtWriteIndex = s.fld Reg.evtWriteIndex ∧
    t.fld Reg.evtReadIndex = s.fld Reg.evtReadIndex) ∧
  (∃ t, exec (.evtCascadeEnable p other) s = .next t ∧ same t ∧ t.fld Reg.evtCtlCen = 1 ∧
    t.fld Reg.evtCtlEn = other.toNat ∧
    (s.fld Reg.evtCtlCen = 0 → t.fld Reg.evtCwriteIndex = 0 ∧ t.fld Reg.evtCreadIndex = 0) ∧
    (s.fld Reg.evtCtlCen = 1 → t.fld Reg.evtCwriteIndex = s.fld Reg.evtCwriteIndex ∧
      t.fld Reg.evtCreadIndex = s.fld Reg.evtCreadIndex)) ∧
  (∃ t, exec (.evtCascadeDisable p other) s = .next t ∧ same t ∧ t.fld Reg.evtCtlCen = 0 ∧
    t.fld Reg.evtCtlEn = other.toNat ∧ t.fld Reg.evtCwriteIndex = s.fld Reg.evtCwriteIndex ∧
    t.fld Reg.evtCreadIndex = s.fld Reg.evtCreadIndex)

/-- O27. The event collector takes the oldest record that a source has raised, behind the messages of a higher class
that wait at its die's ligger node. With the ring enabled and not full
it stands in slot EVT_WRITE mod 2^LOG2 as the 16 bytes of its fields and EVT_WRITE has advanced by 1, and a member module
has then sent it to the ridge as an event message; with the ring
full or disabled it is discarded, EVT_LOST counts it and the ring is unchanged. While the stacks are in self-refresh
it joins a buffer of 64 records; a record beyond them is lost and counted. A flush writes the buffered records into the
ring in the order of their arrival, 16 bytes each, on a member module too. -/
def Obligations.EventCollector : Prop :=
  ∀ s : State, s.Canonical → s.up = true →
  let slot (k : Nat) := s.evtBase + (s.fld Reg.evtWriteIndex + k) % 2 ^ s.fld Reg.evtSizeLog2 * 16
  let lost (t : State) : Prop := s.SameBytes t ∧ s.SameRegs t [0x30014] ∧
    t.fld Reg.evtLostCount = min 0xFFFFFFFF (s.fld Reg.evtLostCount + 1)
  let told (u : State) (r : EventRec) : State :=
    let m : Msg := { mtype := 5, ctx := 0, tag := 0, dest := 0, src := s.ownCoord, collseq := 0, offset := 0, len := 16
                     data := r.toBytes }
    match u.route none 0 0 with
    | some port => u.sendMsg port (u.leavesAs port none m) none m
    | none => u
  (∀ src r, (s.raised.find? fun x => decide (x.src = src)) = some r →
    let a := State.liggerAhead { s with raised := s.raised.erase r } src.die .event
    (s.transit.selfRefresh = false → s.evtBuf = [] →
      (s.flag Reg.evtCtlEn = true → s.evtFull = false → (∀ i, i < 16 → s.writable (slot 0 + i) = true) →
        ∃ t more, exec (.eventRecord src) s = .next (if s.fld Reg.kpBeaconRole = 2 then told t r else t) ∧
          t.raised = a.raised ++ more ∧
          (∀ x, t.peek x = if slot 0 ≤ x ∧ x < slot 0 + 16 then r.toBytes.getD (x - slot 0) 0 else s.peek x) ∧
          t.fld Reg.evtWriteIndex = (s.fld Reg.evtWriteIndex + 1) % 2 ^ 32 ∧
          t.fld Reg.evtReadIndex = s.fld Reg.evtReadIndex ∧ t.fld Reg.evtLostCount = s.fld Reg.evtLostCount) ∧
      ((s.flag Reg.evtCtlEn = false ∨ s.evtFull = true) →
        ∃ t, exec (.eventRecord src) s = .next t ∧ t.raised = a.raised ∧ lost t)) ∧
    (s.transit.selfRefresh = true → s.flag Reg.evtCtlEn = true →
      (s.evtBuf.length < 64 →
        exec (.eventRecord src) s = .next { a with evtBuf := s.evtBuf ++ [r] }) ∧
      (64 ≤ s.evtBuf.length → ∃ t, exec (.eventRecord src) s = .next t ∧ t.evtBuf = s.evtBuf ∧ lost t))) ∧
  (s.transit.selfRefresh = false → ∃ t, exec .eventBufferFlush s = .next t ∧ t.evtBuf = [] ∧
    (s.flag Reg.evtCtlEn = true → s.fld Reg.evtSizeLog2 < 32 →
      s.evtBuf.length + (s.fld Reg.evtWriteIndex + 2 ^ 32 - s.fld Reg.evtReadIndex) % 2 ^ 32 ≤
        2 ^ s.fld Reg.evtSizeLog2 →
      t.fld Reg.evtWriteIndex = (s.fld Reg.evtWriteIndex + s.evtBuf.length) % 2 ^ 32 ∧
      t.fld Reg.evtLostCount = s.fld Reg.evtLostCount ∧
      ((∀ k i, k < s.evtBuf.length → i < 16 → s.writable (slot k + i) = true) →
        (∀ k i r, s.evtBuf[k]? = some r → i < 16 → t.peek (slot k + i) = r.toBytes.getD i 0) ∧
        ∀ x, (∀ k, k < s.evtBuf.length → x < slot k ∨ slot k + 16 ≤ x) → t.peek x = s.peek x)))

/-- O28. A course boundary, in order. The course count advances by 1 and the reference phase
restarts; a planned clock is in force; every pending set has become live, in order, and none waits, those of the course that ends being kept for older requests; a die whose count differs is recorded as it adopts the master's, with
that count (the model's choice, log entry 102). A ridge or a locked member has sent a beacon with its own count and the
ridge count on each port of its image's mask, and any other module none. It stands on the fibre of each such port that is UP as a control flit of its lowest lane in use (layout the model's: log entry 123). While the clocks of the Rafter dies run (`mid` is the state after their actions): a swap that has ended gives
its bay to the incoming context, and one that runs on is marked; the Lofts hold the lines of their keep windows alone, in
their order; a bay whose spare is prepared and on which no task runs is isolated: its spare has its logical number in BAY_MAP and its occupant, BAY_SPARE names no spare and the bay as retired, the bay is off, and its aborted tasks stand in
their queues, but for those not performed again; every task that still runs has slipped, and none is selected. A marked
lane of a link with at most two such lanes is repaired and recorded. Then (`a` is the state after all this) swaps begin,
none in an exclusive image, each on a bay of another context and for the context of a queue, and, unless a fatal fault
has stopped selection, tasks are selected: a candidate, when it is the only one and its BUDGET fits, stands in the order
of every bay of its group, marked where it is guarded. No image running, or one stopped, selects nothing. Every head that
is ready and not selected has waited one window more. A selection puts the task, in each bay of its group, behind those
that the bay reaches no later and before the others, counts it there, advances HEAD and writes it to the head-report
address, and gives up its queue's watch. -/
def Obligations.CourseBoundary : Prop :=
  (∀ (deviant : List Nat) (s : State), s.up = true →
  let sends : Prop := s.fld Reg.kpBeaconRole = 1 ∨ (s.fld Reg.kpBeaconRole = 2 ∧ s.fld Reg.kpBeaconLock = 1)
  let mask := ((s.image.bind Image.cascade).map fun c => c.downMask).getD 0
  let own := s.course.count + 1
  let ridge := if s.fld Reg.kpBeaconRole = 1 then own else own + s.course.ofs
  let mid := ((s.advanceCourse.applyClock.applyCommits.sendBeacons).adoptCount deviant).noteRecovery.rafterBoundary
  let a := mid.repairLanes.resetBoundary.dormerBoundary
  let runs : Prop := s.clocked = true ∨ s.transit.leaving = true
  let lineAddr (l : LoftLine) : Nat := (l.tag * 2 ^ 15 + (l.set ^^^ l.tag % 2 ^ 15)) * 128
  let sameLink (x y : Nat × Nat × Bool × Nat) : Prop := x.1 = y.1 ∧ x.2.1 = y.2.1 ∧ x.2.2.1 = y.2.2.1
  let v := if a.stopped = true then a
    else if a.reliab.fatal = true then a.swapPass else (List.range 24).foldl State.selectDie a.swapPass
  ∃ t, exec (.courseBoundary deviant) s = .next t ∧ t = a.schedule ∧
    t.course.count = s.course.count + 1 ∧ t.course.phase = 0 ∧
    t.commits = [] ∧
    t.live = (s.commits.flatMap Prod.snd).foldl (fun l w => Store.set l w.1 w.2 (RegMap.resetWord w.1)) s.live ∧
    (runs → ∀ b r, r ∈ (t.bay b).running → r.slipped = true) ∧
    t.prev = s.live ∧
    (∀ d ∈ deviant, d < 32 → ∃ x ∈ t.raised, x.src = (if d < 24 then ⟨d, 0xF⟩ else ⟨30, 2⟩) ∧ x.cls = 0x1 ∧ x.num = 0x05 ∧
      x.detail = (s.course.count + 1).toNat % 2 ^ 24) ∧
    (sends → t.course.beacons =
      ((List.range 32).filter fun p => bits mask p 1 = 1).map fun p => (p, own.toNat, ridge.toNat)) ∧
    (¬sends → t.course.beacons = []) ∧
    (∀ port : Nat,
      (sends → bits mask port 1 = 1 → hasLinkLayer port = true → s.pstate port = 2 →
        ∃ time, (t.port port).sent = (s.port port).sent ++ [flitBytes 0 15 ((s.port port).expect + 4095) 0 0 0
            (Config.controlPayload 2 [own.toNat, ridge.toNat, time])] ∧
          (t.port port).laneOf = (s.port port).laneOf ++ [(lanesOf (s.fld (Reg.eavStateLanes port))).headD 0]) ∧
      ((¬sends ∨ bits mask port 1 = 0 ∨ hasLinkLayer port = false ∨ s.pstate port ≠ 2) →
        (t.port port).sent = (s.port port).sent)) ∧
    -- the clock (17 R469)
    (∀ f, s.reliab.mhz = some f → t.fld Reg.kpClockMhz = f % 2 ^ 16 ∧
      (1424 ≤ f → t.fld Reg.wthPlanReplan = 0)) ∧
    (s.reliab.mhz = none → t.fld Reg.kpClockMhz = s.fld Reg.kpClockMhz) ∧
    t.reliab.mhz = none ∧ t.reliab.vsteps = [] ∧
    -- swaps that have ended (12 R334, R335)
    (runs → s.reliab.preparing = [] → s.reliab.losing = [] → ∀ b w, b.wf = true → (s.bay b).swap = some w →
      (w.done = true → (mid.bay b).swap = none ∧ mid.occupant b = some (w.into % 64)) ∧
      (w.done = false → (mid.bay b).swap = some { w with overrun := true } ∧ mid.occupant b = s.occupant b)) ∧
    -- the Lofts (10 R269)
    (runs → t.plru = [] ∧
      (∀ e ∈ t.loft, mid.loftKept e.1 (lineAddr e.2) = true ∧ ∃ l, (e.1, l) ∈ s.loft ∧ l.set = e.2.set ∧
        l.way = e.2.way ∧ l.tag = e.2.tag) ∧
      (∀ e ∈ s.loft, mid.loftKept e.1 (lineAddr e.2) = true → ∃ l, (e.1, l) ∈ t.loft ∧ l.set = e.2.set ∧
        l.way = e.2.way ∧ l.tag = e.2.tag)) ∧
    -- isolation (17 R458, R461)
    (∀ die l p cause sp, runs → die < 24 → l < 8 → p < 9 →
      (die, l, p, cause, true) ∈ s.reliab.preparing → (∀ e ∈ s.reliab.losing, e.1 ≠ die) →
      (∀ e ∈ s.reliab.preparing, e.1 = die → e = (die, l, p, cause, true)) →
      s.spareOf die = some sp → sp.pbay ≠ p → s.runningOn ⟨die, p⟩ = [] → (s.bay ⟨die, p⟩).swap = none →
      t.physical ⟨die, l⟩ = some sp ∧
      (∀ k, k < 8 → k ≠ l → t.physical ⟨die, k⟩ = s.physical ⟨die, k⟩) ∧
      t.spareOf die = none ∧ t.bayRetired ⟨die, p⟩ = true ∧
      (∀ q, q < 9 → q ≠ p → t.bayRetired ⟨die, q⟩ = s.bayRetired ⟨die, q⟩) ∧
      (t.bay ⟨die, p⟩).off = true ∧ t.occupant sp = s.occupant ⟨die, p⟩ ∧
      (∀ e ∈ t.reliab.preparing, e.1 ≠ die) ∧
      (∃ x ∈ t.raised, x.src = ⟨die, 0xF⟩ ∧ x.cls = 0x9 ∧ x.num = 0x02 ∧ x.detail = (p + cause * 2 ^ 4) % 2 ^ 24) ∧
      ∀ x ∈ (s.bay ⟨die, p⟩).aborted, x.overlaps = false →
        x.task ∈ (mid.queue x.task.queue).rerun ∧
        ∃ y ∈ t.raised, y.src = ⟨die, sp.pbay⟩ ∧ y.cls = 0x9 ∧ y.num = 0x05 ∧
          y.detail = (x.task.queue + x.cause * 2 ^ 14) % 2 ^ 24) ∧
    -- lanes of the mesh (17 R453)
    (∀ x ∈ s.reliab.marked,
      ((s.reliab.marked ++ s.reliab.repaired).filter fun y => decide (sameLink y x)).length ≤ 2 →
      x ∈ t.reliab.repaired ∧ x ∉ t.reliab.marked ∧
      ∃ y ∈ t.raised, y.src = ⟨x.1, 0xF⟩ ∧ y.cls = 0x9 ∧ y.num = 0x08) ∧
    -- swaps that begin (12 R332 to R334, R345)
    (∀ b w, (t.bay b).swap = some w → (a.bay b).swap = some w ∨
      (a.stopped = false ∧ a.flag Reg.kpSchedExcl = false ∧ w.done = false ∧ w.overrun = false ∧
        (∃ y, bayKey y = bayKey b ∧ w.out = a.occupant y ∧ w.out ≠ some w.into) ∧ ∃ q e, a.queueEntry q = some e ∧ e.ctx = w.into)) ∧
    (∀ b w, (a.bay b).swap = some w → (t.bay b).swap = some w) ∧
    -- selection (12 R326, R328 to R330)
    (runs → ∀ b, (mid.bay b).selected = []) ∧
    (a.stopped = true ∨ a.reliab.fatal = true → ∀ b, (t.bay b).selected = (a.bay b).selected) ∧
    (a.stopped = false → a.reliab.fatal = false → let u := a.swapPass
      ∀ q e x p bs, u.queueEntry q = some e → e.prio < 16 → u.candidate q = some (x, p, bs) →
      (∀ q', q' ≠ q → u.candidate q' = none) → p.die < 24 → dBudget x.desc ≤ u.selectLimit →
      (u.queue q).head < 2 ^ 32 → (u.queue q).tail < 2 ^ 32 →
      ∀ b ∈ bs, { x with guard := u.guarded e x } ∈ (t.bay b).selected) ∧
    (∀ q, (v.readyHead q).isSome = true → (v.queue q).rerun = [] → (t.queue q).wait = (v.queue q).wait + 1)) ∧
  -- what a selection does (11 R320, 12 R328, R329, R346)
  ∀ (s : State) (b : PBay) (e : QueueEntry) (x : Task) (bs : List PBay), b.wf = true → (∀ y ∈ bs, y.wf = true) →
  (bs.map bayKey).Nodup → s.queueEntry x.queue = some e →
  let t := s.select b e x bs
  let head := if (s.queue x.queue).rerun = [] then ((s.queue x.queue).head + 1) % 2 ^ 32 else (s.queue x.queue).head
  (t.queue x.queue).head = head ∧ (t.queue x.queue).tail = (s.queue x.queue).tail ∧
  (t.queue x.queue).rerun = (s.queue x.queue).rerun.tail ∧
  ((s.queue x.queue).rerun = [] → (t.queue x.queue).wait = 0 ∧
    ∀ w ∈ t.watches, w.queue = x.queue → w.arrived = false) ∧
  (∀ y ∈ bs, ∃ l1 l2, (s.bay y).selected = l1 ++ l2 ∧ (t.bay y).selected = l1 ++ x :: l2 ∧
    (∀ z ∈ l1, t.walkPlace z ≤ t.walkPlace x) ∧ (∀ z, l2.head? = some z → t.walkPlace x < t.walkPlace z) ∧
    t.fld (Reg.baySchedSelected y) = min 0xFFFF (s.fld (Reg.baySchedSelected y) + 1)) ∧
  (∀ y, bayKey y ∉ bs.map bayKey → t.bay y = s.bay y) ∧
  (s.Canonical → (∀ i, i < 4 → s.writable (e.headRep + i) = true) → ∀ y, t.peek y =
    if e.headRep ≤ y ∧ y < e.headRep + 4 then (toLe 4 head).getD (y - e.headRep) 0 else s.peek y) ∧
  t.fld (if e.be then Reg.bayWaitmaxBe b else Reg.bayWaitmaxLc b) =
    max (s.fld (if e.be then Reg.bayWaitmaxBe b else Reg.bayWaitmaxLc b)) (min 0xFFFF x.wait)

/-- O29. Beacons on a member. Each arrival on the upstream port takes off the time that the beacon carries and half the
round trip, and leaves the deviation in KP_BEACON.ERROR, in ns, rounded down and saturated to 16 bits (the rounding is the
model's choice, log entry 103; a late beacon's is positive, log entry 129), the offset to the ridge's count in
KP_BEACON_OFS, and the count of consecutive arrivals within 20 ns; sixteen of them lock the course, which is recorded with ERROR; four beacons missed
unlock it, which is recorded with the upstream port. The reference is steered toward the beacon, slower for a late one
and faster for an early one, within 100 ppm; by how much is an open value (log entry 52). -/
def Obligations.Beacons : Prop :=
  ∀ (port count ridge : Nat) (time : BeaconTime) (s : State), s.up = true → s.fld Reg.kpBeaconRole = 2 →
  let e : Int := time.arrived - time.carried - (4 * s.fld (Reg.eavRttNs port) : Nat)
  (port = s.fld Reg.kpBeaconUpport → ∃ t, exec (.beaconReceive port count ridge time) s = .next t ∧
    t.course.ofs = BitVec.ofNat 48 ridge - s.course.count ∧ t.course.count = s.course.count ∧
    t.course.heard = true ∧ (0 < e → -100 ≤ t.course.trim ∧ t.course.trim ≤ 0) ∧
    (e < 0 → 0 ≤ t.course.trim ∧ t.course.trim ≤ 100) ∧ (e = 0 → t.course.trim = s.course.trim) ∧
    t.course.good = (if -160 ≤ e ∧ e ≤ 160 then s.course.good + 1 else 0) ∧
    ofTwos 16 (t.fld Reg.kpBeaconError) = max (-0x8000) (min 0x7FFF (e.fdiv 8)) ∧ s.SameRegs t [0x20010] ∧
    t.fld Reg.kpBeaconLock = s.fld Reg.kpBeaconLock ∧ s.SameBytes t) ∧
  (s.fld Reg.kpBeaconLock = 0 → 16 ≤ s.course.good → exec .beaconLock s =
    .next ((s.setFld Reg.kpBeaconLock 1).raise ⟨30, 2⟩ 0x1 0x04 (s.fld Reg.kpBeaconError))) ∧
  (s.course.good < 16 → exec .beaconLock s = .next s) ∧
  (4 ≤ s.course.missing → ∃ t, exec .beaconLost s = .next t ∧ t.fld Reg.kpBeaconLock = 0 ∧
    t.course.trim = s.course.trim ∧ s.SameRegs t [0x20010] ∧
    t.raised = s.raised ++ [s.nextRec ⟨30, 2⟩ 0x1 0x03 (s.fld Reg.kpBeaconUpport)]) ∧
  (s.course.missing < 4 → exec .beaconLost s = .next s)

/-- O30. One grant opportunity of a valley arbiter, with or without registers; when WINDOW of them have passed, the
counts start at 0. A request stands at a used input, and at a media engine's for a slot that codes; its lane is the
input together with its class, which is its queue's, latency-critical where no task issued it, and at an engine, as
wherever the engine itself asks for a session, the session's. No lane is granted exactly when none that asks is admitted by the slot entry. The lane granted asks and is
admitted; a masked lane is granted only when every lane that asks and is admitted is masked; no lane of its round has a
higher level; of its level it is the first at or after the level's pointer in lane order, wrapping. It holds the
resource; its count and the pointer move on, and nothing else of the counts does. The request of a task that runs
across the boundary is judged by the set before it, every other by the live set; an arbiter without registers has
every lane at level 0 and no quota. An arbiter of a die without power, or whose clocks are stopped, grants nothing. -/
def Obligations.ArbiterGrant : Prop :=
  ∀ (blk : Nat) (ofTasks : List TaskAsk) (ofUnits : List UnitAsk) (s : State),
  RegMap.arbBlock blk = some blk ∨ isRouter blk = true →
  let asks := askList ofTasks ofUnits
  let stands (x : Ask) : Prop := x ∈ asks ∧ askInput x < inputsOf (resourceOf blk) ∧
    (resourceOf blk = .engine → (s.session (engOfArb blk) (askInput x)).coding = true ∧
      (s.session (engOfArb blk) (askInput x)).waiting = false)
  let file (e : Eng) (slot : Nat) : Prop := bits (le (s.session e slot).block 0 1) 1 1 = 0
  let be (x : Ask) : Prop :=
    if resourceOf blk = .engine then file (engOfArb blk) (askInput x)
    else match x with
      | .task y => ∃ e, s.queueEntry y.queue = some e ∧ e.be = true
      | .unit y => ∃ e slot, y.session = some (e, slot) ∧ file e slot
  let across (x : Ask) : Prop := match x with
    | .task y => ∃ r ∈ (s.bay y.bay).running, r.slipped = true ∧ r.task.queue = y.queue
    | .unit _ => False
  let onLane (x : Ask) (l : Nat) : Prop := (be x ∧ l = askInput x + 16) ∨ (¬be x ∧ l = askInput x)
  let first (l : Nat) : Option Ask := (asks.filter (s.mayAsk blk)).find? fun x => decide (s.askLane blk x = l)
  let set_ (l : Nat) : ArbSet := if (first l).any s.slips then .prev else .live
  let a := if s.arbWindow blk ≤ (s.arb blk).pos then
    { s.arb blk with grants := List.replicate 32 0, pos := 0 } else s.arb blk
  let asking (l : Nat) : Prop := l < 32 ∧ (first l).isSome = true ∧ s.arbAdmits (set_ l) blk l = true
  let masked (l : Nat) : Prop := s.arbLimit (set_ l) blk l ≠ 0 ∧ s.arbLimit (set_ l) blk l ≤ a.grants.getD l 0
  let level (l : Nat) : Nat := s.arbLevel (set_ l) blk l
  (∀ l, (∃ x, stands x ∧ onLane x l) ↔ (first l).isSome = true) ∧
  (∀ l x, first l = some x → stands x ∧ onLane x l ∧ (s.slips x = true ↔ across x)) ∧
  (isRouter blk = true → ∀ l, l < 32 → level l = 0 ∧ ¬masked l ∧ (asking l ↔ (first l).isSome = true)) ∧
  (s.arbRuns blk = false → exec (.arbiterGrant blk ofTasks ofUnits) s = .next s) ∧
  (s.arbRuns blk = true → ∃ t, exec (.arbiterGrant blk ofTasks ofUnits) s = .next t ∧ s.SameBytes t ∧ t.raised = s.raised ∧
    s.SameRegs t [(Reg.vlyWaitmaxOpp blk).off] ∧ t.live = s.live ∧ t.prev = s.prev ∧
    (t.arb blk).pos = a.pos + 1 ∧ (∀ x, x ≠ blk → t.arb x = s.arb x) ∧
    (t.resp = .none ↔ ∀ l, ¬asking l) ∧
    (t.resp = .none → (t.arb blk).grants = a.grants ∧ (t.arb blk).pointers = a.pointers ∧
      (t.arb blk).holder = none) ∧
    ∀ l, t.resp = .word l →
      let ptr := a.pointers.getD (level l) 0
      let round (x : Nat) : Prop := asking x ∧ (masked x ↔ masked l)
      let best (x : Nat) : Prop := round x ∧ level x = level l
      asking l ∧ (masked l → ∀ x, asking x → masked x) ∧ (∀ x, round x → level x ≤ level l) ∧
      ((ptr ≤ l ∧ ∀ x, best x → ptr ≤ x → l ≤ x) ∨ (∀ x, best x → x < ptr ∧ l ≤ x)) ∧
      (t.arb blk).holder = some l ∧
      (t.arb blk).grants = a.grants.set l (a.grants.getD l 0 + 1) ∧
      (t.arb blk).pointers = a.pointers.set (level l) ((l + 1) % 32))

/-- O31. After WINDOW grant opportunities the quota window ends: every lane's count, and with it its mask, is
cleared, and no pointer moves; in a die without power or clocks nothing happens (18 R487). A slot boundary takes every die to the next of the 64 slots of 16 reference cycles.
Nothing else changes. -/
def Obligations.QuotaWindowAndSlots : Prop :=
  ∀ (blk : Nat) (s : State),
  (RegMap.arbBlock blk = some blk → s.arbRuns blk = false → exec (.quotaWindowEnd blk) s = .next s) ∧
  (RegMap.arbBlock blk = some blk → s.arbRuns blk = true → s.arbWindow blk ≤ (s.arb blk).pos →
    exec (.quotaWindowEnd blk) s =
      .next (s.setArb blk { s.arb blk with grants := List.replicate 32 0, pos := 0 }) ∧
    ∀ w l t, exec (.quotaWindowEnd blk) s = .next t → t.arbMasked w blk l = false) ∧
  (s.up = true → s.course.phase.toNat / 16 < 63 → ∃ t, exec .slotBoundary s = .next t ∧
    t.course.phase.toNat = (s.course.phase.toNat / 16 + 1) * 16 ∧
    t = { s with course := { s.course with phase := t.course.phase } })

/-- O32. The arbiters' registers while the expert feature bit is agreed: a shadow write changes the shadow alone; a
commit copies every RWS word, as it stood before a write of the same cycle, into the pending set in the place of any
earlier one, unless WINDOW lies outside 0x040 to 0xFFF, a lane at level 1 to 3 has limit 0, or the limits of those
lanes sum to more than WINDOW - 32: then the pending set stays and a malformed-access event is recorded. Without the
expert bit each write is ignored with an access-refused event. -/
def Obligations.ArbiterCommit : Prop :=
  ∀ (p : Path) (blk : Nat) (s : State), RegMap.arbBlock blk = some blk →
  let go := (Reg.vlyCommitGo blk).off
  let window := s.fld (Reg.vlyQuotaWindow blk)
  let upper := (List.range 32).filter fun l => 1 ≤ (s.shadowLane blk l).1
  let bad : Prop := window < 0x040 ∨ 0xFFF < window ∨ (∃ l ∈ upper, (s.shadowLane blk l).2 = 0) ∨
    window < (upper.map fun l => (s.shadowLane blk l).2).sum + 32
  (∀ (o : Nat) (v : Word), o ∈ arbShadows → s.Carries p (blk + o) →
    (s.expert = true → ∃ t, exec (.vlyShadowWrite p (blk + o) v) s = .next t ∧ s.SameRegs t [blk + o] ∧
      t.live = s.live ∧ t.commits = s.commits ∧ t.raised = s.raised ∧
      ∀ r f, RegMap.at? (blk + o) = some r → f ∈ r.fields → f.acc = .rws →
        t.fld ⟨blk + o, f.lo, f.width⟩ = bits v.toNat f.lo f.width) ∧
    (s.expert = false →
      exec (.vlyShadowWrite p (blk + o) v) s = .next (s.raise (srcPath p) 0xC 0x0A ((blk + o) / 16)))) ∧
  (s.Carries p go →
    (s.expert = true → ¬bad → ∀ same, ∃ t, exec (.vlyCommit p blk same) s = .next t ∧ t.live = s.live ∧
      t.commits = (s.commits.filter fun e => e.1 ≠ blk) ++ [(blk, arbShadows.map fun o => (blk + o, s.reg (blk + o)))] ∧
      (same = none → t.regs = s.regs ∧ t.raised = s.raised)) ∧
    (s.expert = true → bad → exec (.vlyCommit p blk none) s = .next (s.raise (srcPath p) 0xC 0x07 (go / 16))) ∧
    (s.expert = false → exec (.vlyCommit p blk none) s = .next (s.raise (srcPath p) 0xC 0x0A (go / 16))))

/-- O33. Registers that a read restarts: VLY_WAITMAX and BAY_WAITMAX answer the longest waits since their last read
and start again at 0; EAV_CRED answers the credits held and the fewest since, and starts again from those held now;
FL_PIN answers the mean and the largest sample since the last read, and starts again. Nothing else changes. -/
def Obligations.RestartingReads : Prop :=
  ∀ (p : Path) (s : State),
  (∀ blk, RegMap.arbBlock blk = some blk → s.Carries p (Reg.vlyWaitmaxOpp blk).off →
    ∃ t, exec (.vlyWaitmaxRead p blk) s = .next t ∧ s.SameBytes t ∧ s.SameRegs t [(Reg.vlyWaitmaxOpp blk).off] ∧
      t.resp = .word (s.fld (Reg.vlyWaitmaxOpp blk) + s.fld (Reg.vlyWaitmaxLane blk) * 2 ^ 16) ∧
      t.fld (Reg.vlyWaitmaxOpp blk) = 0 ∧ t.fld (Reg.vlyWaitmaxLane blk) = 0) ∧
  (∀ b : PBay, b.wf = true → s.Carries p (Reg.bayWaitmaxLc b).off →
    ∃ t, exec (.bayWaitmaxRead p b) s = .next t ∧ s.SameBytes t ∧ s.SameRegs t [(Reg.bayWaitmaxLc b).off] ∧
      t.resp = .word (s.fld (Reg.bayWaitmaxLc b) + s.fld (Reg.bayWaitmaxBe b) * 2 ^ 16) ∧
      t.fld (Reg.bayWaitmaxLc b) = 0 ∧ t.fld (Reg.bayWaitmaxBe b) = 0) ∧
  (∀ port, port < 32 → s.Carries p (Reg.eavCredAvail port).off →
    ∃ t, exec (.eavCredRead p port) s = .next t ∧ s.SameBytes t ∧ s.SameRegs t [(Reg.eavCredAvail port).off] ∧
      t.resp = .word ((s.port port).credits.getD 0 0 % 2 ^ 11 + s.fld (Reg.eavCredMin port) * 2 ^ 11) ∧
      t.fld (Reg.eavCredMin port) = (s.port port).credits.getD 0 0 % 2 ^ 11) ∧
  (∀ watts peak, watts < 2 ^ 16 → peak < 2 ^ 16 → s.Carries p Reg.flPinW.off →
    ∃ t, exec (.flPinRead p watts peak) s = .next t ∧ s.SameBytes t ∧ s.SameRegs t [Reg.flPinW.off] ∧
      t.resp = .word (watts + max (s.fld Reg.flPinPeak) peak * 2 ^ 16) ∧ t.fld Reg.flPinPeak = 0)

/-- O34. The start of a task whose results follow from its operands: past its checks, GEMM, CONV, DWCONV, ATTN, ELEM,
SFU, NORM, POOL, MOVE or KVAPPEND runs with the results that its rules give, every output formed and none written
before it leaves by a gutter or the task completes, and the SRAM words corrected in the reads of its bays counted there.
An uncorrectable word of one of its bays aborts the task and faults that bay. That a task reads its inputs, forms its
outputs and counts in the command that starts it is the model's choice (log entries 18, 19, 85). -/
def Obligations.TaskRuns : Prop :=
  ∀ (l : Bay) (m : Nat) (e : Sram) (b : PBay) (t : Task) (a s : State),
  let x := (s.teamOf b t).getD m b
  let runs (i : Instr) (op : Nat) (parts : Parts) : Prop :=
    s.Starts l (op, 0) b t a →
    (e.bad = none → ∃ u, exec i s = .next u ∧ a.RunsWith u b x t parts e.corrected) ∧
    (∀ word, e.bad = some word → x.wf = true → (∀ r ∈ (a.bay b).running, r.task ≠ t) →
      ∃ u, exec i s = .next u ∧ a.WordFault u b x t word)
  runs (.gemm l m e) opGemm (gemmParts a b t) ∧ runs (.conv ⟨l, m, e⟩) opConv (convParts a b t) ∧
  runs (.dwconv ⟨l, m, e⟩) opDwconv (dwconvParts a b t) ∧
  runs (.attn ⟨l, m, e⟩) opAttn (attnParts a b t) ∧ runs (.elem ⟨l, m, e⟩) opElem (elemParts a b t) ∧
  runs (.sfu ⟨l, m, e⟩) opSfu (sfuParts a b t) ∧ runs (.norm ⟨l, m, e⟩) opNorm (normParts a b t) ∧
  runs (.pool ⟨l, m, e⟩) opPool (poolParts a b t) ∧ runs (.move ⟨l, m, e⟩) opMove (moveParts a b t) ∧
  runs (.kvappend ⟨l, m, e⟩) opKvappend (kvappendParts a b t)

/-- O35. The start of a REDUCE of each kind, when no collective of the kind waits on the bay: within one bay group
it runs with the results that its rules give; over the dies of a span it waits until the tasks of all of them run, and
then each has its own part of the results. Across a cascade a module alone has the results at once; one of more members
takes its context's next collective number on its axis, or, aborted before, keeps its own, and goes on as does a collective
that waits when its row comes again: it sends its own pieces, each on its port with its own tag, and takes a piece that is
held for it, combined, kept and passed on as its kind says, whose sender is told. That a REDUCE within a module forms
its results when its last die has started, and which port of a direction a piece takes, are the model's choice (log entries
23, 48). -/
def Obligations.ReduceRuns : Prop :=
  ∀ (l : Bay) (m : Nat) (e : Sram) (b : PBay) (t : Task) (a s : State),
  let x := (s.teamOf b t).getD m b
  let ar := a.arithOfQueue t.queue
  let group := a.groupOf t
  let members := if group.isEmpty then [(b, t.desc)] else group.map fun x => (x, t.desc)
  let axis := redAxis t.desc
  let key := 4 * (a.queueCtx t.queue).getD 0 + axis
  let c := a.collOf b t (t.coll.getD (a.nextColl ((a.queueCtx t.queue).getD 0) axis))
  let own := (mapCnt ((List.range (redCount t.desc)).map fun i => a.srcCode c.member i) (redConvert c.ar c.fmt c.dst)).1
  let runs (i : Instr) (kind : Nat) : Prop :=
    (∀ r, s.physical l = some b → s.waitingColl b kind = some r → e.bad = none →
      ∃ u, exec i s = .next u ∧ (s.collOf b r.task (r.coll.getD 0)).GoesOn s u r) ∧
    (s.Starts l (opReduce, kind) b t a → s.waitingColl b kind = none →
    (e.bad = none → ∃ u, exec i s = .next u ∧
      (redScope t.desc = 0 → a.RunsWith u b x t (a.redParts ar members) e.corrected) ∧
      (redScope t.desc = 1 → ∃ r, r.task = t ∧ r.waiting = true ∧ r.outs = [] ∧
        let v := a.setBay b { a.bay b with running := (a.bay b).running ++ [r] }
        let member (die : Nat) := v.spanMember die (a.spanKey t)
        a.SameBytes u ∧
        ((∃ die ∈ a.spanDies t.queue, member die = none) → u.bays = v.bays) ∧
        ∀ ms : List (PBay × Running), (a.spanDies t.queue).map member = ms.map some →
          let parts := v.redParts ar (ms.map fun m => (m.1, m.2.task.desc))
          ∀ (i : Nat) (m : PBay × Running) (p : PBay × Result), ms[i]? = some m → parts[i]? = some p →
            ∃ r ∈ (u.bay m.1).running, r.task = m.2.task ∧ r.waiting = false ∧ r.outs = p.2.outs) ∧
      (redScope t.desc = 2 → c.n ≤ 1 → a.RunsWith u b x t (a.redParts ar [(b, t.desc)]) e.corrected) ∧
      (redScope t.desc = 2 → 1 < c.n →
        u.mem = a.mem ∧ u.lath = a.lath ∧ u.slots = a.slots ∧
        (t.coll = none → Store.get u.collseq key 0 = (c.seq + 1) % 2 ^ 16) ∧ (t.coll ≠ none → u.collseq = a.collseq) ∧
        ((∀ y ∈ (a.bay b).running, y.waiting = true → y.task.queue ≠ t.queue) → ∃ v r, a.SameBytes v ∧
          v.ports = a.ports ∧ v.held = a.held ∧ (v.bay b).running = (a.bay b).running ++ [r] ∧ r.task = t ∧
          r.waiting = true ∧ r.coll = some c.seq ∧ r.phase = 0 ∧ r.got = 0 ∧ r.taken = [] ∧ r.tags = [] ∧
          (kind = 2 → c.Keeps r (c.me * redCount t.desc) own) ∧ (kind = 3 → c.fromRoot.1 = 0 → c.Keeps r 0 own) ∧
          (kind ≠ 2 → (kind = 3 → c.fromRoot.1 ≠ 0) → r.outs = []) ∧ c.GoesOn v u r))) ∧
    (∀ word, e.bad = some word → x.wf = true → redScope t.desc = 0 → (∀ r ∈ (a.bay b).running, r.task ≠ t) →
      ∃ u, exec i s = .next u ∧ a.WordFault u b x t word))
  runs (.allReduce ⟨l, m, e⟩) 0 ∧ runs (.reduceScatter ⟨l, m, e⟩) 1 ∧ runs (.allGather ⟨l, m, e⟩) 2 ∧ runs (.broadcast ⟨l, m, e⟩) 3 ∧
  runs (.shiftForward ⟨l, m, e⟩) 4 ∧ runs (.shiftBackward ⟨l, m, e⟩) 5

/-- O36. A MEDIA task hands its job to its engine or pre-processor: a session slot that is open for it, with fewer
than four jobs, takes the job last in its order, with the addresses, flags and parameter of the descriptor, and an OPEN that
then stands at its head takes effect (MediaSession); a full
queue or a slot that is not open takes none, the status says QFULL and a job-refused event is recorded. -/
def Obligations.MediaTask : Prop :=
  ∀ (l : Bay) (b : PBay) (t : Task) (a s : State),
  let e := mediaEng t.desc
  let slot := mediaSlot t.desc
  let v := a.session e slot
  let opens := decide (dbits t.desc 50 3 1 = 1 ∧ e.kind ≠ .preprocess)
  let takes (i : Instr) (kind : Nat) : Prop :=
    s.Starts l (opMedia, kind) b t a → t.acted = false →
    (v.jobs.length < 4 → v.refuses e.kind opens = false →
      ∃ u j, exec i s = .next u ∧
        (let o := (a.setSession e slot { v with jobs := v.jobs ++ [j] }).openHead e slot
         u.media = o.media ∧ o.SameBytes u ∧ o.SameRegs u [] ∧ u.raised = o.raised) ∧ a.SameBytes u ∧
        j.src = le t.desc 32 8 ∧
        j.dst = le t.desc 40 8 ∧ j.open_ = opens ∧
        j.close = decide (dbits t.desc 50 4 1 = 1 ∧ e.kind ≠ .preprocess) ∧ j.param = dbits t.desc 56 0 40 ∧
        j.course = a.course.count.toNat ∧ j.ref = a.course.phase.toNat ∧
        (∃ r, (u.bay b).running = (a.bay b).running ++ [r] ∧ r.task = t ∧ r.outs = [])) ∧
    ((4 ≤ v.jobs.length ∨ v.refuses e.kind opens = true) →
      ∃ u x cycles, exec i s = .next u ∧ u.media = a.media ∧ x ∈ u.raised ∧ x.src = srcEng e ∧ x.cls = 0x6 ∧
        x.num = 0x05 ∧ x.detail = slot + (if 4 ≤ v.jobs.length then 0 else 8) ∧
        (u.bay b).running = (a.bay b).running ∧ cycles ≤ 256 ∧
        (a.Canonical → a.StatusWritten u b t.desc (2 ^ 11) cycles))
  takes (.mediaDecode l) 0 ∧ takes (.mediaEncode l) 1 ∧ takes (.mediaPreprocess l) 2 ∧
  -- one that its engine took before an abort is not handed over again (17 R463)
  ∀ (i : Instr) (kind : Nat), (i, kind) ∈ [(.mediaDecode l, 0), (.mediaEncode l, 1), (.mediaPreprocess l, 2)] →
    s.Starts l (opMedia, kind) b t a → t.acted = true → ∃ u, exec i s = .next u ∧ u.media = a.media ∧ a.SameBytes u ∧
      a.SameRegs u [] ∧ u.raised = a.raised ∧ ∃ r, (u.bay b).running = (a.bay b).running ++ [r] ∧ r.task = t ∧ r.outs = []

/-- O37. A task that a check stops runs nothing: it leaves the selected ones of every bay of its group, its event is
recorded, its status (when it asks for one) names the check, and only a no-op signals its peg. Here of every row that
starts a task: the state after it is the one the check gives, whichever row met it. A task whose descriptor, backward
record, parameter block or page table was read poisoned is aborted instead, to be performed again. -/
def Obligations.TaskStoppedByCheck : Prop :=
  ∀ (l : Bay) (m : Nat) (e : Sram) (row : Nat × Nat) (b : PBay) (t : Task) (s c : State) (v : Verdict) (bad : Bool),
  s.frontTask l row = some (b, t) → s.readTask b t = (c, v, bad) → (v ≠ .runs ∨ bad = true) →
  let u := c.endAtCheck b t v
  let on (i : Instr) (op sub : Nat) : Prop := row = (op, sub) →
    (bad = false → exec i s = .next u) ∧
    (bad = true → ∃ w, exec i s = .next w ∧ (∃ x ∈ (w.bay b).aborted, x.task = t ∧ x.cause = 5) ∧ c.SameBytes w ∧
      ∀ r ∈ (s.bay b).running, r.task ≠ t → r ∈ (w.bay b).running)
  let reduces (i : Instr) (kind : Nat) : Prop := s.waitingColl b kind = none → on i opReduce kind
  let event (num detail : Nat) : Prop :=
    u.raised[c.raised.length]? = some (c.nextRec (srcBay b) 0x2 num (detail % 2 ^ 24))
  let status (flags : Nat) : Prop := c.Canonical → ∃ cycles, cycles ≤ 32 ∧ c.StatusWritten u b t.desc flags cycles
  let n := dSigPeg t.desc
  on (.gemm l m e) opGemm 0 ∧ on (.conv ⟨l, m, e⟩) opConv 0 ∧ on (.dwconv ⟨l, m, e⟩) opDwconv 0 ∧ on (.attn ⟨l, m, e⟩) opAttn 0 ∧
  on (.elem ⟨l, m, e⟩) opElem 0 ∧ on (.sfu ⟨l, m, e⟩) opSfu 0 ∧ on (.norm ⟨l, m, e⟩) opNorm 0 ∧ on (.pool ⟨l, m, e⟩) opPool 0 ∧
  on (.move ⟨l, m, e⟩) opMove 0 ∧ on (.kvappend ⟨l, m, e⟩) opKvappend 0 ∧ on (.pegSet l) opPeg 1 ∧ on (.pegAdd l) opPeg 2 ∧
  on (.pegSub l) opPeg 3 ∧ on (.tieArrive l) opTie 1 ∧ on (.tieReset l) opTie 2 ∧ on (.mediaDecode l) opMedia 0 ∧
  on (.mediaEncode l) opMedia 1 ∧ on (.mediaPreprocess l) opMedia 2 ∧ reduces (.allReduce ⟨l, m, e⟩) 0 ∧
  reduces (.reduceScatter ⟨l, m, e⟩) 1 ∧ reduces (.allGather ⟨l, m, e⟩) 2 ∧ reduces (.broadcast ⟨l, m, e⟩) 3 ∧
  reduces (.shiftForward ⟨l, m, e⟩) 4 ∧ reduces (.shiftBackward ⟨l, m, e⟩) 5 ∧
  (u.bay b).running = (s.bay b).running ∧
  (((s.teamOf b t).map bayKey).Nodup → ∀ x ∈ s.teamOf b t, (u.bay x).selected = (s.bay x).selected.tail) ∧
  (∀ off, v = .malformed (some off) → event 0x02 (t.queue + off % 128 * 2 ^ 14) ∧ status 8) ∧
  (v = .malformed none → event 0x02 (t.queue + 2 ^ 21) ∧ status 8) ∧
  (∀ code, v = .refused code → event 0x01 (t.queue + code * 2 ^ 14) ∧ status 4) ∧
  (∀ page, v = .pageFault page → event 0x03 (t.queue + page % 1024 * 2 ^ 14) ∧ status 16) ∧
  (v = .noop → status 3 ∧ (dSigEn t.desc = true → s.pegIn ((s.queueCtx t.queue).getD 0) n = true →
    u.peg n = min (2 ^ 32 - 1) (s.peg n + dSigAdd t.desc))) ∧
  (v ≠ .noop → (∀ n, u.peg n = s.peg n) ∧ u.watches = s.watches)

/-- O38. Completion, once every transfer of the task has ended and its credits are home: the passes in its halves of the
array run to their ends (none, in an array at rest), the outputs still held are written, then the stream slot is written back and the status written, then SIGADD is added to SIGPEG. The task leaves
the running ones; the STRICT flags it raised join BAY_SFLAGS of their bays, and of the bay that the status names all of
them; a task that slipped is counted and recorded on every bay of its group (the model's choice, log entry 130) with the cycles
past the boundary. The
status names DONE, the flags, the die, the lowest bay that formed a part, and the cycles. Else nothing happens. -/
def Obligations.TaskComplete : Prop :=
  ∀ (l : Bay) (q cycles past : Nat) (b : PBay) (s : State), s.physical l = some b →
  (s.completing b q = none → exec (.taskComplete l q cycles past) s = .next s) ∧
  ∀ first, s.completing b q = some first →
  first.task.queue = q ∧ first.waiting = false ∧ first.tags = [] ∧ s.creditsHome q = true ∧
  let u := s.drainTask first
  ((∀ x ∈ first.bays, ((s.bay x).truss.half first.half).idle = true) → u = s) ∧
  ∃ r, u.completing b q = some r ∧ r.task = first.task ∧
  let was := s
  let s := u
  let d := r.task.desc
  let w := (joinOuts r.outs).foldl State.emitOut s
  let ctx := (s.queueCtx q).getD 0
  let y := statusBay b r
  ∃ t, exec (.taskComplete l q cycles past) was = .next t ∧
    (t.bay b).running = (s.bay b).running.filter (fun x => decide (x ≠ r)) ∧
    (dSigEn d = true → s.pegIn ctx (dSigPeg d) = true →
      t.peg (dSigPeg d) = min (2 ^ 32 - 1) (s.peg (dSigPeg d) + dSigAdd d)) ∧
    (dSigEn d = false → t.watches = s.watches ∧ ∀ n, t.peg n = s.peg n) ∧
    (∀ x ∈ r.bays, x.wf = true → ((t.bay x).truss.half r.half).idle = true) ∧
    (s.slotOf r.task = none → dStatEn d = false → w.SameBytes t) ∧
    (∀ n i, s.slotOf r.task = some n → i < 4096 → t.slotPeek n i = w.lathPeek b (slotBase + i)) ∧
    (s.Canonical → w.StatusWritten t y d (1 + r.flags + if r.slipped then 2 ^ 6 else 0) cycles) ∧
    (r.sflags = [] → y = b) ∧ (∀ p ∈ r.sflags, y ∈ r.sflags.map Prod.fst ∧ y.pbay ≤ p.1.pbay) ∧
    (∀ x i, x.wf = true → i < 5 →
      bits (s.reg (Reg.baySflagsInexact x).off).toNat i 1 = 1 ∨
        (∃ p ∈ r.sflags, p.1 = x ∧ bits p.2 i 1 = 1) ∨ (x = y ∧ bits r.flags (16 + i) 1 = 1) →
      bits (t.reg (Reg.baySflagsInexact x).off).toNat i 1 = 1) ∧
    (r.slipped = true → ∀ x ∈ b :: s.groupOf r.task, ∃ v ∈ t.raised, v.src = srcBay x ∧ v.cls = 0x1 ∧ v.num = 0x01 ∧
      v.course = s.course.count.toNat ∧ v.detail = (q + min 0x3FF (past / 32) * 2 ^ 14) % 2 ^ 24 ∧
      (x.wf = true → t.fld (Reg.baySlipLast x) = min 0xFFFF past))

/-- O39. One cycle of the banks of a bay's Lath, on a die that runs. The gutters' requests come after those of the
stationary path, at most 8 sectors of each requester in their order (the named gutter first: the model's choice, log entry
98) and one of a bank; what is refused is counted, and what the head of a gutter asks for in vain whose bank is taken. The
head entry of a gutter keeps the sectors that it has been granted, and asks for the others; it leaves in the cycle in which
the last of them is granted, else it stays;
entries that the passes complete follow. When one gutter alone holds entries and its head leaves, the outputs that wait
for it alone leave their task's and stand in the Lath or in memory byte for byte, and no other byte changes; when
nothing leaves, no byte changes. -/
def Obligations.GutterWrite : Prop :=
  ∀ (b : PBay) (port : GutterPort) (asks : LathAsks) (s : State), b.wf = true → port.half < 2 → port.column < 128 →
  (s.dieRuns b.die = false → exec (.gutterWrite b port asks) s = .next s) ∧
  (s.dieRuns b.die = true →
  let v := (s.bay b).truss
  let waiting := s.headAsks b port
  let heads := waiting.filter fun x => !v.heldBy x.1.1 x.1.2
  let blocked := waiting.filter fun x => v.heldBy x.1.1 x.1.2
  let all := heads.flatMap Prod.snd
  let st := serve 8 [] asks.station
  let g := (slotT asks all).1
  let held (h j : Nat) : Prop := ∃ own, ((h, j), own) ∈ waiting ∧ (v.heldBy h j = true ∨ ∃ a ∈ own, a ∉ g.granted)
  let cell (u : State) (h j : Nat) : List GEntry := (((u.bay b).truss.half h).gutters).getD j []
  g.granted.length ≤ 8 ∧ ((st.granted ++ g.granted).map lathBank).Nodup ∧
  (∀ a ∈ g.granted, ∃ x ∈ all, a = x / 32 * 32) ∧
  g.granted.length + g.refused = (lathSectors all).length ∧
  (∀ h j own, ((h, j), own) ∈ waiting → ∀ a ∈ own, (j, a) ∉ (v.half h).granted) ∧
  ∃ t, exec (.gutterWrite b port asks) s = .next t ∧
    t.fld (Reg.bayLathc0Gut b) =
      min 0xFFFF (s.fld (Reg.bayLathc0Gut b) + g.refused + (lathSectors (blocked.flatMap Prod.snd)).length) ∧
    t.fld (Reg.bayLathc0Feed b) = min 0xFFFF (s.fld (Reg.bayLathc0Feed b) + (slotT asks all).2.refused) ∧
    t.slots = s.slots ∧ (t.bay b).truss.cycle = (s.bay b).truss.cycle + 1 ∧
    (∀ h j a, h < 2 → ((j, a) ∈ ((t.bay b).truss.half h).granted ↔ held h j ∧
      ((j, a) ∈ (v.half h).granted ∨ ∃ own, ((h, j), own) ∈ heads ∧ a ∈ own ∧ a ∈ g.granted))) ∧
    (∀ h j, h < 2 → j < 128 → cell s h j ≠ [] → ∃ new, (held h j → cell t h j = cell s h j ++ new) ∧
      (¬held h j → cell t h j = (cell s h j).tail ++ new)) ∧
    ((∀ h j, h < 2 → cell s h j ≠ [] → held h j) → s.SameBytes t ∧ t.raised = s.raised ∧
      ∀ x, (t.bay x).running = (s.bay x).running) ∧
    ∀ h j e o i r, h < 2 → j < 128 → (cell s h j).head? = some e → ¬held h j →
      (∀ h' j', h' < 2 → (h', j') ≠ (h, j) → cell s h' j' = []) →
      s.entryTask b h j (e.row, e.col) = some (o, i, r) →
      let outs := entryOuts b j (e.row, e.col) r.outs
      (t.bay o).running[i]?.map Running.outs = some (takeEntry b j (e.row, e.col) r.outs) ∧
      (∀ w ∈ outs, w ∈ r.outs ∧ w.bay = b ∧ w.entry = (e.row, e.col) ∧ w.gutters = [j]) ∧
      (s.Canonical → ∀ x, t.peek x = outs.foldl (fun v w =>
        if w.space = .mem ∧ s.writable x = true ∧ w.addr ≤ x then (w.data.getD (x - w.addr) none).getD v else v)
        (s.peek x)) ∧
      ((∀ w ∈ outs, w.space ≠ .mem → w.addr + w.data.length ≤ lathSize) → ∀ y off, off < lathSize →
        t.lathPeek y off = outs.foldl (fun v w => match w.space with
          | .mem => v
          | .lath x => if bayKey y = bayKey x ∧ w.addr ≤ off then (w.data.getD (off - w.addr) none).getD v else v)
          (s.lathPeek y off)))

/-- O40. Faults that abort a task and take its bay. An overrun at the second boundary is recorded; with no transfer
waiting on a port in REPLAY it faults the bay with cause 0x2, else it is the port's, cause 0x6, and the bay stays in
service; of a group the bay that selected the task alone records it and is faulty (the model's choice, log entries 36,
130); the task runs no longer; before that boundary nothing happens. The watchdog faults a bay on which a task runs
with cause 0x4. A Truss fault sets the fault flag of its half, ends what the half holds, aborts the half's tasks and
no other, counts and records an uncorrectable word, and faults the bay with cause 0x1; a die without clocks or power has
none. The fault shows in BAY_FAULT. -/
def Obligations.BayFaults : Prop :=
  ∀ (s : State) (b : PBay), b.wf = true → (s.bay b).faulty = none → s.bayRetired b = false →
  let faulted (t : State) (cause : Nat) : Prop := (t.bay b).faulty.map Prod.fst = some cause ∧
    t.fld (Reg.bayFaultCause b.die) = cause ∧ t.fld (Reg.bayFaultValid b.die) = 1 ∧
    t.fld (Reg.bayFaultPbay b.die) = b.pbay ∧ t.fld (Reg.bayFaultCourse b.die) = s.course.count.toNat % 2 ^ 24
  (∀ (l : Bay) (q : Nat) (r : Running), s.physical l = some b →
    ((s.bay b).running.find? fun x => decide (x.task.queue = q)) = some r →
    (s.course.count.toNat < r.course + 2 → exec (.taskOverrunAbort l q) s = .next s) ∧
    (r.course + 2 ≤ s.course.count.toNat → ∃ t, exec (.taskOverrunAbort l q) s = .next t ∧
      t.raised[s.raised.length]? = some (s.nextRec (srcBay b) 0x1 0x02 (q % 2 ^ 24)) ∧
      r ∉ (t.bay b).running ∧ s.SameBytes t ∧
      r.aborted b (if s.stalledPorts r = [] then 2 else 6) ∈ (t.bay b).aborted ∧
      (s.stalledPorts r = [] → faulted t 2) ∧ (∀ x, bayKey x ≠ bayKey b → (t.bay x).faulty = (s.bay x).faulty) ∧
      (s.stalledPorts r ≠ [] → (t.bay b).faulty = none))) ∧
  (s.runningOn b ≠ [] → ∃ t, exec (.watchdogExpire b) s = .next t ∧ faulted t 4) ∧
  (s.runningOn b = [] → exec (.watchdogExpire b) s = .next s) ∧
  (∀ half cycle word, half < 3 → s.dieRuns b.die = true → ∃ t, exec (.trussFault b ⟨half, cycle, word⟩) s = .next t ∧
    faulted t 1 ∧
    (half ≠ 1 → t.fld (Reg.bayTrussFaultlo b) = 1) ∧ (half ≠ 0 → t.fld (Reg.bayTrussFaulthi b) = 1) ∧
    (half = 0 → t.fld (Reg.bayTrussFaulthi b) = s.fld (Reg.bayTrussFaulthi b)) ∧
    (half = 1 → t.fld (Reg.bayTrussFaultlo b) = s.fld (Reg.bayTrussFaultlo b)) ∧
    (half ≠ 1 → (t.bay b).truss.low = TrussHalf.empty) ∧ (half ≠ 0 → (t.bay b).truss.high = TrussHalf.empty) ∧
    (∀ r ∈ (s.bay b).running, (half = 2 ∨ r.half = 2 ∨ r.half = half) ↔ r ∉ (t.bay b).running) ∧
    (∀ w, word = some w → ∃ x ∈ t.raised, x.src = srcBay b ∧ x.cls = 0x3 ∧ x.num = 0x03 ∧
      x.detail = min w 0xFFFFFF) ∧
    t.fld (Reg.bayEccUncorr b) = min 0xFFFF (s.fld (Reg.bayEccUncorr b) + if word.isSome then 1 else 0)) ∧
  (∀ u, s.dieRuns b.die = false → exec (.trussFault b u) s = .next s)

/-- O41. Spares and swaps, while the clocks of the Rafter dies run. The load of a spare that a die prepares ends: recorded, the spare's Lath holds the
occupant's bytes LATHSAVE to LATHLOAD - 1 from the preload area and zeros elsewhere, and its preparation is ready.
A swap's end saves bytes 0 to LATHSAVE - 1 of the outgoing context, if there is one, in the bay's own save area, and leaves
every other byte of memory; which of them were stale is kept with them (the model's reading, log entry 49). Then the bay's
Lath holds the incoming context's saved bytes, its preloaded bytes, then zeros, no other Lath changes, and the swap is
marked done; the swap register of the bay stays set until the boundary. Ending it again does nothing. The words
corrected in its reads of the Lath are counted, and an uncorrectable one faults the bay, the swap unfinished. -/
def Obligations.SparesAndSwaps : Prop :=
  ∀ s : State, s.clocked = true →
  (∀ d l p cause spare c, (s.reliab.preparing.find? fun e => decide (e.1 = d) && !e.2.2.2.2) =
      some (d, l, p, cause, false) → s.spareOf d = some spare →
    (s.occupant ⟨d, p⟩).bind s.context = some c → c.lathLoad ≤ lathSize →
    ∃ t, exec (.sparePrepared d) s = .next t ∧ (d, l, p, cause, true) ∈ t.reliab.preparing ∧
      (∃ x ∈ t.raised, x.src = ⟨d, 0xF⟩ ∧ x.cls = 0x9 ∧ x.num = 0x03 ∧ x.detail = spare.pbay % 2 ^ 24) ∧
      ∀ off, off < lathSize → t.lathPeek spare off =
        if c.lathSave ≤ off ∧ off < c.lathLoad then
          s.peek (c.preBase + (8 * spare.die + l) * (c.lathLoad - c.lathSave) + (off - c.lathSave)) else 0) ∧
  (∀ (lb : Bay) (b : PBay) (w : Swap) (c : Context) (late : Nat) (e : Sram), s.physical lb = some b → lb.lbay < 8 → b.wf = true →
    (s.bay b).swap = some w → w.done = false → s.context w.into = some c →
    c.lathSave ≤ c.lathLoad → c.lathLoad ≤ lathSize →
    let saved (a : Nat) : Option Byte := match w.out.bind s.context with
      | some o => if saveAddr o lb ≤ a ∧ a < saveAddr o lb + o.lathSave ∧ s.writable a = true
          then some (s.lathPeek b (a - saveAddr o lb)) else none
      | none => none
    (e.bad = none → s.Canonical → ∃ t, exec (.swapComplete ⟨lb, 0, e⟩ late) s = .next t ∧
      (t.bay b).swap = some { w with done := true } ∧
      (∀ a, t.peek a = (saved a).getD (s.peek a)) ∧
      (∀ off, off < lathSize → t.lathPeek b off =
        if off < c.lathSave then t.peek (saveAddr c lb + off)
        else if off < c.lathLoad then t.peek (preAddr c lb + (off - c.lathSave))
        else 0) ∧
      (∀ y off, bayKey y ≠ bayKey b → off < lathSize → t.lathPeek y off = s.lathPeek y off) ∧
      (∀ o, w.out = some o → o ≠ w.into → ∀ g, g ∈ (s.bay b).stale → (∃ k, s.context o = some k ∧ g * granule < k.lathSave) →
        ∃ x ∈ t.reliab.lostSaves, x.1 = o ∧ x.2.1 = lb.die ∧ x.2.2.1 = lb.lbay ∧ g ∈ x.2.2.2) ∧
      t.fld (Reg.bayEccCorr b) = min 0xFFFF (s.fld (Reg.bayEccCorr b) + e.corrected) ∧
      (w.overrun = true → ∃ x ∈ t.raised, x.src = srcBay b ∧ x.cls = 0x5 ∧ x.num = 0x01 ∧
        x.detail = (w.into + min 0x3FF (late / 32) * 2 ^ 6) % 2 ^ 24) ∧
      ∀ late' m' e', exec (.swapComplete ⟨lb, m', e'⟩ late') t = .next t) ∧
    (∀ word, e.bad = some word → (s.bay b).faulty = none → s.bayRetired b = false →
      ∃ t, exec (.swapComplete ⟨lb, 0, e⟩ late) s = .next t ∧ (t.bay b).swap = none ∧
        (t.bay b).faulty.map Prod.fst = some 0 ∧ s.SameBytes t ∧
        t.fld (Reg.bayEccUncorr b) = min 0xFFFF (s.fld (Reg.bayEccUncorr b) + 1)))

/-- O42. A pass of a running task enters its half as the latest one, with the rows, depth, pace, class and place among
the K-tiles that the task and the half give it, with the operands it brings, and BAY_TRUSS shows it. In an array at rest
it starts in the first cycle that meets every condition: two steps after the pass before it, its first entry in the
yealm, twelve steps after the last result of each pass it depends on is readable, and the shadow bank whole; the cycles
in which only the bank holds it back are counted in BAY_STWAIT. The bank is loaded a row a cycle, each row after it has
switched for the pass before, and in no cycle that its stationary path lost. There is no pass of a task that does not
use the array, of no rows or more than the accumulators hold, or ahead of its partners' K-tile, and none of an ATTN task for a query group and key block that do not run: it starts nothing. The
results of a last pass of scores or partials wait with the task for the Lath. The pace of the two and the twelve steps under
TALLY, the form in which the array holds its operands, and where scores and partials stand in the Lath, are the model's
choice (log entries 108, 109, 22, 131). -/
def Obligations.PassStart : Prop :=
  (∀ before start held depth, let rows := loadRows before start held depth
    rows.length ≤ depth ∧ (∀ c ∈ rows, start ≤ c ∧ c ∉ held) ∧
    (∀ i c d, rows[i]? = some c → rows[i + 1]? = some d → c < d) ∧
    (∀ p i c, before = some p → i < p.depth → rows[i]? = some c → ∃ d, p.switches[i]? = some d ∧ d < c) ∧
    (before = none → held = [] → rows = (List.range depth).map fun i => start + i)) ∧
  ∀ (a : PassArgs) (s : State), a.bay.wf = true → a.half < 3 →
  let b := a.bay
  let depth := if a.half = 2 then 128 else 64
  let old := (s.bay b).truss.half a.half
  let fits (o : PBay) (r : Running) (k : PassKind) : Prop := 0 < k.rows ∧
    (∀ n, k.maxRows a.half = some n → k.rows ≤ n) ∧ s.lockStep b o r.task a.half k = true
  (s.passTask b a.half = none → exec (.passStart a) s = .next s) ∧
  ∀ o r, s.passTask b a.half = some (o, r) →
  let x := attnOf r.task.desc
  let skipped : Prop := match a.step with
    | .score => ∃ g ∈ x.groupsIn a.first a.rows, x.runs g a.blk = false
    | .dP => ∃ g ∈ x.groupsIn a.first a.rows, x.runs g a.blk = false
    | .value => x.runs a.first a.blk = false
    | _ => False
  (s.passKind r.task o a old = none → exec (.passStart a) s = .next s) ∧
  (dOp r.task.desc = opAttn → old.ktile = 0 → skipped → exec (.passStart a) s = .next s) ∧
  ∀ k, s.passKind r.task o a old = some k →
  (¬fits o r k → exec (.passStart a) s = .next s) ∧
  (fits o r k →
    let pace := if k.tally then 2 else 1
    let final := decide (old.ktile + 1 = k.ktiles)
    let x := s.loadOf r o a k old.begun old.ktile
    ∃ t p, exec (.passStart a) s = .next t ∧
      (let h := (t.bay b).truss.half a.half
       h.passes.getLast? = some p ∧ h.begun = old.begun + 1 ∧ h.ktile = (if final then 0 else old.ktile + 1) ∧
       h.walk = old.walk ++ if dOp r.task.desc = opAttn then [attnPass a] else []) ∧
      p.num = (s.bay b).truss.count ∧ (t.bay b).truss.count = (s.bay b).truss.count + 1 ∧
      p.rows = k.rows ∧ p.depth = depth ∧ p.pace = pace ∧ p.cls = k.cls ∧ p.l = k.l ∧ p.tally = k.tally ∧
      p.final = final ∧ p.begun = (t.bay b).truss.cycle ∧ p.prog = 0 ∧ p.done = none ∧ p.switches = [] ∧
      p.bank = x.bank ∧ p.scales = x.scales ∧ p.sums = x.sums ∧ p.entry = x.entry ∧
      (∀ e ∈ p.late, e ∈ a.late ∧ s.fetches r.task o a old.begun old.ktile e.1 e.2.1 = true) ∧
      t.fld (Reg.bayTrussBusy b) = 1 ∧ (a.half ≠ 2 → t.fld (Reg.bayTrussSplit b) = 1) ∧
      t.fld (Reg.bayEccCorr b) = min 0xFFFF (s.fld (Reg.bayEccCorr b) + a.corrected) ∧
      (let v := (s.bay b).truss
       let deps := (v.ends.filter fun e => a.deps.contains e.1).map fun e => e.2 + 12 * pace
       let entry := if s.fetches r.task o a old.begun old.ktile 0 0 then a.entryReady else 0
       let ready := deps.foldl max (max entry v.cycle)
       let rows := loadRows old.passes.getLast? a.loadFrom a.held depth
       let whole := if k.cls = 3 then 0 else rows.foldl (fun m c => max m (c + 1)) 0
       (∀ y ∈ v.low.passes ++ v.high.passes, 0 < y.pace ∧ y.pace * y.length < y.prog ∧ y.done.isSome = true) →
       (∀ g ∈ v.low.gutters ++ v.high.gutters, g = []) → k.cls = 3 ∨ rows.length = depth →
       ∀ first,
       (match old.passes.getLast? with
        | none => first = ready
        | some y => ∃ c, y.left = some c ∧ c ≤ v.cycle ∧ (∀ d ∈ y.switches, d ≤ v.cycle) ∧
          first = max ready (c + 2 * pace)) →
       p.begun = max first whole ∧ s.SameBytes t ∧ t.raised = s.raised ∧
       t.fld (Reg.bayTrussTally b) = k.tally.toNat ∧ t.fld (Reg.bayTrussClass b) = k.cls % 4 ∧
       (∀ y, (t.bay y).running = if bayKey y = bayKey o ∧ final = true then
           (s.bay y).running.map (fun z => if z = r then { r with outs := r.outs ++ x.drains } else z)
         else (s.bay y).running) ∧
       (∀ y, (t.bay y).selected = (s.bay y).selected) ∧
       (∀ y, bayKey y ≠ bayKey b → bayKey y ≠ bayKey o → t.bay y = s.bay y) ∧
       t.fld (Reg.bayStwaitCount b) = min (2 ^ (Reg.bayStwaitCount b).width - 1)
         (s.fld (Reg.bayStwaitCount b) + (whole - first))))

/-- O43. A session slot. An OPEN that stands at the head of an idle slot takes effect: the session before it is discarded and
the slot is opened with the 128-byte block at PARAM. A job at the head of an idle slot starts coding, once its parameter
block and its ring count are read; a decoder with no more produced bytes than it has consumed waits; in a slot in error a job without OPEN ends at
once, and its CLOSE closes the slot. A decoder that has reached the produced count re-reads it, and goes on when more
bytes have come; an encoder waits exactly while its ring lacks the bytes of its picture. Nothing else changes. -/
def Obligations.MediaSession : Prop :=
  ∀ (e : Eng) (slot : Nat) (s : State), s.gableUp e = true →
  let v := s.session e slot
  let after (u : State) (a n : Nat) : State := (u.noteRead (srcEng e) a n).1
  let inCnt (k : List Byte) : Nat := blkRingCnt k
  let outCnt (k : List Byte) : Nat := blkRingCnt k + 8
  (∀ j rest, v.jobs = j :: rest → v.coding = false → e.kind ≠ .preprocess → j.open_ = true →
    s.openHead e slot = (after s j.param 128).setSession e slot { Session.closed with
      isOpen := true, block := (List.range 128).map fun i => s.peek (j.param + i)
      jobs := { j with open_ := false } :: rest }) ∧
  ((∀ j rest, v.jobs = j :: rest → j.open_ = false ∨ e.kind = .preprocess ∨ v.coding = true) → s.openHead e slot = s) ∧
  (∀ j rest, v.jobs = j :: rest → v.coding = false →
    let k := (List.range 128).map fun i => s.peek (j.param + i)
    let opened := after s j.param 128
    (e.kind = .preprocess → exec (.jobStart e slot) s =
      .next (opened.setSession e slot { v with isOpen := true, coding := true, block := k })) ∧
    (e.kind ≠ .preprocess → j.open_ = true →
      let c := if e.kind = .encode then outCnt k else inCnt k
      ∃ t, exec (.jobStart e slot) s = .next t ∧ (t.session e slot).block = k ∧ (t.session e slot).isOpen = true ∧
        (t.session e slot).coding = true ∧ (t.session e slot).error = false ∧ (t.session e slot).pic = 0 ∧
        (t.session e slot).ownCount = 0 ∧ (t.session e slot).peerCount = s.peekLe c 8 ∧
        (t.session e slot).jobs = { j with open_ := false } :: rest ∧
        ((t.session e slot).waiting = true ↔ e.kind = .decode ∧ s.peekLe c 8 = 0) ∧
        t = { after opened c 8 with media := t.media }) ∧
    (e.kind ≠ .preprocess → j.open_ = false → v.error = false → v.isOpen = true →
      let c := if e.kind = .encode then outCnt v.block else inCnt v.block
      exec (.jobStart e slot) s = .next ((after s c 8).setSession e slot { v with
        coding := true, peerCount := s.peekLe c 8,
        waiting := decide (e.kind = .decode ∧ s.peekLe c 8 ≤ v.ownCount) })) ∧
    (e.kind ≠ .preprocess → j.open_ = false → v.error = true → exec (.jobStart e slot) s =
      .next ((s.setSession e slot (if j.close then { Session.closed with jobs := rest }
        else { v with jobs := rest, coding := false, waiting := false })).openHead e slot)) ∧
    (e.kind ≠ .preprocess → j.open_ = false → v.error = false → v.isOpen = false →
      exec (.jobStart e slot) s = .next s)) ∧
  (v.jobs = [] ∨ v.coding = true → exec (.jobStart e slot) s = .next s) ∧
  (v.coding = true → e.kind = .decode →
    exec (.decodeInputRecheck e slot) s = .next ((after s (inCnt v.block) 8).setSession e slot { v with
      peerCount := s.peekLe (inCnt v.block) 8,
      waiting := decide (s.peekLe (inCnt v.block) 8 ≤ v.peerCount) })) ∧
  (∀ j rest, v.jobs = j :: rest → v.coding = true → e.kind = .encode →
    exec (.encodeRingSpace e.gable (e.kind, e.idx) slot) s = .next ((after s (outCnt v.block) 8).setSession e slot { v with
      peerCount := s.peekLe (outCnt v.block) 8,
      waiting := decide (2 ^ blkRingLog2 v.block - (v.ownCount - s.peekLe (outCnt v.block) 8) <
        (s.encoded v j).2.2.1.length) }))

/-- O44. A picture that ends: the 16-byte record of the picture stands at its entry of the picture-record ring, then
DONEPEG has gained 1, the job has left the slot, an OPEN behind it opens the slot, and the next picture has the next number.
A decoder takes the bytes
of its next picture from those ahead in its ring, past what is left of concealed ones, as soon as they are whole, and
its record has the picture's number in output order. A picture in error, or that a live
decoder completes in the deadline cycle or later, or that the deadline finds unfinished, is concealed: counted and
recorded, and its record says so, with what its headers say where they have come. One before the first random access point is
discarded and counted, at its deadline too; a stream outside
the supported ones puts the session in error; with no whole picture the decoder waits. An encoder's picture is counted
LATE after its deadline, and waits while the ring lacks room for it. The number of a picture without headers is the model's
choice, and the mean QP of an HEVC picture that was not decoded is open (log entry 147). -/
def Obligations.PictureRecorded : Prop :=
  ∀ (e : Eng) (slot : Nat) (j : Job) (rest : List Job) (s : State), e.wf = true → s.Canonical → s.gableUp e = true →
  let v := s.session e slot
  let k := v.block
  let entry (pic : Nat) := blkPicRec k + pic % 2 ^ blkPicLog2 k * 16
  let opens := (rest.head?.map Job.open_).getD false && decide (e.kind ≠ .preprocess)
  let left_ : List Job := match rest with
    | [] => []
    | x :: l => (if opens then { x with open_ := false } else x) :: l
  let ended (t : State) : Prop := (t.session e slot).jobs = left_ ∧ (t.session e slot).coding = false ∧
    (opens = true → (t.session e slot).isOpen = true ∧ (t.session e slot).error = false ∧ (t.session e slot).pic = 0) ∧
    (opens = false → j.close = true → (t.session e slot).isOpen = false)
  let recorded (t : State) (pic : Nat) (r : PicRec) : Prop :=
    ended t ∧ (opens = false → j.close = false → (t.session e slot).pic = v.pic + 1) ∧
    (s.pegIn j.ctx (blkDonePeg k) = true →
      t.peg (blkDonePeg k) = min (2 ^ 32 - 1) (s.peg (blkDonePeg k) + 1)) ∧
    ((∀ i, i < 16 → s.writable (entry pic + i) = true) → ∀ i, i < 16 →
      t.peek (entry pic + i) = (r.toBytes pic s.course.count.toNat).getD i 0)
  let counted (t : State) : Prop :=
    t.fld (Reg.gblCnt0Event e) = min (2 ^ (Reg.gblCnt0Event e).width - 1) (s.fld (Reg.gblCnt0Event e) + 1)
  let discarded (t : State) : Prop := (t.session e slot).jobs = v.jobs ∧ (t.session e slot).pic = v.pic ∧
    t.fld (Reg.gblCnt1Prerap e) = min (2 ^ (Reg.gblCnt1Prerap e).width - 1) (s.fld (Reg.gblCnt1Prerap e) + 1)
  let stopped (t : State) : Prop := ended t ∧ (opens = false → (t.session e slot).error = !j.close) ∧
    t.reg (Reg.gblCnt0Event e).off = s.reg (Reg.gblCnt0Event e).off ∧
    t.reg (Reg.gblCnt1Prerap e).off = s.reg (Reg.gblCnt1Prerap e).off ∧
    ∃ x ∈ t.raised, x.src = srcEng e ∧ x.cls = 0x6 ∧ x.num = 0x04
  let concealed (t : State) (n : Nat) (h : Option Config.Headers) (mean : Option Nat) (error : Bool) : Prop := counted t ∧
    (∃ x ∈ t.raised, x.src = srcEng e ∧ x.cls = 0x6 ∧ x.num = 0x01) ∧
    (error = true → ∃ x ∈ t.raised, x.src = srcEng e ∧ x.cls = 0x6 ∧ x.num = 0x03) ∧
    ∃ qp, (∀ x, h = some x → blkAv1 k = true → qp = x.qp) ∧ (blkAv1 k = false → ∀ q, mean = some q → qp = q) ∧
      recorded t ((h.map Config.Headers.order).getD v.pic)
        { bytes := n, intra := (h.map Config.Headers.rap).getD false, concealed := true, degraded := false
          error := error, late := false, grain := (h.map fun x => blkAv1 k && x.grain.isSome).getD false, qp := qp }
  v.jobs = j :: rest → v.coding = true →
  (e.kind = .decode →
    let complete := exec (.pictureComplete e.gable (e.kind, e.idx) slot) s
    let deadline := exec (.liveDeadline e.gable e.kind e.idx slot) s
    let overdue : Prop := blkLive k = true ∧ deadlineOf k j ≤ s.refNow
    let arrived := s.ringBytes k v.ownCount (s.peerCount e k)
    ∀ skip left, passStarts v v.skipping arrived = (skip, left) →
    let bs := arrived.drop skip
    let w := { v with skipping := left }
    (∀ n, left = 0 → firstPrefix (Config.pictureEnd k v.codec) bs = some n →
      let p := bs.take (max n 1)
      let h := headersOf w p
      let r := Config.decodeCoded k h.codec p
      let lost := !h.rap && r.refs.any v.tainted.contains
      (foreignStream k h = true →
        (v.waiting = false → ∃ t, complete = .next t ∧ stopped t) ∧ (overdue → ∃ t, deadline = .next t ∧ stopped t)) ∧
      (foreignStream k h = false → preRap v h = true →
        (v.waiting = false → ∃ t, complete = .next t ∧ discarded t) ∧
        (overdue → ∃ t, deadline = .next t ∧ discarded t)) ∧
      (foreignStream k h = false → preRap v h = false →
        (v.waiting = false → h.error = false → r.error = false → ¬overdue →
          ∃ t, complete = .next t ∧ recorded t h.order
            { bytes := p.length, intra := h.rap, concealed := false, degraded := lost, error := false, late := false,
              grain := blkAv1 k && h.grain.isSome, qp := if blkAv1 k then h.qp else r.qp }) ∧
        (v.waiting = false → h.error = true ∨ r.error = true ∨ overdue →
          ∃ t, complete = .next t ∧ concealed t p.length (some h) (some r.qp) (h.error || r.error)) ∧
        (overdue → ∃ t, deadline = .next t ∧ concealed t p.length (some h) none false))) ∧
    ((left ≠ 0 ∨ firstPrefix (Config.pictureEnd k v.codec) bs = none) →
      (v.waiting = false → ∃ t, complete = .next t ∧ (t.session e slot).waiting = true ∧
        (t.session e slot).jobs = v.jobs ∧ (t.session e slot).pic = v.pic) ∧
      (overdue →
        let h := nextHeaders w bs
        let (passed, more) := passStarts v (left + 2) bs
        ∃ t, deadline = .next t ∧
          ((∃ x, h = some x ∧ preRap v x = true) → discarded t ∧ (t.session e slot).skipping = more) ∧
          ((∀ x, h = some x → preRap v x = false) → concealed t passed h none false ∧
            (opens = false → j.close = false → (t.session e slot).skipping = more))))) ∧
  ((e.kind ≠ .decode ∨ blkLive k = false ∨ s.refNow < deadlineOf k j) → exec (.liveDeadline e.gable e.kind e.idx slot) s = .next s) ∧
  (v.waiting = true → exec (.pictureComplete e.gable (e.kind, e.idx) slot) s = .next s) ∧
  (e.kind = .encode → v.waiting = false →
    let n := (s.encoded v j).2.2.1.length
    let free := 2 ^ blkRingLog2 k - (v.ownCount - s.peekLe (blkRingCnt k + 8) 8)
    let late := blkLive k && decide (deadlineOf k j < s.refNow)
    (free < n → ∃ t, exec (.pictureComplete e.gable (e.kind, e.idx) slot) s = .next t ∧ (t.session e slot).waiting = true ∧
      (t.session e slot).jobs = v.jobs ∧ s.SameBytes t) ∧
    (n ≤ free → ∃ t, exec (.pictureComplete e.gable (e.kind, e.idx) slot) s = .next t ∧ (late = true → counted t) ∧
      (((blkRc k = 0 ∨ v.pic = 0) ∧ (blkAv1 k = false ∨ blkLossless k = false)) →
        (toolsOf v ((s.encoded v j).1.map fun p => p.map Prod.fst)).qp = blkQpInit k) ∧
      recorded t v.pic
        { bytes := n, intra := decide (v.pic = 0) || decide (blkKeyint k ≠ 0 ∧ v.pic % blkKeyint k = 0)
          concealed := false, degraded := false, error := false, late := late
          grain := (s.encoded v j).2.1, qp := (s.encoded v j).2.2.2.qp })) ∧
  (e.kind = .preprocess → v.waiting = false → ∃ t, exec (.pictureComplete e.gable (e.kind, e.idx) slot) s = .next t ∧
    recorded t v.pic
      { bytes := 0, intra := false, concealed := false, degraded := false, error := false, late := false
        grain := false, qp := 0 })

/-- O45. The states of a port. An UP port that loses light, lock or its ACK enters REPLAY, keeps its retry buffer, is
counted and recorded with the cause; 4 ms there declare it DOWN: its flits are voided and counted, and the event is
recorded. Training starts from OFF, TRAINING, DOWN, REFUSED or REPLAY with eight lanes lit, on the eight lowest of
them. In an identity exchange the port sends its own identity as a control flit; from TRAINING it goes UP at SEQ 0 with
empty buffers when the peer's coordinates, port and feature words fit, and REFUSED otherwise; from REPLAY the retry
buffer is sent again. What waits to be sent stays. A lane gives its traffic to a spare, which a control flit asks of the
far end. That flits which were never sent, or were voided before, do not count as voided at DOWN is the model's choice
(log entry 81), and so is the form of a host port's flits, which end in six FEC bytes of 0 (log entry 142). -/
def Obligations.PortStates : Prop :=
  ∀ (port : Nat) (s : State), port < 32 →
  let p := s.port port
  let dark (t : State) (cause : Nat) : Prop := t.fld (Reg.eavStateState port) = 3 ∧
    (t.port port).unacked = p.unacked ∧ (t.port port).waiting = p.waiting ∧
    t.fld (Reg.eavRetryDark port) = min 0xFFFF (s.fld (Reg.eavRetryDark port) + 1) ∧
    t.raised = s.raised ++ [s.nextRec (srcPort port) 0x7 0x02 (port + cause * 2 ^ 5)]
  let hostBytes (f : Flit) (nak : Bool) : List Byte :=
    fit 250 (Config.hostFlit f.seq ((p.expect + 1023) % 1024) nak f.payload) ++ List.replicate 6 0
  let control (bs : List (List Byte)) : Prop := bs.length = (if hasLinkLayer port then 1 else 0) ∧
    ∀ b ∈ bs, b.length = 256 ∧ le b 0 2 = 15 * 4096 ∧ le b 2 2 % 4096 = (p.expect + 4095) % 4096
  (s.pstate port = 2 → (∀ cause, cause < 3 → ∃ t, exec (.portDark port cause) s = .next t ∧ dark t cause) ∧
    (hasLinkLayer port = true → ∃ t, exec (.ackTimeout port) s = .next t ∧ dark t 2)) ∧
  (s.pstate port ≠ 2 → exec (.portDark port 0) s = .next s ∧ exec (.ackTimeout port) s = .next s) ∧
  (s.pstate port = 3 → ∃ t, exec (.replayTimeout port) s = .next t ∧ t.fld (Reg.eavStateState port) = 4 ∧
    (isHostPort port = false → (t.port port).unacked = [] ∧ (t.port port).waiting = [] ∧
      t.fld (Reg.eavTagVoid port) =
        min 0xFFFF (s.fld (Reg.eavTagVoid port) + (p.unacked.filter fun f => decide (f.typ ≠ 8)).length)) ∧
    (isHostPort port = true → port = s.hostPort → (t.port port).unacked = []) ∧
    t.raised[s.raised.length]? = some (s.nextRec (srcPort port) 0x7 0x03 port)) ∧
  (s.pstate port ≠ 3 → exec (.replayTimeout port) s = .next s) ∧
  (∀ lanes rtt, s.inUse port = true → s.lit port = true → 8 ≤ (lanesOf lanes).length → rtt < 2 ^ 16 →
    s.pstate port ∈ [0, 1, 3, 4, 5] →
    ∃ t, exec (.trainingStart port lanes rtt) s = .next t ∧ t.fld (Reg.eavRttNs port) = rtt ∧
      t.fld (Reg.eavStateState port) = (if s.pstate port = 3 then 3 else 1) ∧
      lanesOf (t.fld (Reg.eavStateLanes port)) = (lanesOf lanes).take 8 ∧
      (t.port port).unacked = p.unacked) ∧
  (∀ peer : Identity, s.pstate port = 1 ∨ s.pstate port = 3 →
    let wired : Prop := isAxisPort port = true →
      peer.coord = s.neighbour (portAxis port) (portPlus port) ∧ peer.port = farPort port
    let equal : Prop := hasLinkLayer port = true → peer.feats = s.agreedWords
    ∃ t own again, exec (.identityExchange port peer) s = .next t ∧ control own ∧
      (t.port port).sent = p.sent ++ own ++ again ∧
      (t.port port).waiting = p.waiting ∧
      (wired → equal → t.fld (Reg.eavStateState port) = 2 ∧
        (hasLinkLayer port = true → (t.port port).credits = (List.range 3).map (fun i => peer.free.getD i 0) ∧
          t.fld (Reg.eavCredMin port) = min (s.fld (Reg.eavCredMin port)) (peer.free.getD 0 0)) ∧
        (hasLinkLayer port = true → s.pstate port = 1 → (t.port port).nextSeq = 0 ∧ (t.port port).expect = 0 ∧
          (t.port port).unacked = [] ∧ again = []) ∧
        (hasLinkLayer port = true → s.pstate port = 3 → (t.port port).unacked = p.unacked ∧
          (t.port port).expect = p.expect ∧
          again.map (fun bs => le bs 0 2) = p.unacked.map (fun g => (g.seq % 4096 + g.typ * 4096) % 2 ^ 16)) ∧
        (isHostPort port = true → (t.port port).unacked = p.unacked ∧ (t.port port).nextSeq = p.nextSeq ∧
          again = if s.pstate port = 3 ∨ port = s.hostPort then
              p.unacked.zipIdx.map fun x => hostBytes x.1 (p.nak && decide (x.2 = 0)) else [])) ∧
      (¬(wired ∧ equal) → t.fld (Reg.eavStateState port) = 5 ∧ again = [])) ∧
  (∀ lane, s.pstate port = 2 → lane ∈ lanesOf (s.fld (Reg.eavStateLanes port)) →
    (∃ x, x < 9 ∧ x ∉ lanesOf (s.fld (Reg.eavStateLanes port)) ∧ x ∉ lanesOf p.bad) →
    ∃ t own, exec (.laneSpareRequest port lane) s = .next t ∧ t.fld (Reg.eavStateSpared port) = lane ∧
      lane ∉ lanesOf (t.fld (Reg.eavStateLanes port)) ∧ t.fld (Reg.eavStateState port) = 2 ∧
      control own ∧ (t.port port).sent = p.sent ++ own ∧
      t.raised = s.raised ++ [s.nextRec (srcPort port) 0x7 0x04 (port + lane * 2 ^ 5)])

/-- O46. Sending. An UP port with the link layer, fewer than 1,024 flits unacknowledged and the flit's credit sends
the bytes that wait first, packed end to end up to 240, as the next flit in sequence, on the next lane in use, holds it
for a resend and spends one
credit of its class; else they stay, and the port sends a null flit. A NAK frees the flits up to the ACK and puts
every later one on the fibre again in order, counted once (that NAKs are counted is the model's choice, log entry 81).
Every flit carries the latest ACK, and a NAK that is due. That a flit packs messages of one type and one task is the
model's choice (log entry 29). A host port sends the flits of its own data-link layer, with the latest
acknowledgement and a NAK that is due, and holds them, on the port that the endpoint uses (their form is the model's choice, log entry 142). -/
def Obligations.FlitSending : Prop :=
  ∀ (port : Nat) (s : State), s.pstate port = 2 →
  let p := s.port port
  let lanes := lanesOf (s.fld (Reg.eavStateLanes port))
  let dealt (t : State) (bs : List Byte) : Prop := (t.port port).sent = p.sent ++ [bs] ∧
    (t.port port).laneOf = p.laneOf ++ [lanes.getD (p.nextLane % max lanes.length 1) 0] ∧
    (t.port port).nextLane = (p.nextLane + 1) % max lanes.length 1
  (isHostPort port = true →
    (port ≠ s.hostPort → exec (.flitTransmit port) s = .next s) ∧
    (port = s.hostPort → ∃ t f, exec (.flitTransmit port) s = .next t ∧
      dealt t (fit 250 (Config.hostFlit f.seq ((p.expect + 1023) % 1024) p.nak f.payload) ++ List.replicate 6 0) ∧
      f.seq = p.nextSeq ∧ (t.port port).unacked = p.unacked ++ [f] ∧ (t.port port).nak = false ∧
      (t.port port).nextSeq = (p.nextSeq + 1) % 1024)) ∧
  (hasLinkLayer port = true →
  let carries (bs : List Byte) : Prop := bs.length = 256 ∧
    le bs 2 2 = (p.expect + 4095) % 4096 + (if p.nak then 4096 else 0)
  let may (w : Wait) : Prop := p.unacked.length < 1024 ∧ s.hasCredit port w.typ w.queue = true
  (∀ w rest, p.waiting = w :: rest → may w → w.typ < 16 →
    let same := p.waiting.takeWhile fun x => decide (x.typ = w.typ ∧ x.queue = w.queue)
    let load := (same.flatMap Wait.bytes).take 240
    exec (.nullFlit port) s = .next s ∧ ∃ t bs, exec (.flitTransmit port) s = .next t ∧
      (t.port port).waiting.flatMap Wait.bytes = (p.waiting.flatMap Wait.bytes).drop load.length ∧
      (t.port port).unacked = p.unacked ++ [{ seq := p.nextSeq, typ := w.typ, queue := w.queue, payload := load }] ∧
      (t.port port).nextSeq = (p.nextSeq + 1) % 4096 ∧ dealt t bs ∧ carries bs ∧
      le bs 0 2 = p.nextSeq % 4096 + w.typ * 4096 ∧
      (bs.drop 8).take 240 = load ++ List.replicate (240 - load.length) 0 ∧
      (∀ cls, creditClass w.typ = some cls →
        (t.port port).credits = p.credits.set cls (p.credits.getD cls 0 - 1) ∧
        t.fld (Reg.eavCredMin port) = min (s.fld (Reg.eavCredMin port)) ((t.port port).credits.getD 0 0))) ∧
  ((∀ w rest, p.waiting = w :: rest → ¬may w) → exec (.flitTransmit port) s = .next s ∧
    ∃ t bs, exec (.nullFlit port) s = .next t ∧ dealt t bs ∧ le bs 0 2 = 0 ∧ carries bs ∧
      (t.port port).nextSeq = p.nextSeq ∧ (t.port port).unacked = p.unacked ∧ (t.port port).waiting = p.waiting) ∧
  (∀ ack before f after, p.unacked = before ++ f :: after → f.seq = ack → (∀ g ∈ before, g.seq ≠ ack) →
    ∃ t again, exec (.nakReceive port ack) s = .next t ∧ (t.port port).unacked = after ∧
      (t.port port).sent = p.sent ++ again ∧ again.length = after.length ∧
      again.map (fun bs => le bs 0 2) = after.map (fun g => (g.seq % 4096 + g.typ * 4096) % 2 ^ 16) ∧
      t.fld (Reg.eavRetryNak port) = min 0xFFFF (s.fld (Reg.eavRetryNak port) + 1)))

/-- O47. The flit format loses nothing: the 256 bytes in which a port sends a flit, met in order on the far port, pass
the CRC, are accepted with their sequence number, return their credits in their class, never beyond the pool, and free
the acknowledged flits (credits that an abort has restored before are not restored again: the model's choice, log entry
114). A control flit that asks for the spare of a lane moves the lane's traffic to it here too. Codewords with 1 to 15 symbol errors are counted as corrected, with more as uncorrectable. A
flit that is out of order, damaged or in an uncorrectable codeword is dropped and answered with NAK set. A voided flit
in order ends the message that it lies in; another joins the bytes received before it, of which the whole messages stand in
the receiving buffer, and what only fills up a flit leaves it. -/
def Obligations.FlitAccepted : Prop :=
  ∀ (port seq typ ack cred ccls : Nat) (payload : List Byte) (own others : List Nat) (s : State),
  s.pstate port = 2 → hasLinkLayer port = true → seq < 4096 → ack < 4096 → cred < 2048 → ccls < 4 →
  payload.length = 240 →
  let p := s.port port
  let bs := flitBytes seq typ ack 0 cred ccls payload
  let counted (t : State) : Prop :=
    t.fld (Reg.eavFecCorr port) =
      min 0xFFFF (s.fld (Reg.eavFecCorr port) + ((own ++ others).filter fun c => decide (1 ≤ c ∧ c ≤ 15)).length) ∧
    t.fld (Reg.eavFecUncorr port) =
      min 0xFFFF (s.fld (Reg.eavFecUncorr port) + ((own ++ others).filter fun c => decide (15 < c)).length)
  let lost : Prop := ∃ c ∈ own, 15 < c
  let used := lanesOf (s.fld (Reg.eavStateLanes port))
  bs.length = 256 ∧ crc64 (bs.take 248) = le bs 248 8 ∧ (bs.drop 8).take 240 = payload ∧
  (typ ∈ [1, 2, 3, 4, 8] → ¬lost → ∃ t, exec (.flitReceive port bs own others) s = .next t ∧ s.SameBytes t ∧ counted t ∧
    (t.port port).credits = p.credits.set ccls (min (if ccls = 0 then 768 else 128) (p.credits.getD ccls 0 + (cred - if ccls = 0 then min cred p.early else 0))) ∧
    (p.expect = seq → (t.port port).expect = (seq + 1) % 4096 ∧ (t.port port).nak = p.nak ∧
      (typ = 8 → (t.port port).partMsg = [] ∧ (t.port port).inMsgs = p.inMsgs) ∧
      (typ ≠ 8 →
        let c := cutMsgs (p.partMsg ++ payload).length (p.partMsg ++ payload) (p.partIn ++ [(p.flitNo, 240)])
        (t.port port).partMsg = c.rest ∧ (t.port port).inMsgs = p.inMsgs ++ c.msgs ∧
        ∀ f ∈ (t.port port).inFlits, f.left ≠ 0 ∧ ((∃ g ∈ p.inFlits, g.no = f.no ∧ g.cls = f.cls ∧
            f.left = g.left - partsOf c.filling g.no) ∨
          (f.no = p.flitNo ∧ creditClass typ = some f.cls ∧ f.left = 240 - partsOf c.filling p.flitNo)))) ∧
    (p.expect ≠ seq → (t.port port).expect = p.expect ∧ (t.port port).nak = true ∧
      (t.port port).partMsg = p.partMsg) ∧
    (∀ f older newer, p.unacked = older ++ f :: newer → f.seq = ack → (∀ g ∈ older, g.seq ≠ ack) →
      (t.port port).unacked = newer)) ∧
  (∀ lane, typ = 15 → ¬lost → payload = fit 240 (Config.controlPayload 0 [lane]) →
    (∀ l, l < lane → fit 240 (Config.controlPayload 0 [l]) ≠ payload) → lane ∈ used →
    (∃ x, x < 9 ∧ x ∉ used ∧ x ∉ lanesOf p.bad) →
    ∃ t, exec (.flitReceive port bs own others) s = .next t ∧ t.fld (Reg.eavStateSpared port) = lane ∧
      lane ∉ lanesOf (t.fld (Reg.eavStateLanes port)) ∧ (t.port port).expect = p.expect ∧
      t.raised = s.raised ++ [s.nextRec (srcPort port) 0x7 0x04 (port + lane * 2 ^ 5)]) ∧
  (lost → ∃ t, exec (.flitReceive port bs own others) s = .next t ∧ t.port port = { p with nak := true } ∧ counted t ∧
    s.SameBytes t ∧ t.raised = s.raised) ∧
  (∀ bad : List Byte, bad.length = 256 → crc64 (bad.take 248) ≠ le bad 248 8 →
    ∃ t, exec (.flitReceive port bad own others) s = .next t ∧ t.port port = { p with nak := true } ∧ counted t ∧
      s.SameBytes t ∧ s.SameRegs t [(Reg.eavFecCorr port).off, (Reg.eavFecUncorr port).off] ∧ t.raised = s.raised) ∧
  (p.expect = seq → ∃ t, exec (.voidedFlit port seq) s = .next t ∧ (t.port port).expect = (seq + 1) % 4096 ∧
    (t.port port).partMsg = [] ∧ (t.port port).unacked = p.unacked) ∧
  (p.expect ≠ seq → exec (.voidedFlit port seq) s = .next (s.setPort port { p with nak := true }))

/-- O48. Transfers. A completion ends a transfer only when its index holds a live transfer of the same epoch: the
index is then free and the task no longer waits for it; any other is discarded and counted in EAV_TAG.LATE and ends
none. Neither changes the credits that the port holds. A quarantined index is free again once its courses have
passed, and not before. A piece of the collective that a context of the image runs next on the axis, or runs, is held, and one of another number
or context is discarded and recorded. -/
def Obligations.Transfers : Prop :=
  ∀ (port : Nat) (s : State), port < 32 →
  (∀ m : Msg, let tag := m.tag
    let t0 := s.tagEntry port (tag % 4096)
    (t0.live.isSome = true ∧ t0.epoch = tag / 4096 % 16 →
      ∃ t, exec (.completion port m) s = .next t ∧ (t.tagEntry port (tag % 4096)).live = none ∧
        (t.port port).credits = (s.port port).credits ∧ t.regs = s.regs ∧
        ∀ b r, r ∈ (t.bay b).running → (port, tag) ∉ r.tags) ∧
    (¬(t0.live.isSome = true ∧ t0.epoch = tag / 4096 % 16) →
      ∃ t, exec (.completion port m) s = .next t ∧ t.bays = s.bays ∧ (t.port port).tags = (s.port port).tags ∧
        (t.port port).credits = (s.port port).credits ∧
        t.fld (Reg.eavTagLate port) = min 0xFFFF (s.fld (Reg.eavTagLate port) + 1))) ∧
  (∀ idx, idx < 4096 → let t0 := s.tagEntry port idx
    (t0.live = none → t0.until_ ≠ 0 → t0.until_ ≤ s.course.count.toNat →
      ∃ t, exec (.tagQuarantineEnd port idx) s = .next t ∧ t.tagFree port idx = true ∧
        (t.tagEntry port idx).epoch = t0.epoch) ∧
    (s.course.count.toNat < t0.until_ → exec (.tagQuarantineEnd port idx) s = .next s ∧
      s.tagFree port idx = false)) ∧
  (∀ m : Msg, s.up = true → port < 28 → m.dest = s.ownCoord →
    let runs : Prop := (s.context m.ctx).isSome = true ∧
      (s.nextColl m.ctx (portAxis port) = m.collseq ∨ s.collRuns m.ctx (portAxis port) m.collseq = true)
    (runs → exec (.piece port m) s = .next { s with held := s.held ++ [{ port := port, msg := m, spent := false }] }) ∧
    (¬runs → m.collseq < 2 ^ 16 → ∃ t, exec (.piece port m) s = .next t ∧ t.held = s.held ∧
      t.raised = s.raised ++ [s.nextRec (srcPort port) 0x7 0x09 (port + m.collseq * 2 ^ 5)]))

/-- O49. Messages. A stream write or count inside its window writes its bytes at the window's base plus OFFSET and
no others; a stream read sends the bytes back as a stream write and changes none; one outside every window is
discarded and recorded. Which window a TAG names is the model's choice (log entry 30). An event message enters the
ridge's cascade ring as 32 bytes, the record, then the sender's coordinates, then zeros; it is counted in EVT_CLOST while
the ring is full or disabled. A message for another module waits whole at an UP port of its route, in the flit type that
log entry 29 gives it, or before it; one that has waited too long is discarded, wherever it waits, unless some of it has
left, and every other message stays where it waits, in order. -/
def Obligations.Messages : Prop :=
  ∀ (port : Nat) (m : Msg) (s : State), s.up = true →
  let sent (t : State) (out typ : Nat) (via : Option (Nat × Msg)) (x : Msg) : Prop :=
    (t.port out).waiting = (s.port out).waiting ++ [{ typ := typ, queue := none, bytes := msgBytes x, via := via }]
  (port = 30 ∨ port = 31 →
    let a (w : StreamWindow) : Nat := w.base + m.offset
    let wrote (t : State) (at_ : Nat) (bs : List Byte) : Prop := ∀ x, t.peek x =
      if s.writable x = true ∧ at_ ≤ x ∧ x < at_ + bs.length then bs.getD (x - at_) 0 else s.peek x
    let refused (t : State) : Prop := s.SameBytes t ∧ (t.port port).waiting = (s.port port).waiting ∧
      t.raised = s.raised ++ [s.nextRec (srcPort port) 0x7 0x0B (port + m.offset / 2 ^ 16 % 2 ^ 16 * 2 ^ 5)]
    (∀ w, s.Canonical → s.window port m m.len = some w → m.data.length = m.len →
      ∃ t, exec (.streamWrite port m) s = .next t ∧ wrote t (a w) m.data) ∧
    (∀ w, s.Canonical → s.window port m 8 = some w → m.data.length = 8 →
      ∃ t, exec (.streamCount port m) s = .next t ∧ wrote t (a w) m.data) ∧
    (∀ w, s.window port m m.len = some w → ∃ t, exec (.streamRead port m) s = .next t ∧ s.SameBytes t ∧
      sent t port 1 none { m with mtype := 3, dest := m.src, src := s.ownCoord
                                  data := (List.range m.len).map fun i => s.peek (a w + i) }) ∧
    (s.window port m m.len = none → (∃ t, exec (.streamWrite port m) s = .next t ∧ refused t) ∧
      ∃ t, exec (.streamRead port m) s = .next t ∧ refused t) ∧
    (s.window port m 8 = none → ∃ t, exec (.streamCount port m) s = .next t ∧ refused t)) ∧
  (s.fld Reg.kpBeaconRole = 1 → m.dest = s.ownCoord →
    let full : Prop := s.fld Reg.evtCtlCen = 0 ∨
      2 ^ s.fld Reg.evtCsizeLog2 ≤ (s.fld Reg.evtCwriteIndex + 2 ^ 32 - s.fld Reg.evtCreadIndex) % 2 ^ 32
    let at_ := (s.fld Reg.evtCbaseAddrLo + s.fld Reg.evtCbaseHiAddrHi * 2 ^ 32) / 4096 * 4096 +
      s.fld Reg.evtCwriteIndex % 2 ^ s.fld Reg.evtCsizeLog2 * 32
    let entry := fit 16 m.data ++ toLe 2 m.src ++ List.replicate 14 0
    (¬full → ∃ t, exec (.eventMessage port m) s = .next t ∧
      t.fld Reg.evtCwriteIndex = (s.fld Reg.evtCwriteIndex + 1) % 2 ^ 32 ∧
      t.fld Reg.evtClostCount = s.fld Reg.evtClostCount ∧
      (s.Canonical → (∀ i, i < 32 → s.writable (at_ + i) = true) → ∀ x, t.peek x =
        if at_ ≤ x ∧ x < at_ + 32 then entry.getD (x - at_) 0 else s.peek x)) ∧
    (full → ∃ t, exec (.eventMessage port m) s = .next t ∧ s.SameBytes t ∧
      t.fld Reg.evtCwriteIndex = s.fld Reg.evtCwriteIndex ∧
      t.fld Reg.evtClostCount = min 0xFFFFFFFF (s.fld Reg.evtClostCount + 1))) ∧
  (port < 28 → m.dest ≠ s.ownCoord →
    (∀ out, s.route (some port) m.dest m.tag = some out → s.pstate out = 2 →
      ∃ t, exec (.transitForward port m) s = .next t ∧ (port, m) ∉ t.inTransit ∧ s.SameBytes t ∧
        sent t out (s.leavesAs out (some port) m) (some (port, m)) m) ∧
    ((∀ out, s.route (some port) m.dest m.tag = some out → s.pstate out ≠ 2) →
      ∃ t, exec (.transitForward port m) s = .next t ∧ (port, m) ∈ t.inTransit ∧ t.ports = s.ports)) ∧
  ((port, m) ∈ s.inTransit → ∃ t, exec (.transitTimeout port m) s = .next t ∧ s.SameBytes t ∧
    t.inTransit = (s.inTransit.filter fun x => decide (x ≠ (port, m))) ∧
    ∀ o, (t.port o).waiting = (s.port o).waiting) ∧
  ((port, m) ∉ s.inTransit →
    let waits (o : Nat) : Prop := o < 28 ∧ ∃ w ∈ (s.port o).waiting, w.via = some (port, m) ∧
      w.bytes.length = 16 + m.data.length
    ((∀ o, ¬waits o) → exec (.transitTimeout port m) s = .next s) ∧
    (∀ o, waits o → (∀ o', o' < o → ¬waits o') → ∃ t, exec (.transitTimeout port m) s = .next t ∧ s.SameBytes t ∧
      (t.port o).waiting = ((s.port o).waiting.filter fun w =>
        decide (¬(w.via = some (port, m) ∧ w.bytes.length = 16 + m.data.length))) ∧ t.inTransit = s.inTransit ∧
      ∀ o', o' ≠ o → (t.port o').waiting = (s.port o').waiting))

/-- O50. Lanes, fatal faults and weathering. A marked lane waits for repair once. A die that falls silent, or a link
that needs a third spare lane, is a fatal fault: shown in FL_ALERT, recorded and held; a link that has spares left is
none. At an interval's end alone the record is kept, unless both copies fail, when the plan in force stays and the
failure is recorded. The plan gives each die the fewest voltage steps, up to six, that leave it 25 ps, and the clock one
step more when every die keeps 40 ps, else the highest step down that keeps 25 ps, or 1,280 MHz; a lone bay that lacks
25 ps, judged after the voltage steps, is retired when its die has a spare, and does not slow the others. A change of the
plan is recorded. The place of that judgement, what counts as a change and the unit of the fatal-fault record are the
model's choice (log entry 94). -/
def Obligations.LanesAndWeathering : Prop :=
  ∀ s : State,
  (∀ die link lane ligger, let x := (die, link, ligger, lane)
    (s.up = true → x ∉ s.reliab.marked ∧ x ∉ s.reliab.repaired → exec (.meshLaneMark die link lane ligger) s =
      .next { s with reliab := { s.reliab with marked := s.reliab.marked ++ [x] } }) ∧
    (s.up = false ∨ x ∈ s.reliab.marked ∨ x ∈ s.reliab.repaired →
      exec (.meshLaneMark die link lane ligger) s = .next s)) ∧
  (∀ die kind, die < 32 → kind < 3 →
    let spent (link : Nat) : Nat := ((s.reliab.marked ++ s.reliab.repaired).filter fun x =>
      decide (x.1 = die ∧ x.2.1 = link ∧ x.2.2.1 = decide (kind = 1))).length
    let fatal : Prop := kind = 2 ∨ ∃ link, link < 4 ∧ 3 ≤ spent link
    (s.up = true → fatal → ∃ t, exec (.fatalFault die kind) s = .next t ∧ t.reliab.fatal = true ∧
      t.fld Reg.flAlertFatal = 1 ∧ s.SameBytes t ∧ s.SameRegs t [0x100104] ∧ t.bays = s.bays ∧
      t.raised = s.raised ++ [s.nextRec ⟨30, 4⟩ 0x9 0x09 (die + kind * 2 ^ 5)]) ∧
    (s.up = false ∨ ¬fatal → exec (.fatalFault die kind) s = .next s)) ∧
  ∀ r : Readings,
  let ends : Prop := s.up = true ∧ s.course.count.toNat % 2 ^ 20 = 0 ∧ s.course.count ≠ 0
  (¬ends → exec (.weatheringIntervalEnd r) s = .next s) ∧
  (ends → ∃ t, exec (.weatheringIntervalEnd r) s = .next t ∧ t.reliab.pageCorr = [] ∧ s.SameBytes t ∧
    (r.copy0 = false → r.copy1 = false → t.reliab.mhz = s.reliab.mhz ∧ t.reliab.vsteps = s.reliab.vsteps ∧
      t.reliab.records = s.reliab.records ∧ t.bays = s.bays ∧
      ∃ x ∈ t.raised, x.src = ⟨31, 1⟩ ∧ x.cls = 0xA ∧ x.num = 0x07) ∧
    (r.copy0 = true ∨ r.copy1 = true → t.fld Reg.wthPlanFactory = 0 ∧
      t.reliab.records = s.reliab.records ++
        [(s.course.count.toNat, if s.transit.diesOff then { r with slack := [] } else r)] ∧
      (s.transit.diesOff = true → t.reliab.mhz = s.reliab.mhz ∧ t.reliab.vsteps = s.reliab.vsteps ∧
        t.bays = s.bays) ∧
      (s.transit.diesOff = false →
        let f := s.plannedMhz
        let steps := t.reliab.vsteps
        let lone := match s.lacking r steps with
          | [b] => if (s.spareOf b.die).isSome && !s.spareTaken b.die then [b] else []
          | _ => []
        let keeps (g : Nat) (want : Int) : Prop := s.allKeep r steps lone f g want = true
        (∀ die n, (die, n) ∈ steps → die < 24 ∧ ∃ x, s.dieSlack r die [] = some x ∧
          (let has := s.fld (Reg.wthRailVstep die)
           has ≤ n ∧ n ≤ max 6 has ∧ (25 ≤ x + gainOf r die * ((n - has : Nat) : Int) ∨ n = max has 6) ∧
           ∀ m, has ≤ m → m < n → x + gainOf r die * ((m - has : Nat) : Int) < 25)) ∧
        (∀ die, die < 24 → (s.dieSlack r die []).isSome = true → ∃ n, (die, n) ∈ steps) ∧
        (∃ g, t.reliab.mhz = some g ∧
          (keeps f 25 → g = if f < 1600 ∧ s.allKeep r steps lone f (f + 16) 40 = true then f + 16 else f) ∧
          (¬keeps f 25 → (∃ n, n < 21 ∧ g = f - 16 * n ∧ 1280 ≤ g ∧ keeps g 25 ∧
              ∀ m, m < n → 1280 ≤ f - 16 * m → ¬keeps (f - 16 * m) 25) ∨
            (g = 1280 ∧ ∀ m, m < 21 → 1280 ≤ f - 16 * m → ¬keeps (f - 16 * m) 25)) ∧
          (g ≠ f ∨ (∃ x ∈ steps, x.2 ≠ s.fld (Reg.wthRailVstep x.1)) →
            ∃ x ∈ t.raised, x.src = ⟨30, 2⟩ ∧ x.cls = 0xA ∧ x.num = 0x01 ∧ x.detail = (1600 - g) / 16)) ∧
        (∀ b ∈ lone, b.wf = true → (s.bay b).faulty = none → s.bayRetired b = false →
          (t.bay b).faulty.map Prod.fst = some 3))))

/-- O51. Start-up and the agreement of features. Each stage that succeeds is reached in turn; firmware runs from the
active slot, else from the other, which is recorded, a slot counting only when its signature is good and its version not
below the fused one; with neither, or when a stage fails, as the second does when a link of the mesh has more failing
lanes than its two spares, start-up stops with ERROR and its code, recorded. The self-test leaves the stacks reading 0
(the model's choice, log entry 6). A feature word is written from stage 5 on while the words are open; a lock takes them when
every accepted bit is offered and CORE is accepted, else it is rejected and the lowest offending bit recorded; a write
of the same cycle by the other path comes after the lock (the model's choice, log entry 65). -/
def Obligations.BringupAndFeatures : Prop :=
  ∀ (p : Path) (s : State), s.up = true → s.reach p = true →
  let stage := s.fld Reg.kpReadyStage
  let locked := s.fld Reg.kpFeatstatLocked
  let failed (t : State) (code : Nat) : Prop := t.fld Reg.kpReadyError = 1 ∧ t.fld Reg.kpReadyEcode = code ∧
    t.fld Reg.kpReadyStage = stage ∧ t.fld Reg.flAlertBringup = 1 ∧
    t.raised = s.raised ++ [s.nextRec ⟨30, 0⟩ 0x8 0x06 code]
  let good (r : StageResult) (k : Nat) : Bool :=
    (if k = 0 then r.slot0 else r.slot1) && decide (s.fld Reg.flFwstatSvn ≤ s.mgmt.fwVer.getD k 0)
  let down (r : StageResult) : Prop := ∃ x ∈ r.mesh.failed,
    2 < (r.mesh.failed.eraseDups.filter fun y => decide (y.1 = x.1 ∧ y.2.1 = x.2.1 ∧ y.2.2.1 = x.2.2.1)).length
  let active := s.fld Reg.flFwstatSlot
  (∀ r : StageResult, s.fld Reg.kpReadyError = 1 ∨ 5 ≤ stage → exec (.bringupStageComplete r) s = .next s) ∧
  (∀ r : StageResult, s.fld Reg.kpReadyError = 0 → stage < 5 → r.ecode < 256 →
    (stage = 0 → good r active = true → ∃ t, exec (.bringupStageComplete r) s = .next t ∧
      t.fld Reg.kpReadyStage = 1 ∧ t.fld Reg.flFwstatSlot = active ∧
      t.mgmt.fwRun = s.mgmt.fwVer.getD active 0 ∧ t.raised = s.raised) ∧
    (stage = 0 → good r active = false → good r (1 - active) = true →
      ∃ t, exec (.bringupStageComplete r) s = .next t ∧ t.fld Reg.kpReadyStage = 1 ∧
        t.fld Reg.flFwstatSlot = 1 - active ∧ t.fld Reg.flAlertFw = 1 ∧
        t.mgmt.fwRun = s.mgmt.fwVer.getD (1 - active) 0 ∧
        t.raised = s.raised ++ [s.nextRec ⟨31, 2⟩ 0xC 0x01 (1 - active)]) ∧
    (stage = 0 → good r active = false → good r (1 - active) = false →
      ∃ t, exec (.bringupStageComplete r) s = .next t ∧ failed t 1) ∧
    (1 ≤ stage → r.ok = false → ∃ t, exec (.bringupStageComplete r) s = .next t ∧ failed t r.ecode) ∧
    (r.ok = true → stage = 1 → down r → ∃ t, exec (.bringupStageComplete r) s = .next t ∧ failed t 4 ∧
      t.reliab.marked = r.mesh.failed.eraseDups) ∧
    (r.ok = true → ((stage = 1 ∧ ¬down r) ∨ stage = 2 ∨ (stage = 3 ∧ s.hostPortUp = true) ∨ stage = 4) →
      ∃ t, exec (.bringupStageComplete r) s = .next t ∧ t.fld Reg.kpReadyStage = stage + 1 ∧
        t.fld Reg.kpReadyError = 0 ∧
        (stage = 1 → t.fld Reg.kpClockMhz = 1600 - 16 * s.fld Reg.wthPlanFstep ∧ t.reliab.fatal = false ∧
          t.reliab.marked = r.mesh.failed.eraseDups ∧ t.reliab.repaired = []) ∧
        (stage = 2 → t.mem = [] ∧ t.poison = []) ∧ (stage ≠ 2 → s.SameBytes t ∧ t.raised = s.raised) ∧
        (stage = 3 → t.hostPort = if s.pstate 28 = 2 then 28 else 29)) ∧
    (r.ok = true → stage = 3 → s.hostPortUp = false → exec (.bringupStageComplete r) s = .next s)) ∧
  (∀ (w j : Nat) (v : Word), w < 4 → j < 4 →
    let off := 0x50 + 4 * (4 * w + j)
    (stage < 5 → exec (.featAccWrite p w j v) s = .next (s.raise (srcPath p) 0xC 0x07 (off / 16))) ∧
    (5 ≤ stage → locked = 1 →
      exec (.featAccWrite p w j v) s = .next (s.raise (srcPath p) 0xC 0x0A (off / 16))) ∧
    (5 ≤ stage → locked = 0 → exec (.featAccWrite p w j v) s = .next (s.setReg off v))) ∧
  (let offends (n : Nat) : Prop :=
     (bits (s.fld (Reg.kpFeataccBits (n / 32))) (n % 32) 1 = 1 ∧ bits (s.reg (0x10 + 4 * (n / 32))).toNat (n % 32) 1 = 0) ∨
     (n = 0 ∧ s.fld (Reg.kpFeataccBits 0) % 2 = 0)
   let after (u : State) (same : Option (Nat × Word)) : Prop := ∀ k v, same = some (k, v) → k < 16 →
     exec (.featureLock p same) s = exec (.featAccWrite (otherPath p) (k / 4) (k % 4) v) u
   (stage < 5 → exec (.featureLock p none) s = .next (s.raise (srcPath p) 0xC 0x07 (0x90 / 16))) ∧
   (5 ≤ stage → locked = 1 → exec (.featureLock p none) s = .next (s.raise (srcPath p) 0xC 0x0A (0x90 / 16))) ∧
   (5 ≤ stage → locked = 0 → (∀ n, n < 512 → ¬offends n) →
     ∃ t, exec (.featureLock p none) s = .next t ∧ t.fld Reg.kpFeatstatLocked = 1 ∧
       t.fld Reg.kpFeatstatRejected = 0 ∧ t.fld Reg.kpReadyStage = 6 ∧ t.raised = s.raised ∧ s.SameBytes t ∧
       (∀ k, k < 16 → t.fld (Reg.kpFeataccBits k) = s.fld (Reg.kpFeataccBits k)) ∧ ∀ same, after t same) ∧
   (∀ n, 5 ≤ stage → locked = 0 → n < 512 → offends n → (∀ m, m < n → ¬offends m) →
     ∃ t, exec (.featureLock p none) s = .next t ∧ t.fld Reg.kpFeatstatLocked = 0 ∧
       t.fld Reg.kpFeatstatRejected = 1 ∧ t.fld Reg.kpReadyStage = stage ∧
       t.raised = s.raised ++ [s.nextRec ⟨30, 0⟩ 0x8 0x05 (n / 128 + 4 * (n % 128))] ∧ ∀ same, after t same))

/-- O52. Images. A load is taken from stage 6 with no image or a refused one. Once the loader has read it (what that
records is the model's choice, log entry 116), in one command (log entry 63), the checks in
ascending code order refuse it with their code, section and entry, recorded, or the Kingpost copies its tables; at any
other time it is a malformed access. Once it is set up the image runs, every queue holds its initial descriptors, and the event is recorded. An
unload starts from a running image alone, at any other time it is a malformed access (the model's choice, log entry 144),
and ends when no task runs with no image, no queue and every peg at 0. -/
def Obligations.Images : Prop :=
  ∀ (p : Path) (s : State), s.up = true → s.reach p = true →
  let st := s.fld Reg.kpImgstatState
  let may : Prop := s.fld Reg.kpReadyStage = 6 ∧ (st = 0 ∨ st = 4)
  let malformed (t : State) : Prop := t = s.raise (srcPath p) 0xC 0x07 (0x10018 / 16)
  (may → s.admission = none → ∃ t, exec (.imageLoad p) s = .next t ∧ t.image = some s.readImage ∧
    t.fld Reg.kpImgstatState = 2 ∧ s.SameBytes t) ∧
  (∀ r, may → s.admission = some r → ∃ t, exec (.imageLoad p) s = .next t ∧ t.image = s.image ∧
    t.fld Reg.kpImgstatState = 4 ∧ t.fld Reg.kpImgerrCode = r.code % 256 ∧
    t.fld Reg.kpImgerrSection = r.sect % 256 ∧ t.fld Reg.kpImgentEntry = r.entry % 2 ^ 32 ∧ s.SameBytes t ∧
    s.noteLoad.SameRegs t [0x1001C, 0x10020, 0x10024] ∧
    t.raised = s.noteLoad.raised ++ [s.noteLoad.nextRec ⟨30, 1⟩ 0x8 0x01
      ((r.code + r.sect % 2 ^ 8 * 2 ^ 8 + r.entry % 2 ^ 8 * 2 ^ 16) % 2 ^ 24)]) ∧
  (¬may → ∃ t, exec (.imageLoad p) s = .next t ∧ malformed t) ∧
  (st = 3 → exec (.imageUnload p) s = .next (s.setFld Reg.kpImgstatState 5)) ∧
  (st ≠ 3 → ∃ t, exec (.imageUnload p) s = .next t ∧ malformed t) ∧
  (∀ i, s.image = some i → st = 2 → ∃ t, exec .imageLoaded s = .next t ∧ t.image = some i ∧
    t.fld Reg.kpImgstatState = 3 ∧ t.fld Reg.kpReadyStage = 7 ∧
    (∃ x ∈ t.raised, x.src = ⟨30, 1⟩ ∧ x.cls = 0x8 ∧ x.num = 0x02 ∧ x.detail = i.contexts.length % 2 ^ 7) ∧
    ∀ q, q < i.queues.length → (t.queue q).head = 0 ∧ (t.queue q).tail = (i.initial q).length ∧
      (t.queue q).rerun = []) ∧
  (st ≠ 2 ∨ s.image = none → exec .imageLoaded s = .next s) ∧
  (st ≠ 5 ∨ s.anyRunning = true → exec .imageUnloadComplete s = .next s) ∧
  (st = 5 → s.anyRunning = false → ∃ t, exec .imageUnloadComplete s = .next t ∧ t.image = none ∧
    t.fld Reg.kpImgstatState = 0 ∧ t.fld Reg.kpReadyStage = 6 ∧ t.queues = [] ∧ t.watches = [] ∧
    (∀ n, n < 65536 → t.peg n = 0) ∧
    ∃ x ∈ t.raised, x.src = ⟨30, 1⟩ ∧ x.cls = 0x8 ∧ x.num = 0x04)

/-- O53. Input power. A rising input boots the Flashing die, with the SLOTID contacts sampled, the interlock loop sensed
and service access closed, runs the rails up and releases module reset unless the reset input is low; a rail
that fails, there or on the way out of Dormer-3, leaves the ones before it, shows its order in FL_PSTAT and raises the
power alert; each shut-off is a power loss that drops every rail, ends the image and the course count, and shows its kind
in FL_PSTAT, an over-voltage one neither (the model's choice, log entry 67); the weathering
history's bay map survives it. An excursion is recorded with the peak and slows nothing. -/
def Obligations.InputPower : Prop :=
  ∀ s : State,
  let lost (t : State) (uv op : Nat) : Prop := t.power.input = false ∧ t.power.rails = 0 ∧ t.up = false ∧
    t.image = none ∧ t.course.count = 0 ∧ t.evtBuf = [] ∧ t.fld Reg.flPstatLastuv = uv ∧
    t.fld Reg.flPstatLastop = op ∧ t.fld Reg.flPstatPgood = 0 ∧ t.power.lost = true ∧
    ∀ d, d < 24 → t.fld (Reg.bayMapLog d) = s.fld (Reg.bayMapLog d)
  let booted (t : State) (pins : PowerPins) : Prop := t.fld Reg.flSlotSlotid = pins.slotId ∧
    t.fld Reg.flIlkClosed = (if 3000 ≤ pins.microamps then 1 else if pins.microamps ≤ 1000 then 0
      else s.fld Reg.flIlkClosed) ∧ t.fld Reg.flSvcstatOpen = 0
  (∀ (pins : PowerPins) (low : Bool), pins.slotId < 64 → s.power.input = false →
    ∃ t, exec (.powerOn pins low) s = .next t ∧ t.power.rails = 0x7F ∧ t.up = !low ∧ t.fld Reg.flPstatPgood = 1 ∧
      booted t pins ∧ t.mem = s.mem ∧ t.poison = s.poison ∧ t.mgmt.pointer = 0) ∧
  (∀ f : RailFail, 1 ≤ f.rail → f.rail ≤ 6 → (s.power.input = false ∨ s.power.dormer3 = true) →
    ∃ t, exec (.railTimeout f) s = .next t ∧ t.fld Reg.flPstatFailrail = f.rail ∧ t.fld Reg.flPstatPgood = 0 ∧
      t.fld Reg.flAlertPwr = 1 ∧ t.up = false ∧ (∀ n, bits t.power.rails n 1 = 1 ↔ n < f.rail) ∧
      (s.power.dormer3 = false → f.pins.slotId < 64 → booted t f.pins) ∧
      (s.power.dormer3 = true → t.fld Reg.flSvcstatOpen = 0 ∧ (s.service = true →
        ∃ x ∈ t.raised, x.src = ⟨31, 2⟩ ∧ x.cls = 0xC ∧ x.num = 0x04))) ∧
  (s.power.input = true →
    (∃ t, exec .underVoltageShutoff s = .next t ∧ lost t 1 0) ∧
    (∃ t, exec .overPowerShutoff s = .next t ∧ lost t 0 1) ∧
    (∃ t, exec .overVoltageShutoff s = .next t ∧ lost t 0 0)) ∧
  (s.power.input = false → exec .underVoltageShutoff s = .next s ∧ exec .overPowerShutoff s = .next s ∧
    exec .overVoltageShutoff s = .next s) ∧
  (∀ peak, s.powered 31 = true → ∃ t, exec (.powerExcursion peak) s = .next t ∧ s.SameBytes t ∧
    s.SameRegs t [0x100008, 0x100104] ∧ t.fld Reg.flAlertPwr = 1 ∧
    t.fld Reg.flPinPeak = max (s.fld Reg.flPinPeak) (min 0xFFFF peak) ∧ t.bays = s.bays ∧ t.power = s.power ∧
    t.raised = s.raised ++ [s.nextRec ⟨31, 0⟩ 0xB 0x01 (max (s.fld Reg.flPinPeak) (min 0xFFFF peak))])

/-- O54. Resets. A write of KP_RESET needs its key, exactly one kind and no dormer state; any other is a malformed
access. A module reset starts the course count, the events and the image afresh and keeps every byte of memory, the
Underlays drained into it, and the weathering history's bay map. A warm or span reset waits for its boundary, one span
beside another; once its
tasks are gone it ends, recorded; a warm one has drained the Underlays and trained the mesh afresh, keeps WTH_PLAN.REPLAN,
and stops where a link of the mesh does not train. A bay reset, of a spare, retired or isolated bay alone, returns that bay's registers
to their after-reset values and no other. The reset input holds module reset while it is low; a short pulse is counted
and resets nothing, and a PCIe hot reset resets the endpoint's configuration space alone (whose values are presumed, log
entry 61). -/
def Obligations.Resets : Prop :=
  ∀ (p : Path) (v : Word) (s : State),
  let ok (kind : Nat) : Prop := v.toNat / 2 ^ 24 = 0x5A ∧ v.toNat % 16 = kind ∧ s.transit.entering = false ∧
    s.fld Reg.kpDormerState = 0
  let afresh (t : State) : Prop := t.course.count = 0 ∧ t.image = none ∧ t.raised = [] ∧ t.evtBuf = [] ∧
    t.watches = [] ∧ t.fld Reg.kpReadyStage = 0 ∧ (∀ d, d < 24 → t.fld (Reg.bayMapLog d) = s.fld (Reg.bayMapLog d))
  (s.Carries p 0xA0 →
    (ok 1 → ∃ t, exec (.moduleReset p v) s = .next t ∧ afresh t ∧ (s.Canonical → ∀ x, t.peek x = s.peek x)) ∧
    (ok 2 → s.transit.warm = 0 →
      exec (.warmReset p v) s = .next { s with transit := { s.transit with warm := 1 } }) ∧
    (∀ i, ok 4 → s.image = some i → s.fld Reg.kpImgstatState = 3 → v.toNat / 16 % 32 < i.spans.length →
      exec (.spanReset p v) s = .next { s with transit := { s.transit with
        spans := s.transit.spans.erase (v.toNat / 16 % 32) ++ [v.toNat / 16 % 32] } }) ∧
    (let b : PBay := ⟨v.toNat / 2 ^ 9 % 32, v.toNat / 2 ^ 14 % 16⟩
     ok 8 → b.wf = true → (s.spareOf b.die = some b ∨ s.bayRetired b = true ∨ (s.bay b).off = true) →
      ∃ t, exec (.bayReset p v) s = .next t ∧ t.bay b = { BayState.empty with off := (s.bay b).off } ∧
        t.mem = s.mem ∧ t.under = s.under ∧
        (∀ off, t.reg off = if bayBase b ≤ off ∧ off < bayBase b + 0x10000 then RegMap.resetWord off
          else s.reg off) ∧
        ∀ y off, bayKey y ≠ bayKey b → off < lathSize → t.lathPeek y off = s.lathPeek y off) ∧
    ((¬∃ k ∈ [1, 2, 4, 8], ok k) → ∀ i ∈ [Instr.moduleReset p v, .warmReset p v, .spanReset p v, .bayReset p v],
      exec i s = .next (s.raise (srcPath p) 0xC 0x07 (0xA0 / 16)))) ∧
  (∀ mesh : MeshTest, s.up = true → s.transit.warm = 2 →
    let down : Prop := ∃ x ∈ mesh.failed,
      2 < (mesh.failed.eraseDups.filter fun y => decide (y.1 = x.1 ∧ y.2.1 = x.2.1 ∧ y.2.2.1 = x.2.2.1)).length
    (¬down → ∃ t, exec (.warmResetComplete mesh) s = .next t ∧ t.transit.warm = 0 ∧
      t.transit.selfRefresh = s.transit.diesOff ∧ t.reliab.fatal = false ∧
      t.reliab.marked = mesh.failed.eraseDups ∧ t.fld Reg.wthPlanReplan = s.fld Reg.wthPlanReplan ∧
      (s.image = none → t.under = [] ∧ (s.Canonical → ∀ x, t.peek x = s.peek x)) ∧
      ∃ x ∈ t.raised, x.src = ⟨30, 1⟩ ∧ x.cls = 0xB ∧ x.num = 0x03) ∧
    (down → ∃ t, exec (.warmResetComplete mesh) s = .next t ∧ t.transit.warm = 3 ∧ t.fld Reg.kpReadyError = 1 ∧
      t.fld Reg.kpReadyEcode = 0x04 ∧ t.fld Reg.flAlertBringup = 1)) ∧
  (∀ i span, s.up = true → s.image = some i → span ∈ s.transit.spans →
    (∀ b r, r ∈ (s.bay b).running → s.inSpan span r.task.queue = false) → (s.bays.map Prod.fst).Nodup →
    ∃ t, exec (.spanResetComplete span) s = .next t ∧ t.transit.spans = s.transit.spans.erase span ∧
      ∃ x ∈ t.raised, x.src = ⟨30, 1⟩ ∧ x.cls = 0xB ∧ x.num = 0x04 ∧ x.detail = span % 2 ^ 5) ∧
  (∀ ns, s.powered 31 = true →
    (1000 ≤ ns → ∃ t, exec (.resetPin ns) s = .next t ∧ t.course.count = 0 ∧ t.image = none ∧
      t.power.pinLow = true ∧ t.up = false) ∧
    (50 ≤ ns → ns < 1000 → ∃ t, exec (.resetShortPulse ns) s = .next t ∧ s.SameBytes t ∧
      t.fld Reg.flIlkShortrst = min 0xFF (s.fld Reg.flIlkShortrst + 1) ∧ t.fld Reg.flAlertRstpulse = 1 ∧
      s.SameRegs t [0x100104, 0x100110] ∧ t.course = s.course ∧ t.image = s.image ∧ t.power = s.power)) ∧
  (s.powered 31 = true → s.power.pinLow = true → exec .resetInputRelease s =
    .next { s with power := { s.power with pinLow := false, released := decide (s.power.rails = 0x7F) } }) ∧
  exec .pcieHotReset s = .next (if s.up then { s with hostCfg := HostCfg.reset } else s)

/-- O55. Dormer states. Dormer-1 is asked for and waits for a boundary at which no task runs. Dormer-2 and Dormer-3
need an idle image: Dormer-2 drains the Underlays, so that every byte of memory reads as before, and powers down the
Rafter and Gable dies and the Eave dies of the axis ports; Dormer-3 drops every rail but the standby ones. Each entry and
exit is recorded with its state; that the record of entering Dormer-3 outlives the power of its source is the model's
choice (log entry 141), and so is each entry of Dormer-2 and Dormer-3, and exit of Dormer-2, in one command (log entry
95). A request that does not fit the state is a malformed access. PMBus OPERATION enters and leaves Dormer-3; the reset
input leaves it too. Leaving it closes service access, recorded. -/
def Obligations.DormerStates : Prop :=
  ∀ (p : Path) (s : State),
  let st := s.fld Reg.kpDormerState
  let idle : Prop := st = 0 ∧ s.fld Reg.kpImgstatState = 0
  let bad (i : Instr) : Prop := exec i s = .next (s.raise (srcPath p) 0xC 0x07 (0xA4 / 16))
  let third (t : State) : Prop := t.power.dormer3 = true ∧ t.power.rails = 1 ∧ t.up = false ∧ t.powered 31 = true ∧
    t.image = none ∧ t.fld Reg.flPstatPgood = 0 ∧ t.fld Reg.flIlkLit = 0 ∧
    t.raised = [s.nextRec ⟨30, 2⟩ 0xB 0x05 3]
  (s.Carries p 0xA4 →
    (st = 0 → exec (.dormer1Request p) s = .next
      (State.setFld { s with transit := { s.transit with entering := true } } Reg.kpDormerBusy 1)) ∧
    (st ≠ 0 → bad (.dormer1Request p)) ∧
    (idle → ∃ t, exec (.dormer2Request p) s = .next t ∧ t.fld Reg.kpDormerState = 2 ∧ t.fld Reg.kpDormerBusy = 0 ∧
      t.under = [] ∧ (s.Canonical → ∀ x, t.peek x = s.peek x) ∧ (∀ d, d < 27 ∨ d = 28 ∨ d = 29 → t.powered d = false) ∧
      ∃ x ∈ t.raised, x.src = ⟨30, 2⟩ ∧ x.cls = 0xB ∧ x.num = 0x05 ∧ x.detail = 2) ∧
    (¬idle → bad (.dormer2Request p) ∧ bad (.dormer3Request p)) ∧
    (idle → ∃ t, exec (.dormer3Request p) s = .next t ∧ third t) ∧
    (st = 1 → exec (.dormerExit p) s = .next
      (State.setFld { s with transit := { s.transit with leaving := true } } Reg.kpDormerBusy 1)) ∧
    (st = 2 → ∃ t, exec (.dormerExit p) s = .next t ∧ t.fld Reg.kpDormerState = 0 ∧ t.transit.diesOff = false ∧
      t.transit.selfRefresh = decide (2 ≤ s.transit.warm) ∧ s.SameBytes t ∧
      t.raised = s.raised ++ [s.nextRec ⟨30, 2⟩ 0xB 0x06 2]) ∧
    (st = 0 ∨ st = 3 → bad (.dormerExit p))) ∧
  (s.up = true → idle → ∃ t, exec .operationDormer3Enter s = .next t ∧ third t) ∧
  (s.powered 31 = true → s.power.dormer3 = true → ∃ t, exec .operationDormer3Leave s = .next t ∧
    t.power.rails = 0x7F ∧ t.power.dormer3 = false ∧ t.up = !s.power.pinLow ∧ t.fld Reg.flPstatPgood = 1 ∧
    t.fld Reg.flSvcstatOpen = 0 ∧ (∃ x ∈ t.raised, x.src = ⟨30, 2⟩ ∧ x.cls = 0xB ∧ x.num = 0x06 ∧ x.detail = 3) ∧
    (s.service = true → ∃ x ∈ t.raised, x.src = ⟨31, 2⟩ ∧ x.cls = 0xC ∧ x.num = 0x04)) ∧
  (∀ ns, s.powered 31 = true → s.power.dormer3 = true → 1000 ≤ ns → ∃ t, exec (.resetPin ns) s = .next t ∧
    t.power.dormer3 = false ∧ t.power.rails = 0x7F ∧ t.fld Reg.flSvcstatOpen = 0 ∧
    (∃ x ∈ t.raised, x.src = ⟨30, 2⟩ ∧ x.cls = 0xB ∧ x.num = 0x06 ∧ x.detail = 3) ∧
    (s.service = true → ∃ x ∈ t.raised, x.src = ⟨31, 2⟩ ∧ x.cls = 0xC ∧ x.num = 0x04)) ∧
  (s.up = true → s.transit.entering = true → s.anyRunning = false → ∃ t, exec (.courseBoundary []) s = .next t ∧
    t.fld Reg.kpDormerState = 1 ∧ t.fld Reg.kpDormerBusy = 0 ∧ t.transit.entering = false ∧
    ∃ x ∈ t.raised, x.src = ⟨30, 2⟩ ∧ x.cls = 0xB ∧ x.num = 0x05 ∧ x.detail = 1) ∧
  (s.up = true → s.transit.entering = false → s.transit.leaving = true → ∃ t, exec (.courseBoundary []) s = .next t ∧
    t.fld Reg.kpDormerState = 0 ∧ t.fld Reg.kpDormerBusy = 0 ∧ t.transit.leaving = false ∧
    ∃ x ∈ t.raised, x.src = ⟨30, 2⟩ ∧ x.cls = 0xB ∧ x.num = 0x06 ∧ x.detail = 1)

/-- O56. PMBus, while the standby rails are up. CLEAR_FAULTS clears the fault bits; READ_VIN, READ_IIN,
READ_TEMPERATURE_1, READ_POUT and READ_PIN answer a mantissa of at most 1,023 and an exponent that hold the reading
rounded down, READ_VOUT 512ths of a volt, and the readings stand in FL_VIN, FL_TEMP and FL_PIN; STATUS_WORD answers
the fault bits with OFF in Dormer-3 and POWER_GOOD#. The placing of the bits and of the exponent is the model's
(log entry 60); the revision is an open value (log entry 53). -/
def Obligations.PmBus : Prop :=
  ∀ s : State, s.powered 31 = true →
  let holds (t : State) (n d : Nat) : Prop := ∃ m k, t.resp = .word (m + (k + 16) % 32 * 2 ^ 11) ∧ m ≤ 1023 ∧
    k < 32 ∧ m * d * 2 ^ k ≤ n * 2 ^ 16 ∧ n * 2 ^ 16 < (m + 1) * d * 2 ^ k
  exec .clearFaults s = .next { s with power := { s.power with status := 0 } } ∧
  exec .statusWord s = .next { s with resp := .word (s.power.status + (if s.power.dormer3 then 2 ^ 6 else 0) +
    if s.fld Reg.flPstatPgood = 1 then 0 else 2 ^ 11) } ∧
  (∀ n, n < 2 ^ 16 →
    (∃ t, exec (.readVin n) s = .next t ∧ holds t n 10 ∧ t.fld Reg.flVinDv = n ∧ s.SameRegs t [0x100004]) ∧
    (∃ t, exec (.readIin n) s = .next t ∧ holds t n 1000 ∧ s.SameRegs t []) ∧
    (∃ t, exec (.readVout n) s = .next t ∧ t.resp = .word (min 0xFFFF (n * 512 / 100)) ∧
      t.fld Reg.flVinBus = n ∧ s.SameRegs t [0x100004]) ∧
    (∃ t, exec (.readPout n) s = .next t ∧ holds t n 1 ∧ s.SameRegs t []) ∧
    (∃ t, exec (.readPin n) s = .next t ∧ holds t n 1 ∧ t.fld Reg.flPinW = n ∧ s.SameRegs t [0x100008])) ∧
  (∀ degC die, degC < 256 → die < 32 → ∃ t, exec (.readTemperature1 degC die) s = .next t ∧ holds t degC 1 ∧
    t.fld Reg.flTempDie = degC ∧ t.fld Reg.flTempWhich = die ∧ s.SameRegs t [0x10000C]) ∧
  ∃ v, v < 256 ∧ exec .pmbusRevision s = .next { s with resp := .word v }

/-- O57. The management bus. The access pointer is set to 28 bits; a read or write at it is the BAR0 access of the
bus path at the pointer, which then moves on by 4; a command with a wrong PEC is answered with a NACK and changes nothing
else. While ALERT_N is low,
which is while an enabled bit of FL_ALERT is 1, both targets answer an alert response with their own address. A clock
held low too long changes no register. -/
def Obligations.ManagementBus : Prop :=
  ∀ s : State, s.powered 31 = true →
  let ptr := s.mgmt.pointer
  (∀ off, exec (.setAccessPointer off true) s =
      .next { s with mgmt := { s.mgmt with pointer := off % 2 ^ 28 } } ∧
    exec (.setAccessPointer off false) s = .next { s with resp := .nack }) ∧
  (∃ s1, exec (.registerRead .bus ptr ⟨4, none⟩) s = .next s1 ∧ exec (.readAtPointer true) s =
    .next { s1 with mgmt := { s1.mgmt with pointer := (ptr + 4) % 2 ^ 28 } }) ∧
  exec (.readAtPointer false) s = .next { s with resp := .nack } ∧
  (∀ v : Word, (∃ s1, exec (.registerWrite .bus ptr 4 ⟨v.setWidth 64, none⟩) s = .next s1 ∧
      exec (.writeAtPointer v true) s =
        .next { s1 with mgmt := { s1.mgmt with pointer := (s1.mgmt.pointer + 4) % 2 ^ 28 } }) ∧
    exec (.writeAtPointer v false) s = .next { s with resp := .nack }) ∧
  ((∃ i, i < 7 ∧ bits (s.reg 0x100104).toNat i 1 = 1 ∧ bits (s.fld Reg.flAlertenEn) i 1 = 1) →
    exec .alertResponse s = .next { s with resp := .bytes [0x58, 0x59] }) ∧
  ((∀ i, i < 7 → bits (s.reg 0x100104).toNat i 1 = 1 → bits (s.fld Reg.flAlertenEn) i 1 = 0) →
    exec .alertResponse s = .next { s with resp := .none }) ∧
  ∀ target, exec (.busClockTimeout target) s = .next s

/-- O58. Lasers. When the interlock loop opens every unit goes dark at once, every UP port enters REPLAY, and the
opening is counted, alerted and recorded; when it closes, the hold of 100 ms starts for each unit whose presence
contact is made. A unit whose contact opens goes dark alone; one whose contacts have stayed closed is lit again, and
its ports that keep no retry buffer train from OFF. -/
def Obligations.Lasers : Prop :=
  ∀ s : State,
  let lit (t : State) (unit : Nat) : Prop := bits (t.fld Reg.flIlkLit) unit 1 = 1
  (∀ ua, s.powered 31 = true → ua ≤ 1000 → s.fld Reg.flIlkClosed = 1 →
    ∃ t, exec (.interlockOpen ua) s = .next t ∧ t.fld Reg.flIlkClosed = 0 ∧ t.fld Reg.flIlkLit = 0 ∧
      t.fld Reg.flIlkOpens = min 0xFF (s.fld Reg.flIlkOpens + 1) ∧ t.fld Reg.flAlertIlk = 1 ∧ t.mgmt.hold = 0 ∧
      (∀ port, port < 32 → lit s (port / 8) → s.pstate port = 2 → t.pstate port = 3 ∧
        ∃ x ∈ t.raised, x.src = srcPort port ∧ x.cls = 0x7 ∧ x.num = 0x02 ∧ x.detail = port) ∧ s.SameBytes t ∧
      ∃ x ∈ t.raised, x.src = ⟨31, 3⟩ ∧ x.cls = 0xC ∧ x.num = 0x06) ∧
  (∀ ua, s.powered 31 = true → 3000 ≤ ua → s.fld Reg.flIlkClosed = 0 →
    ∃ t, exec (.interlockClose ua) s = .next t ∧ t.fld Reg.flIlkClosed = 1 ∧
      t.fld Reg.flIlkLit = s.fld Reg.flIlkLit ∧ t.mgmt.hold = s.mgmt.presence ∧ s.SameRegs t [0x100110]) ∧
  (∀ unit, unit < 4 → ∃ t, exec (.laserPresenceOpen unit) s = .next t ∧ ¬lit t unit ∧
    (∀ u, u < 4 → u ≠ unit → (lit t u ↔ lit s u)) ∧ bits t.mgmt.presence unit 1 = 0 ∧ bits t.mgmt.hold unit 1 = 0 ∧
    (∀ port, port / 8 = unit → lit s unit → s.pstate port = 2 → t.pstate port = 3) ∧
    ∀ port, port < 32 → port / 8 ≠ unit → t.pstate port = s.pstate port) ∧
  (∀ unit, unit < 4 → bits s.mgmt.presence unit 1 = 0 → ∃ t, exec (.laserPresenceClose unit) s = .next t ∧
    bits t.mgmt.presence unit 1 = 1 ∧ bits t.mgmt.hold unit 1 = s.fld Reg.flIlkClosed ∧ t.regs = s.regs) ∧
  (∀ unit, unit < 4 → bits s.mgmt.hold unit 1 = 1 → s.power.rails = 0x7F → s.fld Reg.flIlkClosed = 1 →
    ∃ t, exec (.laserRelight unit) s = .next t ∧ lit t unit ∧ bits t.mgmt.hold unit 1 = 0 ∧
      (∀ u, u < 4 → u ≠ unit → (lit t u ↔ lit s u)) ∧
      ∀ port, port / 8 = unit → t.pstate port = (if s.pstate port = 2 ∨ s.pstate port = 3 then s.pstate port else 0))

/-- O59. Signed firmware. An image that verifies and is not older than the fused version goes into the inactive slot,
which runs from the next reset, and the active slot is untouched; any other is refused, alerted and recorded, and
writes no slot. The fused version rises to that of the running image and never falls. -/
def Obligations.Firmware : Prop :=
  ∀ (p : Path) (s : State), s.Carries p 0x180044 → s.up = true → s.transit.selfRefresh = false →
  (s.noteRead ⟨31, 2⟩ s.fwAddr Config.firmwareLength).2 = false →
  let version := Config.firmwareVersion ((List.range Config.firmwareLength).map fun i => s.peek (s.fwAddr + i))
  let k := 1 - s.fld Reg.flFwstatSlot
  let refused (t : State) : Prop := t.mgmt = s.mgmt ∧ t.fld Reg.flAlertFw = 1 ∧
    t.fld Reg.flFwstatAok = s.fld Reg.flFwstatAok ∧ t.fld Reg.flFwstatBok = s.fld Reg.flFwstatBok ∧
    ∃ x ∈ t.raised, x.src = ⟨31, 2⟩ ∧ x.cls = 0xC ∧ x.num = 0x02
  (∀ v, version = some v → s.fld Reg.flFwstatSvn ≤ v → ∃ t, exec (.fwInstall p) s = .next t ∧ t.mgmt.fwNext = k ∧
    t.mgmt.fwVer = s.mgmt.fwVer.set k v ∧ t.fld (if k = 0 then Reg.flFwstatAok else Reg.flFwstatBok) = 1 ∧
    t.fld Reg.flFwstatSlot = s.fld Reg.flFwstatSlot ∧ t.fld Reg.flFwstatSvn = s.fld Reg.flFwstatSvn ∧
    t.mgmt.fwRun = s.mgmt.fwRun) ∧
  (version = none → ∃ t, exec (.fwInstall p) s = .next t ∧ refused t) ∧
  (∀ v, version = some v → v < s.fld Reg.flFwstatSvn → ∃ t, exec (.fwInstall p) s = .next t ∧ refused t) ∧
  (s.mgmt.fwRun ≤ 0x20 → ∃ t, exec (.fwCommit p) s = .next t ∧
    t.fld Reg.flFwstatSvn = max (s.fld Reg.flFwstatSvn) s.mgmt.fwRun ∧ s.SameRegs t [0x180040] ∧ t.raised = s.raised)

/-- O60. Service access, with the command key and no command running. SET takes a password of 8 to 32 bytes while
none is set. TRY runs for a second; then the right password opens access and gives back five tries, a wrong one costs
a try, and the fifth locks out until the next module reset, after which no password opens it. CHALLENGE shows the
identity and 32 open bytes; a RESPONSE opens access when it verifies against the live challenge, and either way voids
it. CLOSE closes access. That a TRY judges the buffer as it stands when its second is over, and that FL_CHAL reads 0 once
its challenge is void, are the model's choice (log entries 125, 126, 69). Each command that ends clears the buffer. Without the key, or while one runs, a command is a
malformed access. -/
def Obligations.ServiceAccess : Prop :=
  ∀ (p : Path) (s : State),
  let n := s.fld Reg.flSvclenLen
  let opened (t : State) (how : Nat) : Prop := t.fld Reg.flSvcstatOpen = 1 ∧ t.fld Reg.flSvcstatHow = how ∧
    t.fld Reg.flAlertSvc = 1 ∧ ∃ x ∈ t.raised, x.src = ⟨31, 2⟩ ∧ x.cls = 0xC ∧ x.num = 0x03
  let ended (t : State) (failed : Nat) : Prop := t.fld Reg.flSvcstatLastfail = failed ∧
    t.fld Reg.flSvclenLen = 0 ∧ ∀ k, k < 24 → t.fld (Reg.flSvcbufData k) = 0
  let shut (t : State) : Prop := t.fld Reg.flSvcstatOpen = s.fld Reg.flSvcstatOpen
  (s.Carries p 0x180004 → s.fld Reg.flSvcstatBusy = 0 →
    (s.fld Reg.flSvcstatPwset = 0 → 8 ≤ n → n ≤ 32 → ∃ t, exec (.svcSet p 0xA5) s = .next t ∧ ended t 0 ∧ shut t ∧
      t.fld Reg.flSvcstatPwset = 1 ∧ t.mgmt.pwHash = some (Config.passwordHash s.svcBytes)) ∧
    (s.fld Reg.flSvcstatPwset = 1 ∨ n < 8 ∨ 32 < n → ∃ t, exec (.svcSet p 0xA5) s = .next t ∧ ended t 1 ∧ shut t ∧
      t.mgmt.pwHash = s.mgmt.pwHash) ∧
    (∃ t, exec (.svcTry p 0xA5) s = .next t ∧ t.fld Reg.flSvcstatBusy = 1 ∧ t.mgmt.svcCmd = 2 ∧ shut t) ∧
    (∃ t, exec (.svcChallenge p 0xA5) s = .next t ∧ ended t 0 ∧ shut t ∧ t.mgmt.challenge = true ∧
      ∀ k, k < 4 → t.fld (Reg.flChalData k) = Config.deviceIdentity / 2 ^ (32 * k) % 2 ^ 32) ∧
    (let valid : Prop := s.mgmt.challenge = true ∧ n = 96 ∧ Config.responseValid s.challengeBytes s.svcBytes = true
     ∃ t, exec (.svcResponse p 0xA5) s = .next t ∧ t.mgmt.challenge = false ∧
      (∀ k, k < 12 → t.fld (Reg.flChalData k) = 0) ∧
      (valid → opened t 2 ∧ ended t 0) ∧ (¬valid → shut t ∧ ended t 1)) ∧
    (∃ t, exec (.svcClose p 0xA5) s = .next t ∧ t.fld Reg.flSvcstatOpen = 0 ∧ t.fld Reg.flSvcstatHow = 0 ∧ ended t 0)) ∧
  (s.Carries p 0x180004 → ∀ key, (s.fld Reg.flSvcstatBusy = 1 ∨ key ≠ 0xA5) →
    ∀ i ∈ [Instr.svcSet p key, .svcTry p key, .svcChallenge p key, .svcResponse p key, .svcClose p key],
      exec i s = .next (s.raise (srcPath p) 0xC 0x07 (0x180004 / 16))) ∧
  (s.powered 31 = true → s.fld Reg.flSvcstatBusy = 1 → s.mgmt.svcCmd = 2 →
    let right : Prop := s.mgmt.pwHash = some (Config.passwordHash s.svcBytes)
    let tries := s.fld Reg.flSvcstatTries
    ∃ t, exec .svcTryComplete s = .next t ∧ t.fld Reg.flSvcstatBusy = 0 ∧ t.mgmt.svcCmd = 0 ∧
      (s.fld Reg.flSvcstatLockout = 0 → right → opened t 1 ∧ t.fld Reg.flSvcstatTries = 5 ∧ ended t 0) ∧
      (s.fld Reg.flSvcstatLockout = 0 → ¬right → shut t ∧ t.fld Reg.flSvcstatTries = tries - 1 ∧ ended t 1 ∧
        (tries ≤ 1 → t.fld Reg.flSvcstatLockout = 1 ∧ t.fld Reg.flAlertSvc = 1)) ∧
      (s.fld Reg.flSvcstatLockout = 1 → shut t ∧ t.fld Reg.flSvcstatLockout = 1 ∧ ended t 1))
end

