-- ==== Sys2Proof/Laws/State.lean ====
section
/-! SUPPORT. What the small updates of the state leave alone: one lemma per field per update, each true by
rfl, so that no later proof opens a record update. The rfl stands in parentheses, so that simp rewrites with these
lemmas: a chain of them closed by definitional unfolding alone makes the kernel compare whole register files. -/

namespace Sys2Proof.Machine

variable (s : State)

/-! ### setReg -/

@[simp] theorem State.setReg_pending (off : Nat) (w : Word) : (s.setReg off w).pending = s.pending := (rfl)
@[simp] theorem State.setReg_free (off : Nat) (w : Word) : (s.setReg off w).free = s.free := (rfl)
@[simp] theorem State.setReg_resp (off : Nat) (w : Word) : (s.setReg off w).resp = s.resp := (rfl)
@[simp] theorem State.setReg_live (off : Nat) (w : Word) : (s.setReg off w).live = s.live := (rfl)
@[simp] theorem State.setReg_prev (off : Nat) (w : Word) : (s.setReg off w).prev = s.prev := (rfl)
@[simp] theorem State.setReg_commits (off : Nat) (w : Word) : (s.setReg off w).commits = s.commits := (rfl)
@[simp] theorem State.setReg_course (off : Nat) (w : Word) : (s.setReg off w).course = s.course := (rfl)
@[simp] theorem State.setReg_power (off : Nat) (w : Word) : (s.setReg off w).power = s.power := (rfl)
@[simp] theorem State.setReg_mgmt (off : Nat) (w : Word) : (s.setReg off w).mgmt = s.mgmt := (rfl)
@[simp] theorem State.setReg_reliab (off : Nat) (w : Word) : (s.setReg off w).reliab = s.reliab := (rfl)
@[simp] theorem State.setReg_transit (off : Nat) (w : Word) : (s.setReg off w).transit = s.transit := (rfl)
@[simp] theorem State.setReg_seqs (off : Nat) (w : Word) : (s.setReg off w).seqs = s.seqs := (rfl)
@[simp] theorem State.setReg_raised (off : Nat) (w : Word) : (s.setReg off w).raised = s.raised := (rfl)
@[simp] theorem State.setReg_evtBuf (off : Nat) (w : Word) : (s.setReg off w).evtBuf = s.evtBuf := (rfl)
@[simp] theorem State.setReg_mem (off : Nat) (w : Word) : (s.setReg off w).mem = s.mem := (rfl)
@[simp] theorem State.setReg_lath (off : Nat) (w : Word) : (s.setReg off w).lath = s.lath := (rfl)
@[simp] theorem State.setReg_slots (off : Nat) (w : Word) : (s.setReg off w).slots = s.slots := (rfl)
@[simp] theorem State.setReg_poison (off : Nat) (w : Word) : (s.setReg off w).poison = s.poison := (rfl)
@[simp] theorem State.setReg_under (off : Nat) (w : Word) : (s.setReg off w).under = s.under := (rfl)
@[simp] theorem State.setReg_loft (off : Nat) (w : Word) : (s.setReg off w).loft = s.loft := (rfl)
@[simp] theorem State.setReg_plru (off : Nat) (w : Word) : (s.setReg off w).plru = s.plru := (rfl)
@[simp] theorem State.setReg_arbs (off : Nat) (w : Word) : (s.setReg off w).arbs = s.arbs := (rfl)
@[simp] theorem State.setReg_watches (off : Nat) (w : Word) : (s.setReg off w).watches = s.watches := (rfl)
@[simp] theorem State.setReg_image (off : Nat) (w : Word) : (s.setReg off w).image = s.image := (rfl)
@[simp] theorem State.setReg_queues (off : Nat) (w : Word) : (s.setReg off w).queues = s.queues := (rfl)
@[simp] theorem State.setReg_bays (off : Nat) (w : Word) : (s.setReg off w).bays = s.bays := (rfl)
@[simp] theorem State.setReg_ports (off : Nat) (w : Word) : (s.setReg off w).ports = s.ports := (rfl)
@[simp] theorem State.setReg_hostPort (off : Nat) (w : Word) : (s.setReg off w).hostPort = s.hostPort := (rfl)
@[simp] theorem State.setReg_hostCfg (off : Nat) (w : Word) : (s.setReg off w).hostCfg = s.hostCfg := (rfl)
@[simp] theorem State.setReg_held (off : Nat) (w : Word) : (s.setReg off w).held = s.held := (rfl)
@[simp] theorem State.setReg_collseq (off : Nat) (w : Word) : (s.setReg off w).collseq = s.collseq := (rfl)
@[simp] theorem State.setReg_inTransit (off : Nat) (w : Word) : (s.setReg off w).inTransit = s.inTransit := (rfl)
@[simp] theorem State.setReg_media (off : Nat) (w : Word) : (s.setReg off w).media = s.media := (rfl)

/-! ### setFld -/

@[simp] theorem State.setFld_pending (f : Field) (v : Nat) : (s.setFld f v).pending = s.pending := (rfl)
@[simp] theorem State.setFld_free (f : Field) (v : Nat) : (s.setFld f v).free = s.free := (rfl)
@[simp] theorem State.setFld_resp (f : Field) (v : Nat) : (s.setFld f v).resp = s.resp := (rfl)
@[simp] theorem State.setFld_live (f : Field) (v : Nat) : (s.setFld f v).live = s.live := (rfl)
@[simp] theorem State.setFld_prev (f : Field) (v : Nat) : (s.setFld f v).prev = s.prev := (rfl)
@[simp] theorem State.setFld_commits (f : Field) (v : Nat) : (s.setFld f v).commits = s.commits := (rfl)
@[simp] theorem State.setFld_course (f : Field) (v : Nat) : (s.setFld f v).course = s.course := (rfl)
@[simp] theorem State.setFld_power (f : Field) (v : Nat) : (s.setFld f v).power = s.power := (rfl)
@[simp] theorem State.setFld_mgmt (f : Field) (v : Nat) : (s.setFld f v).mgmt = s.mgmt := (rfl)
@[simp] theorem State.setFld_reliab (f : Field) (v : Nat) : (s.setFld f v).reliab = s.reliab := (rfl)
@[simp] theorem State.setFld_transit (f : Field) (v : Nat) : (s.setFld f v).transit = s.transit := (rfl)
@[simp] theorem State.setFld_seqs (f : Field) (v : Nat) : (s.setFld f v).seqs = s.seqs := (rfl)
@[simp] theorem State.setFld_raised (f : Field) (v : Nat) : (s.setFld f v).raised = s.raised := (rfl)
@[simp] theorem State.setFld_evtBuf (f : Field) (v : Nat) : (s.setFld f v).evtBuf = s.evtBuf := (rfl)
@[simp] theorem State.setFld_mem (f : Field) (v : Nat) : (s.setFld f v).mem = s.mem := (rfl)
@[simp] theorem State.setFld_lath (f : Field) (v : Nat) : (s.setFld f v).lath = s.lath := (rfl)
@[simp] theorem State.setFld_slots (f : Field) (v : Nat) : (s.setFld f v).slots = s.slots := (rfl)
@[simp] theorem State.setFld_poison (f : Field) (v : Nat) : (s.setFld f v).poison = s.poison := (rfl)
@[simp] theorem State.setFld_under (f : Field) (v : Nat) : (s.setFld f v).under = s.under := (rfl)
@[simp] theorem State.setFld_loft (f : Field) (v : Nat) : (s.setFld f v).loft = s.loft := (rfl)
@[simp] theorem State.setFld_plru (f : Field) (v : Nat) : (s.setFld f v).plru = s.plru := (rfl)
@[simp] theorem State.setFld_arbs (f : Field) (v : Nat) : (s.setFld f v).arbs = s.arbs := (rfl)
@[simp] theorem State.setFld_watches (f : Field) (v : Nat) : (s.setFld f v).watches = s.watches := (rfl)
@[simp] theorem State.setFld_image (f : Field) (v : Nat) : (s.setFld f v).image = s.image := (rfl)
@[simp] theorem State.setFld_queues (f : Field) (v : Nat) : (s.setFld f v).queues = s.queues := (rfl)
@[simp] theorem State.setFld_bays (f : Field) (v : Nat) : (s.setFld f v).bays = s.bays := (rfl)
@[simp] theorem State.setFld_ports (f : Field) (v : Nat) : (s.setFld f v).ports = s.ports := (rfl)
@[simp] theorem State.setFld_hostPort (f : Field) (v : Nat) : (s.setFld f v).hostPort = s.hostPort := (rfl)
@[simp] theorem State.setFld_hostCfg (f : Field) (v : Nat) : (s.setFld f v).hostCfg = s.hostCfg := (rfl)
@[simp] theorem State.setFld_held (f : Field) (v : Nat) : (s.setFld f v).held = s.held := (rfl)
@[simp] theorem State.setFld_collseq (f : Field) (v : Nat) : (s.setFld f v).collseq = s.collseq := (rfl)
@[simp] theorem State.setFld_inTransit (f : Field) (v : Nat) : (s.setFld f v).inTransit = s.inTransit := (rfl)
@[simp] theorem State.setFld_media (f : Field) (v : Nat) : (s.setFld f v).media = s.media := (rfl)

/-! ### setFlag -/

@[simp] theorem State.setFlag_pending (f : Field) (b : Bool) : (s.setFlag f b).pending = s.pending := (rfl)
@[simp] theorem State.setFlag_free (f : Field) (b : Bool) : (s.setFlag f b).free = s.free := (rfl)
@[simp] theorem State.setFlag_resp (f : Field) (b : Bool) : (s.setFlag f b).resp = s.resp := (rfl)
@[simp] theorem State.setFlag_live (f : Field) (b : Bool) : (s.setFlag f b).live = s.live := (rfl)
@[simp] theorem State.setFlag_prev (f : Field) (b : Bool) : (s.setFlag f b).prev = s.prev := (rfl)
@[simp] theorem State.setFlag_commits (f : Field) (b : Bool) : (s.setFlag f b).commits = s.commits := (rfl)
@[simp] theorem State.setFlag_course (f : Field) (b : Bool) : (s.setFlag f b).course = s.course := (rfl)
@[simp] theorem State.setFlag_power (f : Field) (b : Bool) : (s.setFlag f b).power = s.power := (rfl)
@[simp] theorem State.setFlag_mgmt (f : Field) (b : Bool) : (s.setFlag f b).mgmt = s.mgmt := (rfl)
@[simp] theorem State.setFlag_reliab (f : Field) (b : Bool) : (s.setFlag f b).reliab = s.reliab := (rfl)
@[simp] theorem State.setFlag_transit (f : Field) (b : Bool) : (s.setFlag f b).transit = s.transit := (rfl)
@[simp] theorem State.setFlag_seqs (f : Field) (b : Bool) : (s.setFlag f b).seqs = s.seqs := (rfl)
@[simp] theorem State.setFlag_raised (f : Field) (b : Bool) : (s.setFlag f b).raised = s.raised := (rfl)
@[simp] theorem State.setFlag_evtBuf (f : Field) (b : Bool) : (s.setFlag f b).evtBuf = s.evtBuf := (rfl)
@[simp] theorem State.setFlag_mem (f : Field) (b : Bool) : (s.setFlag f b).mem = s.mem := (rfl)
@[simp] theorem State.setFlag_lath (f : Field) (b : Bool) : (s.setFlag f b).lath = s.lath := (rfl)
@[simp] theorem State.setFlag_slots (f : Field) (b : Bool) : (s.setFlag f b).slots = s.slots := (rfl)
@[simp] theorem State.setFlag_poison (f : Field) (b : Bool) : (s.setFlag f b).poison = s.poison := (rfl)
@[simp] theorem State.setFlag_under (f : Field) (b : Bool) : (s.setFlag f b).under = s.under := (rfl)
@[simp] theorem State.setFlag_loft (f : Field) (b : Bool) : (s.setFlag f b).loft = s.loft := (rfl)
@[simp] theorem State.setFlag_plru (f : Field) (b : Bool) : (s.setFlag f b).plru = s.plru := (rfl)
@[simp] theorem State.setFlag_arbs (f : Field) (b : Bool) : (s.setFlag f b).arbs = s.arbs := (rfl)
@[simp] theorem State.setFlag_watches (f : Field) (b : Bool) : (s.setFlag f b).watches = s.watches := (rfl)
@[simp] theorem State.setFlag_image (f : Field) (b : Bool) : (s.setFlag f b).image = s.image := (rfl)
@[simp] theorem State.setFlag_queues (f : Field) (b : Bool) : (s.setFlag f b).queues = s.queues := (rfl)
@[simp] theorem State.setFlag_bays (f : Field) (b : Bool) : (s.setFlag f b).bays = s.bays := (rfl)
@[simp] theorem State.setFlag_ports (f : Field) (b : Bool) : (s.setFlag f b).ports = s.ports := (rfl)
@[simp] theorem State.setFlag_hostPort (f : Field) (b : Bool) : (s.setFlag f b).hostPort = s.hostPort := (rfl)
@[simp] theorem State.setFlag_hostCfg (f : Field) (b : Bool) : (s.setFlag f b).hostCfg = s.hostCfg := (rfl)
@[simp] theorem State.setFlag_held (f : Field) (b : Bool) : (s.setFlag f b).held = s.held := (rfl)
@[simp] theorem State.setFlag_collseq (f : Field) (b : Bool) : (s.setFlag f b).collseq = s.collseq := (rfl)
@[simp] theorem State.setFlag_inTransit (f : Field) (b : Bool) : (s.setFlag f b).inTransit = s.inTransit := (rfl)
@[simp] theorem State.setFlag_media (f : Field) (b : Bool) : (s.setFlag f b).media = s.media := (rfl)

/-! ### bump -/

@[simp] theorem State.bump_pending (f : Field) (n : Nat) : (s.bump f n).pending = s.pending := (rfl)
@[simp] theorem State.bump_free (f : Field) (n : Nat) : (s.bump f n).free = s.free := (rfl)
@[simp] theorem State.bump_resp (f : Field) (n : Nat) : (s.bump f n).resp = s.resp := (rfl)
@[simp] theorem State.bump_live (f : Field) (n : Nat) : (s.bump f n).live = s.live := (rfl)
@[simp] theorem State.bump_prev (f : Field) (n : Nat) : (s.bump f n).prev = s.prev := (rfl)
@[simp] theorem State.bump_commits (f : Field) (n : Nat) : (s.bump f n).commits = s.commits := (rfl)
@[simp] theorem State.bump_course (f : Field) (n : Nat) : (s.bump f n).course = s.course := (rfl)
@[simp] theorem State.bump_power (f : Field) (n : Nat) : (s.bump f n).power = s.power := (rfl)
@[simp] theorem State.bump_mgmt (f : Field) (n : Nat) : (s.bump f n).mgmt = s.mgmt := (rfl)
@[simp] theorem State.bump_reliab (f : Field) (n : Nat) : (s.bump f n).reliab = s.reliab := (rfl)
@[simp] theorem State.bump_transit (f : Field) (n : Nat) : (s.bump f n).transit = s.transit := (rfl)
@[simp] theorem State.bump_seqs (f : Field) (n : Nat) : (s.bump f n).seqs = s.seqs := (rfl)
@[simp] theorem State.bump_raised (f : Field) (n : Nat) : (s.bump f n).raised = s.raised := (rfl)
@[simp] theorem State.bump_evtBuf (f : Field) (n : Nat) : (s.bump f n).evtBuf = s.evtBuf := (rfl)
@[simp] theorem State.bump_mem (f : Field) (n : Nat) : (s.bump f n).mem = s.mem := (rfl)
@[simp] theorem State.bump_lath (f : Field) (n : Nat) : (s.bump f n).lath = s.lath := (rfl)
@[simp] theorem State.bump_slots (f : Field) (n : Nat) : (s.bump f n).slots = s.slots := (rfl)
@[simp] theorem State.bump_poison (f : Field) (n : Nat) : (s.bump f n).poison = s.poison := (rfl)
@[simp] theorem State.bump_under (f : Field) (n : Nat) : (s.bump f n).under = s.under := (rfl)
@[simp] theorem State.bump_loft (f : Field) (n : Nat) : (s.bump f n).loft = s.loft := (rfl)
@[simp] theorem State.bump_plru (f : Field) (n : Nat) : (s.bump f n).plru = s.plru := (rfl)
@[simp] theorem State.bump_arbs (f : Field) (n : Nat) : (s.bump f n).arbs = s.arbs := (rfl)
@[simp] theorem State.bump_watches (f : Field) (n : Nat) : (s.bump f n).watches = s.watches := (rfl)
@[simp] theorem State.bump_image (f : Field) (n : Nat) : (s.bump f n).image = s.image := (rfl)
@[simp] theorem State.bump_queues (f : Field) (n : Nat) : (s.bump f n).queues = s.queues := (rfl)
@[simp] theorem State.bump_bays (f : Field) (n : Nat) : (s.bump f n).bays = s.bays := (rfl)
@[simp] theorem State.bump_ports (f : Field) (n : Nat) : (s.bump f n).ports = s.ports := (rfl)
@[simp] theorem State.bump_hostPort (f : Field) (n : Nat) : (s.bump f n).hostPort = s.hostPort := (rfl)
@[simp] theorem State.bump_hostCfg (f : Field) (n : Nat) : (s.bump f n).hostCfg = s.hostCfg := (rfl)
@[simp] theorem State.bump_held (f : Field) (n : Nat) : (s.bump f n).held = s.held := (rfl)
@[simp] theorem State.bump_collseq (f : Field) (n : Nat) : (s.bump f n).collseq = s.collseq := (rfl)
@[simp] theorem State.bump_inTransit (f : Field) (n : Nat) : (s.bump f n).inTransit = s.inTransit := (rfl)
@[simp] theorem State.bump_media (f : Field) (n : Nat) : (s.bump f n).media = s.media := (rfl)

/-! ### step1 -/

@[simp] theorem State.step1_pending (f : Field) : (s.step1 f).pending = s.pending := (rfl)
@[simp] theorem State.step1_free (f : Field) : (s.step1 f).free = s.free := (rfl)
@[simp] theorem State.step1_resp (f : Field) : (s.step1 f).resp = s.resp := (rfl)
@[simp] theorem State.step1_live (f : Field) : (s.step1 f).live = s.live := (rfl)
@[simp] theorem State.step1_prev (f : Field) : (s.step1 f).prev = s.prev := (rfl)
@[simp] theorem State.step1_commits (f : Field) : (s.step1 f).commits = s.commits := (rfl)
@[simp] theorem State.step1_course (f : Field) : (s.step1 f).course = s.course := (rfl)
@[simp] theorem State.step1_power (f : Field) : (s.step1 f).power = s.power := (rfl)
@[simp] theorem State.step1_mgmt (f : Field) : (s.step1 f).mgmt = s.mgmt := (rfl)
@[simp] theorem State.step1_reliab (f : Field) : (s.step1 f).reliab = s.reliab := (rfl)
@[simp] theorem State.step1_transit (f : Field) : (s.step1 f).transit = s.transit := (rfl)
@[simp] theorem State.step1_seqs (f : Field) : (s.step1 f).seqs = s.seqs := (rfl)
@[simp] theorem State.step1_raised (f : Field) : (s.step1 f).raised = s.raised := (rfl)
@[simp] theorem State.step1_evtBuf (f : Field) : (s.step1 f).evtBuf = s.evtBuf := (rfl)
@[simp] theorem State.step1_mem (f : Field) : (s.step1 f).mem = s.mem := (rfl)
@[simp] theorem State.step1_lath (f : Field) : (s.step1 f).lath = s.lath := (rfl)
@[simp] theorem State.step1_slots (f : Field) : (s.step1 f).slots = s.slots := (rfl)
@[simp] theorem State.step1_poison (f : Field) : (s.step1 f).poison = s.poison := (rfl)
@[simp] theorem State.step1_under (f : Field) : (s.step1 f).under = s.under := (rfl)
@[simp] theorem State.step1_loft (f : Field) : (s.step1 f).loft = s.loft := (rfl)
@[simp] theorem State.step1_plru (f : Field) : (s.step1 f).plru = s.plru := (rfl)
@[simp] theorem State.step1_arbs (f : Field) : (s.step1 f).arbs = s.arbs := (rfl)
@[simp] theorem State.step1_watches (f : Field) : (s.step1 f).watches = s.watches := (rfl)
@[simp] theorem State.step1_image (f : Field) : (s.step1 f).image = s.image := (rfl)
@[simp] theorem State.step1_queues (f : Field) : (s.step1 f).queues = s.queues := (rfl)
@[simp] theorem State.step1_bays (f : Field) : (s.step1 f).bays = s.bays := (rfl)
@[simp] theorem State.step1_ports (f : Field) : (s.step1 f).ports = s.ports := (rfl)
@[simp] theorem State.step1_hostPort (f : Field) : (s.step1 f).hostPort = s.hostPort := (rfl)
@[simp] theorem State.step1_hostCfg (f : Field) : (s.step1 f).hostCfg = s.hostCfg := (rfl)
@[simp] theorem State.step1_held (f : Field) : (s.step1 f).held = s.held := (rfl)
@[simp] theorem State.step1_collseq (f : Field) : (s.step1 f).collseq = s.collseq := (rfl)
@[simp] theorem State.step1_inTransit (f : Field) : (s.step1 f).inTransit = s.inTransit := (rfl)
@[simp] theorem State.step1_media (f : Field) : (s.step1 f).media = s.media := (rfl)

/-! ### resetReg -/

@[simp] theorem State.resetReg_pending (off : Nat) : (s.resetReg off).pending = s.pending := (rfl)
@[simp] theorem State.resetReg_free (off : Nat) : (s.resetReg off).free = s.free := (rfl)
@[simp] theorem State.resetReg_resp (off : Nat) : (s.resetReg off).resp = s.resp := (rfl)
@[simp] theorem State.resetReg_live (off : Nat) : (s.resetReg off).live = s.live := (rfl)
@[simp] theorem State.resetReg_prev (off : Nat) : (s.resetReg off).prev = s.prev := (rfl)
@[simp] theorem State.resetReg_commits (off : Nat) : (s.resetReg off).commits = s.commits := (rfl)
@[simp] theorem State.resetReg_course (off : Nat) : (s.resetReg off).course = s.course := (rfl)
@[simp] theorem State.resetReg_power (off : Nat) : (s.resetReg off).power = s.power := (rfl)
@[simp] theorem State.resetReg_mgmt (off : Nat) : (s.resetReg off).mgmt = s.mgmt := (rfl)
@[simp] theorem State.resetReg_reliab (off : Nat) : (s.resetReg off).reliab = s.reliab := (rfl)
@[simp] theorem State.resetReg_transit (off : Nat) : (s.resetReg off).transit = s.transit := (rfl)
@[simp] theorem State.resetReg_seqs (off : Nat) : (s.resetReg off).seqs = s.seqs := (rfl)
@[simp] theorem State.resetReg_raised (off : Nat) : (s.resetReg off).raised = s.raised := (rfl)
@[simp] theorem State.resetReg_evtBuf (off : Nat) : (s.resetReg off).evtBuf = s.evtBuf := (rfl)
@[simp] theorem State.resetReg_mem (off : Nat) : (s.resetReg off).mem = s.mem := (rfl)
@[simp] theorem State.resetReg_lath (off : Nat) : (s.resetReg off).lath = s.lath := (rfl)
@[simp] theorem State.resetReg_slots (off : Nat) : (s.resetReg off).slots = s.slots := (rfl)
@[simp] theorem State.resetReg_poison (off : Nat) : (s.resetReg off).poison = s.poison := (rfl)
@[simp] theorem State.resetReg_under (off : Nat) : (s.resetReg off).under = s.under := (rfl)
@[simp] theorem State.resetReg_loft (off : Nat) : (s.resetReg off).loft = s.loft := (rfl)
@[simp] theorem State.resetReg_plru (off : Nat) : (s.resetReg off).plru = s.plru := (rfl)
@[simp] theorem State.resetReg_arbs (off : Nat) : (s.resetReg off).arbs = s.arbs := (rfl)
@[simp] theorem State.resetReg_watches (off : Nat) : (s.resetReg off).watches = s.watches := (rfl)
@[simp] theorem State.resetReg_image (off : Nat) : (s.resetReg off).image = s.image := (rfl)
@[simp] theorem State.resetReg_queues (off : Nat) : (s.resetReg off).queues = s.queues := (rfl)
@[simp] theorem State.resetReg_bays (off : Nat) : (s.resetReg off).bays = s.bays := (rfl)
@[simp] theorem State.resetReg_ports (off : Nat) : (s.resetReg off).ports = s.ports := (rfl)
@[simp] theorem State.resetReg_hostPort (off : Nat) : (s.resetReg off).hostPort = s.hostPort := (rfl)
@[simp] theorem State.resetReg_hostCfg (off : Nat) : (s.resetReg off).hostCfg = s.hostCfg := (rfl)
@[simp] theorem State.resetReg_held (off : Nat) : (s.resetReg off).held = s.held := (rfl)
@[simp] theorem State.resetReg_collseq (off : Nat) : (s.resetReg off).collseq = s.collseq := (rfl)
@[simp] theorem State.resetReg_inTransit (off : Nat) : (s.resetReg off).inTransit = s.inTransit := (rfl)
@[simp] theorem State.resetReg_media (off : Nat) : (s.resetReg off).media = s.media := (rfl)

/-! ### resetRegs -/

@[simp] theorem State.resetRegs_pending (p : Nat → Bool) : (s.resetRegs p).pending = s.pending := (rfl)
@[simp] theorem State.resetRegs_free (p : Nat → Bool) : (s.resetRegs p).free = s.free := (rfl)
@[simp] theorem State.resetRegs_resp (p : Nat → Bool) : (s.resetRegs p).resp = s.resp := (rfl)
@[simp] theorem State.resetRegs_live (p : Nat → Bool) : (s.resetRegs p).live = s.live := (rfl)
@[simp] theorem State.resetRegs_prev (p : Nat → Bool) : (s.resetRegs p).prev = s.prev := (rfl)
@[simp] theorem State.resetRegs_commits (p : Nat → Bool) : (s.resetRegs p).commits = s.commits := (rfl)
@[simp] theorem State.resetRegs_course (p : Nat → Bool) : (s.resetRegs p).course = s.course := (rfl)
@[simp] theorem State.resetRegs_power (p : Nat → Bool) : (s.resetRegs p).power = s.power := (rfl)
@[simp] theorem State.resetRegs_mgmt (p : Nat → Bool) : (s.resetRegs p).mgmt = s.mgmt := (rfl)
@[simp] theorem State.resetRegs_reliab (p : Nat → Bool) : (s.resetRegs p).reliab = s.reliab := (rfl)
@[simp] theorem State.resetRegs_transit (p : Nat → Bool) : (s.resetRegs p).transit = s.transit := (rfl)
@[simp] theorem State.resetRegs_seqs (p : Nat → Bool) : (s.resetRegs p).seqs = s.seqs := (rfl)
@[simp] theorem State.resetRegs_raised (p : Nat → Bool) : (s.resetRegs p).raised = s.raised := (rfl)
@[simp] theorem State.resetRegs_evtBuf (p : Nat → Bool) : (s.resetRegs p).evtBuf = s.evtBuf := (rfl)
@[simp] theorem State.resetRegs_mem (p : Nat → Bool) : (s.resetRegs p).mem = s.mem := (rfl)
@[simp] theorem State.resetRegs_lath (p : Nat → Bool) : (s.resetRegs p).lath = s.lath := (rfl)
@[simp] theorem State.resetRegs_slots (p : Nat → Bool) : (s.resetRegs p).slots = s.slots := (rfl)
@[simp] theorem State.resetRegs_poison (p : Nat → Bool) : (s.resetRegs p).poison = s.poison := (rfl)
@[simp] theorem State.resetRegs_under (p : Nat → Bool) : (s.resetRegs p).under = s.under := (rfl)
@[simp] theorem State.resetRegs_loft (p : Nat → Bool) : (s.resetRegs p).loft = s.loft := (rfl)
@[simp] theorem State.resetRegs_plru (p : Nat → Bool) : (s.resetRegs p).plru = s.plru := (rfl)
@[simp] theorem State.resetRegs_arbs (p : Nat → Bool) : (s.resetRegs p).arbs = s.arbs := (rfl)
@[simp] theorem State.resetRegs_watches (p : Nat → Bool) : (s.resetRegs p).watches = s.watches := (rfl)
@[simp] theorem State.resetRegs_image (p : Nat → Bool) : (s.resetRegs p).image = s.image := (rfl)
@[simp] theorem State.resetRegs_queues (p : Nat → Bool) : (s.resetRegs p).queues = s.queues := (rfl)
@[simp] theorem State.resetRegs_bays (p : Nat → Bool) : (s.resetRegs p).bays = s.bays := (rfl)
@[simp] theorem State.resetRegs_ports (p : Nat → Bool) : (s.resetRegs p).ports = s.ports := (rfl)
@[simp] theorem State.resetRegs_hostPort (p : Nat → Bool) : (s.resetRegs p).hostPort = s.hostPort := (rfl)
@[simp] theorem State.resetRegs_hostCfg (p : Nat → Bool) : (s.resetRegs p).hostCfg = s.hostCfg := (rfl)
@[simp] theorem State.resetRegs_held (p : Nat → Bool) : (s.resetRegs p).held = s.held := (rfl)
@[simp] theorem State.resetRegs_collseq (p : Nat → Bool) : (s.resetRegs p).collseq = s.collseq := (rfl)
@[simp] theorem State.resetRegs_inTransit (p : Nat → Bool) : (s.resetRegs p).inTransit = s.inTransit := (rfl)
@[simp] theorem State.resetRegs_media (p : Nat → Bool) : (s.resetRegs p).media = s.media := (rfl)

/-! ### setLive -/

@[simp] theorem State.setLive_pending (off : Nat) (w : Word) : (s.setLive off w).pending = s.pending := (rfl)
@[simp] theorem State.setLive_free (off : Nat) (w : Word) : (s.setLive off w).free = s.free := (rfl)
@[simp] theorem State.setLive_resp (off : Nat) (w : Word) : (s.setLive off w).resp = s.resp := (rfl)
@[simp] theorem State.setLive_regs (off : Nat) (w : Word) : (s.setLive off w).regs = s.regs := (rfl)
@[simp] theorem State.setLive_prev (off : Nat) (w : Word) : (s.setLive off w).prev = s.prev := (rfl)
@[simp] theorem State.setLive_commits (off : Nat) (w : Word) : (s.setLive off w).commits = s.commits := (rfl)
@[simp] theorem State.setLive_course (off : Nat) (w : Word) : (s.setLive off w).course = s.course := (rfl)
@[simp] theorem State.setLive_power (off : Nat) (w : Word) : (s.setLive off w).power = s.power := (rfl)
@[simp] theorem State.setLive_mgmt (off : Nat) (w : Word) : (s.setLive off w).mgmt = s.mgmt := (rfl)
@[simp] theorem State.setLive_reliab (off : Nat) (w : Word) : (s.setLive off w).reliab = s.reliab := (rfl)
@[simp] theorem State.setLive_transit (off : Nat) (w : Word) : (s.setLive off w).transit = s.transit := (rfl)
@[simp] theorem State.setLive_seqs (off : Nat) (w : Word) : (s.setLive off w).seqs = s.seqs := (rfl)
@[simp] theorem State.setLive_raised (off : Nat) (w : Word) : (s.setLive off w).raised = s.raised := (rfl)
@[simp] theorem State.setLive_evtBuf (off : Nat) (w : Word) : (s.setLive off w).evtBuf = s.evtBuf := (rfl)
@[simp] theorem State.setLive_mem (off : Nat) (w : Word) : (s.setLive off w).mem = s.mem := (rfl)
@[simp] theorem State.setLive_lath (off : Nat) (w : Word) : (s.setLive off w).lath = s.lath := (rfl)
@[simp] theorem State.setLive_slots (off : Nat) (w : Word) : (s.setLive off w).slots = s.slots := (rfl)
@[simp] theorem State.setLive_poison (off : Nat) (w : Word) : (s.setLive off w).poison = s.poison := (rfl)
@[simp] theorem State.setLive_under (off : Nat) (w : Word) : (s.setLive off w).under = s.under := (rfl)
@[simp] theorem State.setLive_loft (off : Nat) (w : Word) : (s.setLive off w).loft = s.loft := (rfl)
@[simp] theorem State.setLive_plru (off : Nat) (w : Word) : (s.setLive off w).plru = s.plru := (rfl)
@[simp] theorem State.setLive_arbs (off : Nat) (w : Word) : (s.setLive off w).arbs = s.arbs := (rfl)
@[simp] theorem State.setLive_watches (off : Nat) (w : Word) : (s.setLive off w).watches = s.watches := (rfl)
@[simp] theorem State.setLive_image (off : Nat) (w : Word) : (s.setLive off w).image = s.image := (rfl)
@[simp] theorem State.setLive_queues (off : Nat) (w : Word) : (s.setLive off w).queues = s.queues := (rfl)
@[simp] theorem State.setLive_bays (off : Nat) (w : Word) : (s.setLive off w).bays = s.bays := (rfl)
@[simp] theorem State.setLive_ports (off : Nat) (w : Word) : (s.setLive off w).ports = s.ports := (rfl)
@[simp] theorem State.setLive_hostPort (off : Nat) (w : Word) : (s.setLive off w).hostPort = s.hostPort := (rfl)
@[simp] theorem State.setLive_hostCfg (off : Nat) (w : Word) : (s.setLive off w).hostCfg = s.hostCfg := (rfl)
@[simp] theorem State.setLive_held (off : Nat) (w : Word) : (s.setLive off w).held = s.held := (rfl)
@[simp] theorem State.setLive_collseq (off : Nat) (w : Word) : (s.setLive off w).collseq = s.collseq := (rfl)
@[simp] theorem State.setLive_inTransit (off : Nat) (w : Word) : (s.setLive off w).inTransit = s.inTransit := (rfl)
@[simp] theorem State.setLive_media (off : Nat) (w : Word) : (s.setLive off w).media = s.media := (rfl)

/-! ### setBay -/

@[simp] theorem State.setBay_pending (b : PBay) (v : BayState) : (s.setBay b v).pending = s.pending := (rfl)
@[simp] theorem State.setBay_free (b : PBay) (v : BayState) : (s.setBay b v).free = s.free := (rfl)
@[simp] theorem State.setBay_resp (b : PBay) (v : BayState) : (s.setBay b v).resp = s.resp := (rfl)
@[simp] theorem State.setBay_regs (b : PBay) (v : BayState) : (s.setBay b v).regs = s.regs := (rfl)
@[simp] theorem State.setBay_live (b : PBay) (v : BayState) : (s.setBay b v).live = s.live := (rfl)
@[simp] theorem State.setBay_prev (b : PBay) (v : BayState) : (s.setBay b v).prev = s.prev := (rfl)
@[simp] theorem State.setBay_commits (b : PBay) (v : BayState) : (s.setBay b v).commits = s.commits := (rfl)
@[simp] theorem State.setBay_course (b : PBay) (v : BayState) : (s.setBay b v).course = s.course := (rfl)
@[simp] theorem State.setBay_power (b : PBay) (v : BayState) : (s.setBay b v).power = s.power := (rfl)
@[simp] theorem State.setBay_mgmt (b : PBay) (v : BayState) : (s.setBay b v).mgmt = s.mgmt := (rfl)
@[simp] theorem State.setBay_reliab (b : PBay) (v : BayState) : (s.setBay b v).reliab = s.reliab := (rfl)
@[simp] theorem State.setBay_transit (b : PBay) (v : BayState) : (s.setBay b v).transit = s.transit := (rfl)
@[simp] theorem State.setBay_seqs (b : PBay) (v : BayState) : (s.setBay b v).seqs = s.seqs := (rfl)
@[simp] theorem State.setBay_raised (b : PBay) (v : BayState) : (s.setBay b v).raised = s.raised := (rfl)
@[simp] theorem State.setBay_evtBuf (b : PBay) (v : BayState) : (s.setBay b v).evtBuf = s.evtBuf := (rfl)
@[simp] theorem State.setBay_mem (b : PBay) (v : BayState) : (s.setBay b v).mem = s.mem := (rfl)
@[simp] theorem State.setBay_lath (b : PBay) (v : BayState) : (s.setBay b v).lath = s.lath := (rfl)
@[simp] theorem State.setBay_slots (b : PBay) (v : BayState) : (s.setBay b v).slots = s.slots := (rfl)
@[simp] theorem State.setBay_poison (b : PBay) (v : BayState) : (s.setBay b v).poison = s.poison := (rfl)
@[simp] theorem State.setBay_under (b : PBay) (v : BayState) : (s.setBay b v).under = s.under := (rfl)
@[simp] theorem State.setBay_loft (b : PBay) (v : BayState) : (s.setBay b v).loft = s.loft := (rfl)
@[simp] theorem State.setBay_plru (b : PBay) (v : BayState) : (s.setBay b v).plru = s.plru := (rfl)
@[simp] theorem State.setBay_arbs (b : PBay) (v : BayState) : (s.setBay b v).arbs = s.arbs := (rfl)
@[simp] theorem State.setBay_watches (b : PBay) (v : BayState) : (s.setBay b v).watches = s.watches := (rfl)
@[simp] theorem State.setBay_image (b : PBay) (v : BayState) : (s.setBay b v).image = s.image := (rfl)
@[simp] theorem State.setBay_queues (b : PBay) (v : BayState) : (s.setBay b v).queues = s.queues := (rfl)
@[simp] theorem State.setBay_ports (b : PBay) (v : BayState) : (s.setBay b v).ports = s.ports := (rfl)
@[simp] theorem State.setBay_hostPort (b : PBay) (v : BayState) : (s.setBay b v).hostPort = s.hostPort := (rfl)
@[simp] theorem State.setBay_hostCfg (b : PBay) (v : BayState) : (s.setBay b v).hostCfg = s.hostCfg := (rfl)
@[simp] theorem State.setBay_held (b : PBay) (v : BayState) : (s.setBay b v).held = s.held := (rfl)
@[simp] theorem State.setBay_collseq (b : PBay) (v : BayState) : (s.setBay b v).collseq = s.collseq := (rfl)
@[simp] theorem State.setBay_inTransit (b : PBay) (v : BayState) : (s.setBay b v).inTransit = s.inTransit := (rfl)
@[simp] theorem State.setBay_media (b : PBay) (v : BayState) : (s.setBay b v).media = s.media := (rfl)

/-! ### setQueue -/

@[simp] theorem State.setQueue_pending (q : Nat) (v : QueueState) : (s.setQueue q v).pending = s.pending := (rfl)
@[simp] theorem State.setQueue_free (q : Nat) (v : QueueState) : (s.setQueue q v).free = s.free := (rfl)
@[simp] theorem State.setQueue_resp (q : Nat) (v : QueueState) : (s.setQueue q v).resp = s.resp := (rfl)
@[simp] theorem State.setQueue_regs (q : Nat) (v : QueueState) : (s.setQueue q v).regs = s.regs := (rfl)
@[simp] theorem State.setQueue_live (q : Nat) (v : QueueState) : (s.setQueue q v).live = s.live := (rfl)
@[simp] theorem State.setQueue_prev (q : Nat) (v : QueueState) : (s.setQueue q v).prev = s.prev := (rfl)
@[simp] theorem State.setQueue_commits (q : Nat) (v : QueueState) : (s.setQueue q v).commits = s.commits := (rfl)
@[simp] theorem State.setQueue_course (q : Nat) (v : QueueState) : (s.setQueue q v).course = s.course := (rfl)
@[simp] theorem State.setQueue_power (q : Nat) (v : QueueState) : (s.setQueue q v).power = s.power := (rfl)
@[simp] theorem State.setQueue_mgmt (q : Nat) (v : QueueState) : (s.setQueue q v).mgmt = s.mgmt := (rfl)
@[simp] theorem State.setQueue_reliab (q : Nat) (v : QueueState) : (s.setQueue q v).reliab = s.reliab := (rfl)
@[simp] theorem State.setQueue_transit (q : Nat) (v : QueueState) : (s.setQueue q v).transit = s.transit := (rfl)
@[simp] theorem State.setQueue_seqs (q : Nat) (v : QueueState) : (s.setQueue q v).seqs = s.seqs := (rfl)
@[simp] theorem State.setQueue_raised (q : Nat) (v : QueueState) : (s.setQueue q v).raised = s.raised := (rfl)
@[simp] theorem State.setQueue_evtBuf (q : Nat) (v : QueueState) : (s.setQueue q v).evtBuf = s.evtBuf := (rfl)
@[simp] theorem State.setQueue_mem (q : Nat) (v : QueueState) : (s.setQueue q v).mem = s.mem := (rfl)
@[simp] theorem State.setQueue_lath (q : Nat) (v : QueueState) : (s.setQueue q v).lath = s.lath := (rfl)
@[simp] theorem State.setQueue_slots (q : Nat) (v : QueueState) : (s.setQueue q v).slots = s.slots := (rfl)
@[simp] theorem State.setQueue_poison (q : Nat) (v : QueueState) : (s.setQueue q v).poison = s.poison := (rfl)
@[simp] theorem State.setQueue_under (q : Nat) (v : QueueState) : (s.setQueue q v).under = s.under := (rfl)
@[simp] theorem State.setQueue_loft (q : Nat) (v : QueueState) : (s.setQueue q v).loft = s.loft := (rfl)
@[simp] theorem State.setQueue_plru (q : Nat) (v : QueueState) : (s.setQueue q v).plru = s.plru := (rfl)
@[simp] theorem State.setQueue_arbs (q : Nat) (v : QueueState) : (s.setQueue q v).arbs = s.arbs := (rfl)
@[simp] theorem State.setQueue_watches (q : Nat) (v : QueueState) : (s.setQueue q v).watches = s.watches := (rfl)
@[simp] theorem State.setQueue_image (q : Nat) (v : QueueState) : (s.setQueue q v).image = s.image := (rfl)
@[simp] theorem State.setQueue_bays (q : Nat) (v : QueueState) : (s.setQueue q v).bays = s.bays := (rfl)
@[simp] theorem State.setQueue_ports (q : Nat) (v : QueueState) : (s.setQueue q v).ports = s.ports := (rfl)
@[simp] theorem State.setQueue_hostPort (q : Nat) (v : QueueState) : (s.setQueue q v).hostPort = s.hostPort := (rfl)
@[simp] theorem State.setQueue_hostCfg (q : Nat) (v : QueueState) : (s.setQueue q v).hostCfg = s.hostCfg := (rfl)
@[simp] theorem State.setQueue_held (q : Nat) (v : QueueState) : (s.setQueue q v).held = s.held := (rfl)
@[simp] theorem State.setQueue_collseq (q : Nat) (v : QueueState) : (s.setQueue q v).collseq = s.collseq := (rfl)
@[simp] theorem State.setQueue_inTransit (q : Nat) (v : QueueState) : (s.setQueue q v).inTransit = s.inTransit := (rfl)
@[simp] theorem State.setQueue_media (q : Nat) (v : QueueState) : (s.setQueue q v).media = s.media := (rfl)

/-! ### setPort -/

@[simp] theorem State.setPort_pending (p : Nat) (v : Port) : (s.setPort p v).pending = s.pending := (rfl)
@[simp] theorem State.setPort_free (p : Nat) (v : Port) : (s.setPort p v).free = s.free := (rfl)
@[simp] theorem State.setPort_resp (p : Nat) (v : Port) : (s.setPort p v).resp = s.resp := (rfl)
@[simp] theorem State.setPort_regs (p : Nat) (v : Port) : (s.setPort p v).regs = s.regs := (rfl)
@[simp] theorem State.setPort_live (p : Nat) (v : Port) : (s.setPort p v).live = s.live := (rfl)
@[simp] theorem State.setPort_prev (p : Nat) (v : Port) : (s.setPort p v).prev = s.prev := (rfl)
@[simp] theorem State.setPort_commits (p : Nat) (v : Port) : (s.setPort p v).commits = s.commits := (rfl)
@[simp] theorem State.setPort_course (p : Nat) (v : Port) : (s.setPort p v).course = s.course := (rfl)
@[simp] theorem State.setPort_power (p : Nat) (v : Port) : (s.setPort p v).power = s.power := (rfl)
@[simp] theorem State.setPort_mgmt (p : Nat) (v : Port) : (s.setPort p v).mgmt = s.mgmt := (rfl)
@[simp] theorem State.setPort_reliab (p : Nat) (v : Port) : (s.setPort p v).reliab = s.reliab := (rfl)
@[simp] theorem State.setPort_transit (p : Nat) (v : Port) : (s.setPort p v).transit = s.transit := (rfl)
@[simp] theorem State.setPort_seqs (p : Nat) (v : Port) : (s.setPort p v).seqs = s.seqs := (rfl)
@[simp] theorem State.setPort_raised (p : Nat) (v : Port) : (s.setPort p v).raised = s.raised := (rfl)
@[simp] theorem State.setPort_evtBuf (p : Nat) (v : Port) : (s.setPort p v).evtBuf = s.evtBuf := (rfl)
@[simp] theorem State.setPort_mem (p : Nat) (v : Port) : (s.setPort p v).mem = s.mem := (rfl)
@[simp] theorem State.setPort_lath (p : Nat) (v : Port) : (s.setPort p v).lath = s.lath := (rfl)
@[simp] theorem State.setPort_slots (p : Nat) (v : Port) : (s.setPort p v).slots = s.slots := (rfl)
@[simp] theorem State.setPort_poison (p : Nat) (v : Port) : (s.setPort p v).poison = s.poison := (rfl)
@[simp] theorem State.setPort_under (p : Nat) (v : Port) : (s.setPort p v).under = s.under := (rfl)
@[simp] theorem State.setPort_loft (p : Nat) (v : Port) : (s.setPort p v).loft = s.loft := (rfl)
@[simp] theorem State.setPort_plru (p : Nat) (v : Port) : (s.setPort p v).plru = s.plru := (rfl)
@[simp] theorem State.setPort_arbs (p : Nat) (v : Port) : (s.setPort p v).arbs = s.arbs := (rfl)
@[simp] theorem State.setPort_watches (p : Nat) (v : Port) : (s.setPort p v).watches = s.watches := (rfl)
@[simp] theorem State.setPort_image (p : Nat) (v : Port) : (s.setPort p v).image = s.image := (rfl)
@[simp] theorem State.setPort_queues (p : Nat) (v : Port) : (s.setPort p v).queues = s.queues := (rfl)
@[simp] theorem State.setPort_bays (p : Nat) (v : Port) : (s.setPort p v).bays = s.bays := (rfl)
@[simp] theorem State.setPort_hostPort (p : Nat) (v : Port) : (s.setPort p v).hostPort = s.hostPort := (rfl)
@[simp] theorem State.setPort_hostCfg (p : Nat) (v : Port) : (s.setPort p v).hostCfg = s.hostCfg := (rfl)
@[simp] theorem State.setPort_held (p : Nat) (v : Port) : (s.setPort p v).held = s.held := (rfl)
@[simp] theorem State.setPort_collseq (p : Nat) (v : Port) : (s.setPort p v).collseq = s.collseq := (rfl)
@[simp] theorem State.setPort_inTransit (p : Nat) (v : Port) : (s.setPort p v).inTransit = s.inTransit := (rfl)
@[simp] theorem State.setPort_media (p : Nat) (v : Port) : (s.setPort p v).media = s.media := (rfl)

/-! ### setArb -/

@[simp] theorem State.setArb_pending (blk : Nat) (v : ArbState) : (s.setArb blk v).pending = s.pending := (rfl)
@[simp] theorem State.setArb_free (blk : Nat) (v : ArbState) : (s.setArb blk v).free = s.free := (rfl)
@[simp] theorem State.setArb_resp (blk : Nat) (v : ArbState) : (s.setArb blk v).resp = s.resp := (rfl)
@[simp] theorem State.setArb_regs (blk : Nat) (v : ArbState) : (s.setArb blk v).regs = s.regs := (rfl)
@[simp] theorem State.setArb_live (blk : Nat) (v : ArbState) : (s.setArb blk v).live = s.live := (rfl)
@[simp] theorem State.setArb_prev (blk : Nat) (v : ArbState) : (s.setArb blk v).prev = s.prev := (rfl)
@[simp] theorem State.setArb_commits (blk : Nat) (v : ArbState) : (s.setArb blk v).commits = s.commits := (rfl)
@[simp] theorem State.setArb_course (blk : Nat) (v : ArbState) : (s.setArb blk v).course = s.course := (rfl)
@[simp] theorem State.setArb_power (blk : Nat) (v : ArbState) : (s.setArb blk v).power = s.power := (rfl)
@[simp] theorem State.setArb_mgmt (blk : Nat) (v : ArbState) : (s.setArb blk v).mgmt = s.mgmt := (rfl)
@[simp] theorem State.setArb_reliab (blk : Nat) (v : ArbState) : (s.setArb blk v).reliab = s.reliab := (rfl)
@[simp] theorem State.setArb_transit (blk : Nat) (v : ArbState) : (s.setArb blk v).transit = s.transit := (rfl)
@[simp] theorem State.setArb_seqs (blk : Nat) (v : ArbState) : (s.setArb blk v).seqs = s.seqs := (rfl)
@[simp] theorem State.setArb_raised (blk : Nat) (v : ArbState) : (s.setArb blk v).raised = s.raised := (rfl)
@[simp] theorem State.setArb_evtBuf (blk : Nat) (v : ArbState) : (s.setArb blk v).evtBuf = s.evtBuf := (rfl)
@[simp] theorem State.setArb_mem (blk : Nat) (v : ArbState) : (s.setArb blk v).mem = s.mem := (rfl)
@[simp] theorem State.setArb_lath (blk : Nat) (v : ArbState) : (s.setArb blk v).lath = s.lath := (rfl)
@[simp] theorem State.setArb_slots (blk : Nat) (v : ArbState) : (s.setArb blk v).slots = s.slots := (rfl)
@[simp] theorem State.setArb_poison (blk : Nat) (v : ArbState) : (s.setArb blk v).poison = s.poison := (rfl)
@[simp] theorem State.setArb_under (blk : Nat) (v : ArbState) : (s.setArb blk v).under = s.under := (rfl)
@[simp] theorem State.setArb_loft (blk : Nat) (v : ArbState) : (s.setArb blk v).loft = s.loft := (rfl)
@[simp] theorem State.setArb_plru (blk : Nat) (v : ArbState) : (s.setArb blk v).plru = s.plru := (rfl)
@[simp] theorem State.setArb_watches (blk : Nat) (v : ArbState) : (s.setArb blk v).watches = s.watches := (rfl)
@[simp] theorem State.setArb_image (blk : Nat) (v : ArbState) : (s.setArb blk v).image = s.image := (rfl)
@[simp] theorem State.setArb_queues (blk : Nat) (v : ArbState) : (s.setArb blk v).queues = s.queues := (rfl)
@[simp] theorem State.setArb_bays (blk : Nat) (v : ArbState) : (s.setArb blk v).bays = s.bays := (rfl)
@[simp] theorem State.setArb_ports (blk : Nat) (v : ArbState) : (s.setArb blk v).ports = s.ports := (rfl)
@[simp] theorem State.setArb_hostPort (blk : Nat) (v : ArbState) : (s.setArb blk v).hostPort = s.hostPort := (rfl)
@[simp] theorem State.setArb_hostCfg (blk : Nat) (v : ArbState) : (s.setArb blk v).hostCfg = s.hostCfg := (rfl)
@[simp] theorem State.setArb_held (blk : Nat) (v : ArbState) : (s.setArb blk v).held = s.held := (rfl)
@[simp] theorem State.setArb_collseq (blk : Nat) (v : ArbState) : (s.setArb blk v).collseq = s.collseq := (rfl)
@[simp] theorem State.setArb_inTransit (blk : Nat) (v : ArbState) : (s.setArb blk v).inTransit = s.inTransit := (rfl)
@[simp] theorem State.setArb_media (blk : Nat) (v : ArbState) : (s.setArb blk v).media = s.media := (rfl)

/-! ### setSession -/

@[simp] theorem State.setSession_pending (e : Eng) (n : Nat) (v : Session) : (s.setSession e n v).pending = s.pending := (rfl)
@[simp] theorem State.setSession_free (e : Eng) (n : Nat) (v : Session) : (s.setSession e n v).free = s.free := (rfl)
@[simp] theorem State.setSession_resp (e : Eng) (n : Nat) (v : Session) : (s.setSession e n v).resp = s.resp := (rfl)
@[simp] theorem State.setSession_regs (e : Eng) (n : Nat) (v : Session) : (s.setSession e n v).regs = s.regs := (rfl)
@[simp] theorem State.setSession_live (e : Eng) (n : Nat) (v : Session) : (s.setSession e n v).live = s.live := (rfl)
@[simp] theorem State.setSession_prev (e : Eng) (n : Nat) (v : Session) : (s.setSession e n v).prev = s.prev := (rfl)
@[simp] theorem State.setSession_commits (e : Eng) (n : Nat) (v : Session) : (s.setSession e n v).commits = s.commits := (rfl)
@[simp] theorem State.setSession_course (e : Eng) (n : Nat) (v : Session) : (s.setSession e n v).course = s.course := (rfl)
@[simp] theorem State.setSession_power (e : Eng) (n : Nat) (v : Session) : (s.setSession e n v).power = s.power := (rfl)
@[simp] theorem State.setSession_mgmt (e : Eng) (n : Nat) (v : Session) : (s.setSession e n v).mgmt = s.mgmt := (rfl)
@[simp] theorem State.setSession_reliab (e : Eng) (n : Nat) (v : Session) : (s.setSession e n v).reliab = s.reliab := (rfl)
@[simp] theorem State.setSession_transit (e : Eng) (n : Nat) (v : Session) : (s.setSession e n v).transit = s.transit := (rfl)
@[simp] theorem State.setSession_seqs (e : Eng) (n : Nat) (v : Session) : (s.setSession e n v).seqs = s.seqs := (rfl)
@[simp] theorem State.setSession_raised (e : Eng) (n : Nat) (v : Session) : (s.setSession e n v).raised = s.raised := (rfl)
@[simp] theorem State.setSession_evtBuf (e : Eng) (n : Nat) (v : Session) : (s.setSession e n v).evtBuf = s.evtBuf := (rfl)
@[simp] theorem State.setSession_mem (e : Eng) (n : Nat) (v : Session) : (s.setSession e n v).mem = s.mem := (rfl)
@[simp] theorem State.setSession_lath (e : Eng) (n : Nat) (v : Session) : (s.setSession e n v).lath = s.lath := (rfl)
@[simp] theorem State.setSession_slots (e : Eng) (n : Nat) (v : Session) : (s.setSession e n v).slots = s.slots := (rfl)
@[simp] theorem State.setSession_poison (e : Eng) (n : Nat) (v : Session) : (s.setSession e n v).poison = s.poison := (rfl)
@[simp] theorem State.setSession_under (e : Eng) (n : Nat) (v : Session) : (s.setSession e n v).under = s.under := (rfl)
@[simp] theorem State.setSession_loft (e : Eng) (n : Nat) (v : Session) : (s.setSession e n v).loft = s.loft := (rfl)
@[simp] theorem State.setSession_plru (e : Eng) (n : Nat) (v : Session) : (s.setSession e n v).plru = s.plru := (rfl)
@[simp] theorem State.setSession_arbs (e : Eng) (n : Nat) (v : Session) : (s.setSession e n v).arbs = s.arbs := (rfl)
@[simp] theorem State.setSession_watches (e : Eng) (n : Nat) (v : Session) : (s.setSession e n v).watches = s.watches := (rfl)
@[simp] theorem State.setSession_image (e : Eng) (n : Nat) (v : Session) : (s.setSession e n v).image = s.image := (rfl)
@[simp] theorem State.setSession_queues (e : Eng) (n : Nat) (v : Session) : (s.setSession e n v).queues = s.queues := (rfl)
@[simp] theorem State.setSession_bays (e : Eng) (n : Nat) (v : Session) : (s.setSession e n v).bays = s.bays := (rfl)
@[simp] theorem State.setSession_ports (e : Eng) (n : Nat) (v : Session) : (s.setSession e n v).ports = s.ports := (rfl)
@[simp] theorem State.setSession_hostPort (e : Eng) (n : Nat) (v : Session) : (s.setSession e n v).hostPort = s.hostPort := (rfl)
@[simp] theorem State.setSession_hostCfg (e : Eng) (n : Nat) (v : Session) : (s.setSession e n v).hostCfg = s.hostCfg := (rfl)
@[simp] theorem State.setSession_held (e : Eng) (n : Nat) (v : Session) : (s.setSession e n v).held = s.held := (rfl)
@[simp] theorem State.setSession_collseq (e : Eng) (n : Nat) (v : Session) : (s.setSession e n v).collseq = s.collseq := (rfl)
@[simp] theorem State.setSession_inTransit (e : Eng) (n : Nat) (v : Session) : (s.setSession e n v).inTransit = s.inTransit := (rfl)

/-! ### raise -/

@[simp] theorem State.raise_pending (src : Source) (c n d : Nat) : (s.raise src c n d).pending = s.pending := (rfl)
@[simp] theorem State.raise_free (src : Source) (c n d : Nat) : (s.raise src c n d).free = s.free := (rfl)
@[simp] theorem State.raise_resp (src : Source) (c n d : Nat) : (s.raise src c n d).resp = s.resp := (rfl)
@[simp] theorem State.raise_regs (src : Source) (c n d : Nat) : (s.raise src c n d).regs = s.regs := (rfl)
@[simp] theorem State.raise_live (src : Source) (c n d : Nat) : (s.raise src c n d).live = s.live := (rfl)
@[simp] theorem State.raise_prev (src : Source) (c n d : Nat) : (s.raise src c n d).prev = s.prev := (rfl)
@[simp] theorem State.raise_commits (src : Source) (c n d : Nat) : (s.raise src c n d).commits = s.commits := (rfl)
@[simp] theorem State.raise_course (src : Source) (c n d : Nat) : (s.raise src c n d).course = s.course := (rfl)
@[simp] theorem State.raise_power (src : Source) (c n d : Nat) : (s.raise src c n d).power = s.power := (rfl)
@[simp] theorem State.raise_mgmt (src : Source) (c n d : Nat) : (s.raise src c n d).mgmt = s.mgmt := (rfl)
@[simp] theorem State.raise_reliab (src : Source) (c n d : Nat) : (s.raise src c n d).reliab = s.reliab := (rfl)
@[simp] theorem State.raise_transit (src : Source) (c n d : Nat) : (s.raise src c n d).transit = s.transit := (rfl)
@[simp] theorem State.raise_evtBuf (src : Source) (c n d : Nat) : (s.raise src c n d).evtBuf = s.evtBuf := (rfl)
@[simp] theorem State.raise_mem (src : Source) (c n d : Nat) : (s.raise src c n d).mem = s.mem := (rfl)
@[simp] theorem State.raise_lath (src : Source) (c n d : Nat) : (s.raise src c n d).lath = s.lath := (rfl)
@[simp] theorem State.raise_slots (src : Source) (c n d : Nat) : (s.raise src c n d).slots = s.slots := (rfl)
@[simp] theorem State.raise_poison (src : Source) (c n d : Nat) : (s.raise src c n d).poison = s.poison := (rfl)
@[simp] theorem State.raise_under (src : Source) (c n d : Nat) : (s.raise src c n d).under = s.under := (rfl)
@[simp] theorem State.raise_loft (src : Source) (c n d : Nat) : (s.raise src c n d).loft = s.loft := (rfl)
@[simp] theorem State.raise_plru (src : Source) (c n d : Nat) : (s.raise src c n d).plru = s.plru := (rfl)
@[simp] theorem State.raise_arbs (src : Source) (c n d : Nat) : (s.raise src c n d).arbs = s.arbs := (rfl)
@[simp] theorem State.raise_watches (src : Source) (c n d : Nat) : (s.raise src c n d).watches = s.watches := (rfl)
@[simp] theorem State.raise_image (src : Source) (c n d : Nat) : (s.raise src c n d).image = s.image := (rfl)
@[simp] theorem State.raise_queues (src : Source) (c n d : Nat) : (s.raise src c n d).queues = s.queues := (rfl)
@[simp] theorem State.raise_bays (src : Source) (c n d : Nat) : (s.raise src c n d).bays = s.bays := (rfl)
@[simp] theorem State.raise_ports (src : Source) (c n d : Nat) : (s.raise src c n d).ports = s.ports := (rfl)
@[simp] theorem State.raise_hostPort (src : Source) (c n d : Nat) : (s.raise src c n d).hostPort = s.hostPort := (rfl)
@[simp] theorem State.raise_hostCfg (src : Source) (c n d : Nat) : (s.raise src c n d).hostCfg = s.hostCfg := (rfl)
@[simp] theorem State.raise_held (src : Source) (c n d : Nat) : (s.raise src c n d).held = s.held := (rfl)
@[simp] theorem State.raise_collseq (src : Source) (c n d : Nat) : (s.raise src c n d).collseq = s.collseq := (rfl)
@[simp] theorem State.raise_inTransit (src : Source) (c n d : Nat) : (s.raise src c n d).inTransit = s.inTransit := (rfl)
@[simp] theorem State.raise_media (src : Source) (c n d : Nat) : (s.raise src c n d).media = s.media := (rfl)

/-! ### Registers that an update of another part leaves -/

@[simp] theorem State.setLive_reg (off : Nat) (w : Word) (o : Nat) : (s.setLive off w).reg o = s.reg o := (rfl)
@[simp] theorem State.setLive_fld (off : Nat) (w : Word) (g : Field) : (s.setLive off w).fld g = s.fld g := (rfl)
@[simp] theorem State.setBay_reg (b : PBay) (v : BayState) (o : Nat) : (s.setBay b v).reg o = s.reg o := (rfl)
@[simp] theorem State.setBay_fld (b : PBay) (v : BayState) (g : Field) : (s.setBay b v).fld g = s.fld g := (rfl)
@[simp] theorem State.setQueue_reg (q : Nat) (v : QueueState) (o : Nat) : (s.setQueue q v).reg o = s.reg o := (rfl)
@[simp] theorem State.setQueue_fld (q : Nat) (v : QueueState) (g : Field) : (s.setQueue q v).fld g = s.fld g := (rfl)
@[simp] theorem State.setPort_reg (p : Nat) (v : Port) (o : Nat) : (s.setPort p v).reg o = s.reg o := (rfl)
@[simp] theorem State.setPort_fld (p : Nat) (v : Port) (g : Field) : (s.setPort p v).fld g = s.fld g := (rfl)
@[simp] theorem State.setArb_reg (blk : Nat) (v : ArbState) (o : Nat) : (s.setArb blk v).reg o = s.reg o := (rfl)
@[simp] theorem State.setArb_fld (blk : Nat) (v : ArbState) (g : Field) : (s.setArb blk v).fld g = s.fld g := (rfl)
@[simp] theorem State.setSession_reg (e : Eng) (n : Nat) (v : Session) (o : Nat) : (s.setSession e n v).reg o = s.reg o := (rfl)
@[simp] theorem State.setSession_fld (e : Eng) (n : Nat) (v : Session) (g : Field) : (s.setSession e n v).fld g = s.fld g := (rfl)
@[simp] theorem State.raise_reg (src : Source) (c n d : Nat) (o : Nat) : (s.raise src c n d).reg o = s.reg o := (rfl)
@[simp] theorem State.raise_fld (src : Source) (c n d : Nat) (g : Field) : (s.raise src c n d).fld g = s.fld g := (rfl)

/-! ### Parts that an update of a register leaves -/

@[simp] theorem State.setReg_bay (off : Nat) (w : Word) (x : PBay) : (s.setReg off w).bay x = s.bay x := (rfl)
@[simp] theorem State.setReg_queue (off : Nat) (w : Word) (x : Nat) : (s.setReg off w).queue x = s.queue x := (rfl)
@[simp] theorem State.setReg_port (off : Nat) (w : Word) (x : Nat) : (s.setReg off w).port x = s.port x := (rfl)
@[simp] theorem State.setReg_session (off : Nat) (w : Word) (e : Eng) (x : Nat) : (s.setReg off w).session e x = s.session e x := (rfl)
@[simp] theorem State.setFld_bay (f : Field) (v : Nat) (x : PBay) : (s.setFld f v).bay x = s.bay x := (rfl)
@[simp] theorem State.setFld_queue (f : Field) (v : Nat) (x : Nat) : (s.setFld f v).queue x = s.queue x := (rfl)
@[simp] theorem State.setFld_port (f : Field) (v : Nat) (x : Nat) : (s.setFld f v).port x = s.port x := (rfl)
@[simp] theorem State.setFld_session (f : Field) (v : Nat) (e : Eng) (x : Nat) : (s.setFld f v).session e x = s.session e x := (rfl)
@[simp] theorem State.setFlag_bay (f : Field) (b : Bool) (x : PBay) : (s.setFlag f b).bay x = s.bay x := (rfl)
@[simp] theorem State.setFlag_queue (f : Field) (b : Bool) (x : Nat) : (s.setFlag f b).queue x = s.queue x := (rfl)
@[simp] theorem State.setFlag_port (f : Field) (b : Bool) (x : Nat) : (s.setFlag f b).port x = s.port x := (rfl)
@[simp] theorem State.setFlag_session (f : Field) (b : Bool) (e : Eng) (x : Nat) : (s.setFlag f b).session e x = s.session e x := (rfl)
@[simp] theorem State.bump_bay (f : Field) (n : Nat) (x : PBay) : (s.bump f n).bay x = s.bay x := (rfl)
@[simp] theorem State.bump_queue (f : Field) (n : Nat) (x : Nat) : (s.bump f n).queue x = s.queue x := (rfl)
@[simp] theorem State.bump_port (f : Field) (n : Nat) (x : Nat) : (s.bump f n).port x = s.port x := (rfl)
@[simp] theorem State.bump_session (f : Field) (n : Nat) (e : Eng) (x : Nat) : (s.bump f n).session e x = s.session e x := (rfl)
@[simp] theorem State.step1_bay (f : Field) (x : PBay) : (s.step1 f).bay x = s.bay x := (rfl)
@[simp] theorem State.step1_queue (f : Field) (x : Nat) : (s.step1 f).queue x = s.queue x := (rfl)
@[simp] theorem State.step1_port (f : Field) (x : Nat) : (s.step1 f).port x = s.port x := (rfl)
@[simp] theorem State.step1_session (f : Field) (e : Eng) (x : Nat) : (s.step1 f).session e x = s.session e x := (rfl)
@[simp] theorem State.resetReg_bay (off : Nat) (x : PBay) : (s.resetReg off).bay x = s.bay x := (rfl)
@[simp] theorem State.resetReg_queue (off : Nat) (x : Nat) : (s.resetReg off).queue x = s.queue x := (rfl)
@[simp] theorem State.resetReg_port (off : Nat) (x : Nat) : (s.resetReg off).port x = s.port x := (rfl)
@[simp] theorem State.resetReg_session (off : Nat) (e : Eng) (x : Nat) : (s.resetReg off).session e x = s.session e x := (rfl)
@[simp] theorem State.resetRegs_bay (p : Nat → Bool) (x : PBay) : (s.resetRegs p).bay x = s.bay x := (rfl)
@[simp] theorem State.resetRegs_queue (p : Nat → Bool) (x : Nat) : (s.resetRegs p).queue x = s.queue x := (rfl)
@[simp] theorem State.resetRegs_port (p : Nat → Bool) (x : Nat) : (s.resetRegs p).port x = s.port x := (rfl)
@[simp] theorem State.resetRegs_session (p : Nat → Bool) (e : Eng) (x : Nat) : (s.resetRegs p).session e x = s.session e x := (rfl)

end Sys2Proof.Machine
end

