-- ==== Sys2Proof/Laws/Store.lean ====
section
/-! SUPPORT. The laws of sparse stores: what a write reads back, that every other key stands, and that writes,
erasures and filters keep the canonical form. -/

namespace Sys2Proof.Machine.Store

variable {α : Type}

/-! ### Reading after a write -/

theorem get_erase_self (l : List (Nat × α)) (k : Nat) (d : α) : get (erase l k) k d = d := by
  induction l with
  | nil => rfl
  | cons e t ih =>
    obtain ⟨k', v⟩ := e
    by_cases h : k' = k
    · simpa [erase, h] using ih
    · simpa [erase, get, h] using ih

theorem get_erase_other (l : List (Nat × α)) {k j : Nat} (d : α) (h : j ≠ k) :
    get (erase l k) j d = get l j d := by
  induction l with
  | nil => rfl
  | cons e t ih =>
    obtain ⟨k', v⟩ := e
    by_cases hk : k' = k
    · subst hk
      simp [erase, get, ih, Ne.symm h]
    · by_cases hj : k' = j <;> simp [erase, get, hk, hj, h, ih]

theorem get_insert_other (l : List (Nat × α)) {k j : Nat} (v d : α) (h : j ≠ k) :
    get (insert l k v) j d = get l j d := by
  induction l with
  | nil => simp [insert, get, Ne.symm h]
  | cons e t ih =>
    obtain ⟨k', v'⟩ := e
    unfold insert
    split
    · simp [get, Ne.symm h]
    · by_cases hj : k' = j <;> simp [get, hj, ih]

theorem get_insert_self (l : List (Nat × α)) (k : Nat) (v d : α) (h : ∀ e ∈ l, e.1 ≠ k) :
    get (insert l k v) k d = v := by
  induction l with
  | nil => simp [insert, get]
  | cons e t ih =>
    obtain ⟨k', v'⟩ := e
    unfold insert
    split
    · simp [get]
    · have h1 : k' ≠ k := h (k', v') (by simp)
      have h2 := ih fun e he => h e (by simp [he])
      simp [get, h1, h2]

theorem key_of_mem_erase {l : List (Nat × α)} {k : Nat} {e : Nat × α} (h : e ∈ erase l k) :
    e ∈ l ∧ e.1 ≠ k := by
  induction l with
  | nil => simp [erase] at h
  | cons x t ih =>
    obtain ⟨k', v⟩ := x
    unfold erase at h
    split at h
    · exact ⟨List.mem_cons_of_mem _ (ih h).1, (ih h).2⟩
    · rename_i hk
      rcases List.mem_cons.1 h with h | h
      · subst h
        exact ⟨by simp, hk⟩
      · exact ⟨List.mem_cons_of_mem _ (ih h).1, (ih h).2⟩

/-- A write reads back. -/
theorem get_set_self [DecidableEq α] (l : List (Nat × α)) (k : Nat) (v d : α) : get (set l k v d) k d = v := by
  unfold set
  split
  · rename_i h
    rw [get_erase_self, h]
  · exact get_insert_self _ _ _ _ fun e he => (key_of_mem_erase he).2

/-- A write leaves every other key. -/
theorem get_set_other [DecidableEq α] (l : List (Nat × α)) {k j : Nat} (v d : α) (h : j ≠ k) :
    get (set l k v d) j d = get l j d := by
  unfold set
  split
  · exact get_erase_other l d h
  · rw [get_insert_other _ _ _ h, get_erase_other _ _ h]

/-- Reading after a write, at any key. -/
theorem get_set [DecidableEq α] (l : List (Nat × α)) (k j : Nat) (v d : α) :
    get (set l k v d) j d = if j = k then v else get l j d := by
  by_cases h : j = k
  · subst h
    simp [get_set_self]
  · simp [h, get_set_other l v d h]

/-! ### The canonical form -/

theorem rising_weaken {l : List (Nat × α)} {a b : Option Nat}
    (h : rising l a = true) (hab : ∀ x, b = some x → ∃ y, a = some y ∧ x ≤ y) : rising l b = true := by
  cases l with
  | nil => rfl
  | cons e t =>
    obtain ⟨k, v⟩ := e
    cases b with
    | none =>
      simp only [rising, Bool.and_eq_true] at h ⊢
      exact ⟨trivial, h.2⟩
    | some x =>
      obtain ⟨y, rfl, hxy⟩ := hab x rfl
      simp only [rising, Bool.and_eq_true, decide_eq_true_eq] at h ⊢
      exact ⟨by omega, h.2⟩

theorem rising_erase {l : List (Nat × α)} {k : Nat} {lo : Option Nat} (h : rising l lo = true) :
    rising (erase l k) lo = true := by
  induction l generalizing lo with
  | nil => rfl
  | cons e t ih =>
    obtain ⟨k', v⟩ := e
    have ht : rising t (some k') = true := by
      simp only [rising, Bool.and_eq_true] at h
      exact h.2
    unfold erase
    split
    · refine rising_weaken (ih ht) fun x hx => ⟨k', rfl, ?_⟩
      subst hx
      simp only [rising, Bool.and_eq_true, decide_eq_true_eq] at h
      omega
    · simp only [rising, Bool.and_eq_true] at h ⊢
      exact ⟨h.1, ih ht⟩

theorem rising_filter {l : List (Nat × α)} {p : Nat × α → Bool} {lo : Option Nat} (h : rising l lo = true) :
    rising (l.filter p) lo = true := by
  induction l generalizing lo with
  | nil => rfl
  | cons e t ih =>
    obtain ⟨k', v⟩ := e
    have ht : rising t (some k') = true := by
      simp only [rising, Bool.and_eq_true] at h
      exact h.2
    rw [List.filter_cons]
    split
    · simp only [rising, Bool.and_eq_true] at h ⊢
      exact ⟨h.1, ih ht⟩
    · refine rising_weaken (ih ht) fun x hx => ⟨k', rfl, ?_⟩
      subst hx
      simp only [rising, Bool.and_eq_true, decide_eq_true_eq] at h
      omega

theorem rising_insert {l : List (Nat × α)} {k : Nat} {v : α} {lo : Option Nat}
    (h : rising l lo = true) (hk : ∀ e ∈ l, e.1 ≠ k) (hlo : ∀ x, lo = some x → x < k) :
    rising (insert l k v) lo = true := by
  induction l generalizing lo with
  | nil =>
    cases lo with
    | none => rfl
    | some x => simp [insert, rising, hlo x rfl]
  | cons e t ih =>
    obtain ⟨k', v'⟩ := e
    have ht : rising t (some k') = true := by
      simp only [rising, Bool.and_eq_true] at h
      exact h.2
    unfold insert
    split
    · rename_i hlt
      simp only [rising, Bool.and_eq_true, decide_eq_true_eq]
      refine ⟨?_, hlt, ht⟩
      cases lo with
      | none => rfl
      | some x => simpa using hlo x rfl
    · rename_i hnl
      have hne : k' ≠ k := hk (k', v') (by simp)
      simp only [rising, Bool.and_eq_true] at h ⊢
      refine ⟨h.1, ih ht (fun e he => hk e (by simp [he])) fun x hx => ?_⟩
      cases hx
      omega

theorem all_erase {l : List (Nat × α)} {k : Nat} {p : Nat × α → Bool} (h : l.all p = true) :
    (erase l k).all p = true := by
  rw [List.all_eq_true] at h ⊢
  exact fun e he => h e (key_of_mem_erase he).1

theorem mem_insert {l : List (Nat × α)} {k : Nat} {v : α} {e : Nat × α} (h : e ∈ insert l k v) :
    e = (k, v) ∨ e ∈ l := by
  induction l with
  | nil => simpa [insert] using h
  | cons x t ih =>
    obtain ⟨k', v'⟩ := x
    unfold insert at h
    split at h
    · simpa using h
    · rcases List.mem_cons.1 h with h | h
      · exact .inr (by simp [h])
      · rcases ih h with h | h
        · exact .inl h
        · exact .inr (by simp [h])

/-- Erasing keeps the canonical form. -/
theorem wf_erase [DecidableEq α] {l : List (Nat × α)} {d : α} (k : Nat) (h : wf l d = true) :
    wf (erase l k) d = true := by
  simp only [wf, Bool.and_eq_true] at h ⊢
  exact ⟨rising_erase h.1, all_erase h.2⟩

/-- Filtering keeps the canonical form. -/
theorem wf_filter [DecidableEq α] {l : List (Nat × α)} {d : α} (p : Nat × α → Bool) (h : wf l d = true) :
    wf (l.filter p) d = true := by
  simp only [wf, Bool.and_eq_true] at h ⊢
  refine ⟨rising_filter h.1, ?_⟩
  rw [List.all_eq_true] at h ⊢
  exact fun e he => h.2 e (List.mem_filter.1 he).1

/-- Writing keeps the canonical form. -/
theorem wf_set [DecidableEq α] {l : List (Nat × α)} {d : α} (k : Nat) (v : α) (h : wf l d = true) :
    wf (set l k v d) d = true := by
  unfold set
  split
  · exact wf_erase k h
  · rename_i hv
    have he := wf_erase (d := d) k h
    simp only [wf, Bool.and_eq_true] at he ⊢
    refine ⟨rising_insert he.1 (fun e h => (key_of_mem_erase h).2) (by simp), ?_⟩
    rw [List.all_eq_true] at he ⊢
    intro e hm
    rcases mem_insert hm with rfl | hm
    · simpa using hv
    · exact he.2 e hm

/-- The empty store is in canonical form. -/
theorem wf_nil [DecidableEq α] (d : α) : wf ([] : List (Nat × α)) d = true := rfl

end Sys2Proof.Machine.Store
end

