-- ==== Sys2Proof/Laws/Ops.lean ====
section
/-! SUPPORT. What each shared operation over registers, records of the parts, pegs and events does: the value it
leaves where it acts, and that it acts nowhere else. -/

namespace Sys2Proof.Machine

variable (s : State)

/-! ### Bit fields -/

theorem bits_lt (x lo n : Nat) : bits x lo n < 2 ^ n := Nat.mod_lt _ (Nat.two_pow_pos n)

/-- A number split at a field. -/
theorem bits_split (x lo n : Nat) :
    x = x / 2 ^ (lo + n) * 2 ^ (lo + n) + bits x lo n * 2 ^ lo + x % 2 ^ lo := by
  unfold bits
  have h1 := Nat.div_add_mod x (2 ^ lo)
  have h2 := Nat.div_add_mod (x / 2 ^ lo) (2 ^ n)
  rw [Nat.div_div_eq_div_mul, ← Nat.pow_add] at h2
  have h3 : 2 ^ (lo + n) = 2 ^ lo * 2 ^ n := Nat.pow_add ..
  rw [← h2, Nat.mul_add] at h1
  rw [h3, ← h3]
  calc x = 2 ^ lo * (2 ^ n * (x / 2 ^ (lo + n))) + 2 ^ lo * (x / 2 ^ lo % 2 ^ n) + x % 2 ^ lo := h1.symm
    _ = _ := by rw [← Nat.mul_assoc, ← h3, Nat.mul_comm (2 ^ (lo + n)), Nat.mul_comm (2 ^ lo)]

/-- A written field, with what stands above and below it. -/
theorem putBits_split (x lo n v : Nat) :
    putBits x lo n v = x / 2 ^ (lo + n) * 2 ^ (lo + n) + v % 2 ^ n * 2 ^ lo + x % 2 ^ lo := by
  have h := bits_split x lo n
  unfold putBits
  omega

/-- A field reads back what was written into it. -/
theorem bits_putBits_self (x lo n v : Nat) : bits (putBits x lo n v) lo n = v % 2 ^ n := by
  rw [putBits_split]
  unfold bits
  have e : x / 2 ^ (lo + n) * 2 ^ (lo + n) + v % 2 ^ n * 2 ^ lo + x % 2 ^ lo =
      x % 2 ^ lo + 2 ^ lo * (v % 2 ^ n + 2 ^ n * (x / 2 ^ (lo + n))) := by
    have h3 : 2 ^ lo * (2 ^ n * (x / 2 ^ (lo + n))) = x / 2 ^ (lo + n) * 2 ^ (lo + n) := by
      rw [← Nat.mul_assoc, ← Nat.pow_add, Nat.mul_comm]
    rw [Nat.mul_add, h3, Nat.mul_comm (2 ^ lo)]
    omega
  rw [e, Nat.add_mul_div_left _ _ (Nat.two_pow_pos lo), Nat.div_eq_of_lt (Nat.mod_lt _ (Nat.two_pow_pos lo)),
    Nat.zero_add, Nat.add_mul_mod_self_left, Nat.mod_mod]

theorem putBits_lt (x lo n v : Nat) (hx : x < 2 ^ 32) (h : lo + n ≤ 32) : putBits x lo n v < 2 ^ 32 := by
  have hs := bits_split x lo n
  rw [putBits_split]
  have hv : v % 2 ^ n < 2 ^ n := Nat.mod_lt _ (Nat.two_pow_pos n)
  have hl : x % 2 ^ lo < 2 ^ lo := Nat.mod_lt _ (Nat.two_pow_pos lo)
  have hq : x / 2 ^ (lo + n) < 2 ^ (32 - (lo + n)) := by
    rw [Nat.div_lt_iff_lt_mul (Nat.two_pow_pos _), ← Nat.pow_add]
    rwa [Nat.sub_add_cancel h]
  have h1 : (x / 2 ^ (lo + n) + 1) * 2 ^ (lo + n) ≤ 2 ^ 32 := by
    calc (x / 2 ^ (lo + n) + 1) * 2 ^ (lo + n) ≤ 2 ^ (32 - (lo + n)) * 2 ^ (lo + n) :=
          Nat.mul_le_mul_right _ hq
      _ = 2 ^ 32 := by rw [← Nat.pow_add, Nat.sub_add_cancel h]
  have h2 : (v % 2 ^ n + 1) * 2 ^ lo ≤ 2 ^ (lo + n) := by
    calc (v % 2 ^ n + 1) * 2 ^ lo ≤ 2 ^ n * 2 ^ lo := Nat.mul_le_mul_right _ hv
      _ = 2 ^ (lo + n) := by rw [← Nat.pow_add, Nat.add_comm]
  rw [Nat.add_mul, Nat.one_mul] at h1 h2
  omega

/-- A field that lies below or above the one written stands. -/
theorem bits_putBits_other (x lo n v a m : Nat) (h : a + m ≤ lo ∨ lo + n ≤ a) :
    bits (putBits x lo n v) a m = bits x a m := by
  have hp := putBits_split x lo n v
  have hx := bits_split x lo n
  rcases h with h | h
  · -- below: both numbers agree modulo 2 ^ lo
    have key : ∀ y, bits y a m = bits (y % 2 ^ lo) a m := by
      intro y
      unfold bits
      obtain ⟨k, rfl⟩ := Nat.exists_eq_add_of_le h
      have e : (2 : Nat) ^ (a + m + k) = 2 ^ a * (2 ^ m * 2 ^ k) := by
        rw [Nat.pow_add, Nat.pow_add, Nat.mul_assoc]
      rw [e, Nat.mod_mul_right_div_self]
      rw [Nat.mod_mul_right_mod]
    rw [key (putBits x lo n v), key x]
    congr 1
    rw [hp, Nat.pow_add, ← Nat.mul_assoc, Nat.mul_right_comm, ← Nat.add_mul, Nat.add_comm, Nat.add_mul_mod_self_right,
      Nat.mod_mod]
  · -- above: both numbers agree divided by 2 ^ (lo + n)
    have key : ∀ y, bits y a m = bits (y / 2 ^ (lo + n)) (a - (lo + n)) m := by
      intro y
      unfold bits
      rw [Nat.div_div_eq_div_mul, ← Nat.pow_add, Nat.add_sub_cancel' h]
    rw [key (putBits x lo n v), key x]
    congr 1
    rw [hp]
    have hv : v % 2 ^ n < 2 ^ n := Nat.mod_lt _ (Nat.two_pow_pos n)
    have hl : x % 2 ^ lo < 2 ^ lo := Nat.mod_lt _ (Nat.two_pow_pos lo)
    have h2 : (v % 2 ^ n + 1) * 2 ^ lo ≤ 2 ^ (lo + n) := by
      calc (v % 2 ^ n + 1) * 2 ^ lo ≤ 2 ^ n * 2 ^ lo := Nat.mul_le_mul_right _ hv
        _ = 2 ^ (lo + n) := by rw [← Nat.pow_add, Nat.add_comm]
    rw [Nat.add_mul, Nat.one_mul] at h2
    have hs : v % 2 ^ n * 2 ^ lo + x % 2 ^ lo < 2 ^ (lo + n) := by omega
    rw [Nat.add_assoc, Nat.mul_comm (x / _), Nat.mul_add_div (Nat.two_pow_pos _), Nat.div_eq_of_lt hs,
      Nat.add_zero]

/-! ### Registers -/

/-- A stored register reads back. -/
@[simp] theorem State.reg_setReg_self (off : Nat) (w : Word) : (s.setReg off w).reg off = w :=
  Store.get_set_self _ _ _ _

/-- Writing a register leaves every other. -/
theorem State.reg_setReg_other {off o : Nat} (w : Word) (h : o ≠ off) : (s.setReg off w).reg o = s.reg o := by
  unfold State.reg State.setReg
  simp only [Store.set]
  split
  · exact Store.get_erase_other _ _ h
  · rw [Store.get_insert_other _ _ _ h, Store.get_erase_other _ _ h]

/-- A field set to a value reads it, cut to its width. -/
theorem State.fld_setFld_self (f : Field) (v : Nat) (h : f.lo + f.width ≤ 32) :
    (s.setFld f v).fld f = v % 2 ^ f.width := by
  unfold State.fld State.setFld
  rw [State.reg_setReg_self, BitVec.toNat_ofNat,
    Nat.mod_eq_of_lt (putBits_lt _ _ _ _ (s.reg f.off).isLt h), bits_putBits_self]

/-- Setting a field leaves the fields of every other register. -/
theorem State.fld_setFld_reg (f g : Field) (v : Nat) (h : g.off ≠ f.off) : (s.setFld f v).fld g = s.fld g := by
  unfold State.fld State.setFld
  rw [State.reg_setReg_other _ _ h]

/-- Setting a field leaves the other fields of its register. -/
theorem State.fld_setFld_bits (f g : Field) (v : Nat) (h : f.lo + f.width ≤ 32)
    (hd : g.lo + g.width ≤ f.lo ∨ f.lo + f.width ≤ g.lo) : (s.setFld f v).fld g = s.fld g := by
  by_cases ho : g.off = f.off
  · unfold State.fld State.setFld
    rw [ho, State.reg_setReg_self, BitVec.toNat_ofNat,
      Nat.mod_eq_of_lt (putBits_lt _ _ _ _ (s.reg f.off).isLt h), bits_putBits_other _ _ _ _ _ _ hd]
  · exact State.fld_setFld_reg s f g v ho

/-- A field is below its power of two. -/
theorem State.fld_lt (f : Field) : s.fld f < 2 ^ f.width := bits_lt _ _ _

/-- A counting field saturates at all ones. -/
theorem State.fld_bump_self (f : Field) (n : Nat) (h : f.lo + f.width ≤ 32) :
    (s.bump f n).fld f = min (s.fld f + n) (2 ^ f.width - 1) := by
  unfold State.bump
  rw [State.fld_setFld_self _ _ _ h]
  refine Nat.mod_eq_of_lt ?_
  have := Nat.two_pow_pos f.width
  unfold satTo
  omega

/-! ### Parts -/

@[simp] theorem State.bay_setBay_self (b : PBay) (v : BayState) : (s.setBay b v).bay b = v :=
  Store.get_set_self _ _ _ _

theorem State.bay_setBay_other {b x : PBay} (v : BayState) (h : bayKey x ≠ bayKey b) :
    (s.setBay b v).bay x = s.bay x := Store.get_set_other _ _ _ h

@[simp] theorem State.queue_setQueue_self (q : Nat) (v : QueueState) : (s.setQueue q v).queue q = v :=
  Store.get_set_self _ _ _ _

theorem State.queue_setQueue_other {q x : Nat} (v : QueueState) (h : x ≠ q) :
    (s.setQueue q v).queue x = s.queue x := Store.get_set_other _ _ _ h

@[simp] theorem State.port_setPort_self (p : Nat) (v : Port) : (s.setPort p v).port p = v :=
  Store.get_set_self _ _ _ _

theorem State.port_setPort_other {p x : Nat} (v : Port) (h : x ≠ p) :
    (s.setPort p v).port x = s.port x := Store.get_set_other _ _ _ h

@[simp] theorem State.arb_setArb_self (blk : Nat) (v : ArbState) : (s.setArb blk v).arb blk = v :=
  Store.get_set_self _ _ _ _

@[simp] theorem State.session_setSession_self (e : Eng) (n : Nat) (v : Session) :
    (s.setSession e n v).session e n = v := Store.get_set_self _ _ _ _

/-! ### Events -/

/-- Raising a record adds one record at the end, of the source's next number (02 R54). -/
theorem State.raise_raised (src : Source) (c n d : Nat) :
    (s.raise src c n d).raised = s.raised ++
      [{ src := src, seq := s.seq src, course := s.course.count.toNat, cls := c, num := n, detail := d % 2 ^ 24 }] :=
  rfl

/-- A source's number advances by 1 modulo 2^32 with each record it raises (02 R54). -/
theorem State.seq_raise_self (src : Source) (c n d : Nat) :
    (s.raise src c n d).seq src = (s.seq src + 1) % 2 ^ 32 := Store.get_set_self _ _ _ _

/-! ### Lists of bytes -/

/-- A list of bytes has the length asked for. -/
@[simp] theorem length_toLe (n v : Nat) : (toLe n v).length = n := by
  induction n generalizing v with
  | zero => rfl
  | succ k ih => simp [toLe, ih]

/-- Bytes spell the number that gave them, cut to their width (00 R8). -/
theorem ofLe_toLe (n v : Nat) : ofLe (toLe n v) = v % 2 ^ (8 * n) := by
  induction n generalizing v with
  | zero => simp [toLe, ofLe, Nat.mod_one]
  | succ k ih =>
    have e : ofLe (toLe (k + 1) v) = (BitVec.ofNat 8 v).toNat + 256 * ofLe (toLe k (v / 256)) := rfl
    rw [e, ih, BitVec.toNat_ofNat, show 8 * (k + 1) = 8 + 8 * k by omega, Nat.pow_add,
      show (2 : Nat) ^ 8 = 256 from rfl, Nat.mod_mul]

/-! ### Pegs -/

/-- The watches tested on a peg change no register. -/
@[simp] theorem State.testWatches_fld (p : Nat) (f : Field) : (s.testWatches p).fld f = s.fld f := rfl

/-- A peg set to a count holds it, modulo 2^32 (11 R306). -/
theorem State.peg_setPeg_self (n v : Nat) : (s.setPeg n v).peg n = v % 2 ^ 32 :=
  State.fld_setFld_self s (Reg.pegCountCount n) v (Nat.le_refl 32)

end Sys2Proof.Machine
end

