-- ==== Sys2Proof/Laws/Keeps.lean ====
section
/-! SUPPORT. What every operation keeps: the queue of waiting commands stands, and the byte stores stay in
canonical form. One relation between a state and a later one, its composition, and the steps from which it is
built; the files Keep*.lean hold one law for each operation and meaning. -/

namespace Sys2Proof.Machine

/-- The queue of waiting commands stands, and canonical byte stores stay canonical. -/
structure State.Keeps (s t : State) : Prop where
  pending : t.pending = s.pending
  canonical : s.Canonical → t.Canonical

/-- The same of an outcome: its next state keeps. -/
structure State.KeepsOut (s : State) (o : Host.Outcome State Fault Refusal) : Prop where
  next : ∀ t, o = .next t → s.Keeps t

/-- The same of a pair whose first part is a state. -/
structure State.KeepsFst {α : Type} (s : State) (p : State × α) : Prop where
  fst : s.Keeps p.1

/-- The same of a pair whose second part is a state. -/
structure State.KeepsSnd {α : Type} (s : State) (p : α × State) : Prop where
  snd : s.Keeps p.2

/-- The same of a state that may be none. -/
structure State.KeepsOpt (s : State) (o : Option State) : Prop where
  some : ∀ t, o = .some t → s.Keeps t

theorem State.Keeps.rfl' (s : State) : s.Keeps s := ⟨rfl, id⟩

theorem State.Keeps.trans {s t u : State} (h : s.Keeps t) (h' : t.Keeps u) : s.Keeps u :=
  ⟨h'.1.trans h.1, fun c => h'.2 (h.2 c)⟩

/-- Entries leave the Underlay without disturbing its form. -/
theorem Underlay.wf_filter {l : List UEntry} (p : UEntry → Bool) (h : Underlay.wf l = true) :
    Underlay.wf (l.filter p) = true := by
  simp only [Underlay.wf, Bool.and_eq_true, List.all_eq_true, decide_eq_true_eq] at h ⊢
  exact ⟨fun e he => h.1 e (List.mem_filter.1 he).1, (List.filter_sublist.map _).nodup h.2⟩

/-- An update of other parts. -/
theorem State.Keeps.upd {s0 s t : State} (h : s0.Keeps s) (hp : t.pending = s.pending) (hm : t.mem = s.mem)
    (hl : t.lath = s.lath) (hs : t.slots = s.slots) (hu : t.under = s.under) :
    s0.Keeps t :=
  h.trans ⟨hp, fun c => ⟨hm ▸ c.mem, hl ▸ c.lath, hs ▸ c.slots, hu ▸ c.under⟩⟩

/-- An update of other parts, field by field. -/
theorem State.keeps_mk_iff {s0 s : State} {free resp regs live prev commits course pow mgmt reliab transit seqs raised evtBuf
    poison loft plru arbs watches image queues bays ports hostPort hostCfg held collseq inTransit media} :
    s0.Keeps (State.mk s.pending free resp regs live prev commits course pow mgmt reliab transit seqs raised evtBuf s.mem
      s.lath s.slots poison s.under loft plru arbs watches image queues bays ports hostPort hostCfg held collseq
      inTransit media) ↔
      s0.Keeps s :=
  ⟨fun h => h.upd rfl rfl rfl rfl rfl, fun h => h.upd rfl rfl rfl rfl rfl⟩

/-- An update that also replaces byte stores, by canonical ones. -/
theorem State.keeps_mk_stores {s0 s : State} {free resp regs live prev commits course pow mgmt reliab transit seqs raised
    evtBuf mem lath slots poison under loft plru arbs watches image queues bays ports hostPort hostCfg held collseq inTransit
    media} (h : s0.Keeps s) (hm : s.Canonical → Memory.wf mem = true) (hl : s.Canonical → Memory.wf lath = true)
    (hs : s.Canonical → Memory.wf slots = true) (hu : s.Canonical → Underlay.wf under = true) :
    s0.Keeps (State.mk s.pending free resp regs live prev commits course pow mgmt reliab transit seqs raised evtBuf mem
      lath slots poison under loft plru arbs watches image queues bays ports hostPort hostCfg held collseq
      inTransit media) :=
  h.trans ⟨rfl, fun c => ⟨hm c, hl c, hs c, hu c⟩⟩

theorem State.keeps_ite {s0 a b : State} {c : Prop} [Decidable c] (ha : s0.Keeps a) (hb : s0.Keeps b) :
    s0.Keeps (if c then a else b) := by
  split <;> assumption

theorem State.keeps_foldl {α : Type} {s0 : State} {f : State → α → State} {l : List α} {s : State}
    (h : s0.Keeps s) (hf : ∀ s x, s0.Keeps s → s0.Keeps (f s x)) : s0.Keeps (l.foldl f s) := by
  induction l generalizing s with
  | nil => exact h
  | cons x t ih => exact ih (hf s x h)

theorem State.keeps_foldl_fst {α β : Type} {s0 : State} {f : State × β → α → State × β} {l : List α} {p : State × β}
    (h : s0.KeepsFst p) (hf : ∀ p x, s0.KeepsFst p → s0.KeepsFst (f p x)) : s0.KeepsFst (l.foldl f p) := by
  induction l generalizing p with
  | nil => exact h
  | cons x t ih => exact ih (hf p x h)

theorem State.keepsOut_next {s0 s : State} (h : s0.Keeps s) : s0.KeepsOut (.next s) := by
  refine ⟨fun t e => ?_⟩
  cases e
  exact h

theorem State.keeps_fst {α : Type} {s0 : State} {p : State × α} (h : s0.KeepsFst p) : s0.Keeps p.1 := h.fst

theorem State.keeps_snd {α : Type} {s0 : State} {p : α × State} (h : s0.KeepsSnd p) : s0.Keeps p.2 := h.snd

theorem State.keepsFst_iff {α : Type} {s0 s : State} {a : α} : s0.KeepsFst (s, a) ↔ s0.Keeps s :=
  ⟨fun h => h.fst, fun h => ⟨h⟩⟩

theorem State.keepsSnd_iff {α : Type} {s0 s : State} {a : α} : s0.KeepsSnd (a, s) ↔ s0.Keeps s :=
  ⟨fun h => h.snd, fun h => ⟨h⟩⟩

/-- A state taken from a pair by a pattern. -/
theorem State.keeps_of_fst {α : Type} {s0 s : State} {p : State × α} {a : α} (e : p = (s, a))
    (h : s0.KeepsFst p) : s0.Keeps s := by
  subst e
  exact h.fst

theorem State.keeps_of_snd {α : Type} {s0 s : State} {p : α × State} {a : α} (e : p = (a, s))
    (h : s0.KeepsSnd p) : s0.Keeps s := by
  subst e
  exact h.snd

/-- A state taken from a triple by a pattern. -/
theorem State.keeps_of_fst3 {α β : Type} {s0 s : State} {p : State × α × β} {a : α} {b : β} (e : p = (s, a, b))
    (h : s0.KeepsFst p) : s0.Keeps s := by
  subst e
  exact h.fst

theorem State.keepsOpt_some {s0 s : State} (h : s0.Keeps s) : s0.KeepsOpt (some s) := by
  refine ⟨fun t e => ?_⟩
  cases e
  exact h

theorem State.keepsOpt_none {s0 : State} : s0.KeepsOpt none := by
  refine ⟨fun t e => ?_⟩
  cases e

/-- A state that an option holds. -/
theorem State.keeps_of_opt {s0 s : State} {o : Option State} (e : o = some s) (h : s0.KeepsOpt o) :
    s0.Keeps s := h.some s e

theorem State.keepsOpt_map {α : Type} {s0 : State} {o : Option α} {f : α → State}
    (hf : ∀ a, o = some a → s0.Keeps (f a)) : s0.KeepsOpt (o.map f) := by
  refine ⟨fun t e => ?_⟩
  cases o with
  | none => cases e
  | some a =>
    cases e
    exact hf a rfl

theorem State.keeps_getD {s0 s : State} {o : Option State} (ho : s0.KeepsOpt o) (h : s0.Keeps s) :
    s0.Keeps (o.getD s) := by
  cases o with
  | none => exact h
  | some t => exact ho.some t rfl

end Sys2Proof.Machine
end

