-- ==== Sys2Proof/Laws/KeepOps.lean ====
section
/-! SUPPORT. What the operations and commands of registers, memory, the arbiters and the ports keep: one law each (Laws/Keeps.lean). -/

namespace Sys2Proof.Machine

theorem State.setReg_keeps {s0 : State} {s : State} (off : Nat) (w : Word) (h : s0.Keeps s) :
    s0.Keeps (State.setReg s off w) := by
  unfold State.setReg
  repeat' (first
    | with_reducible assumption
    | simp only [State.keeps_mk_iff]
    | intro)

theorem State.setFld_keeps {s0 : State} {s : State} (f : Field) (v : Nat) (h : s0.Keeps s) :
    s0.Keeps (State.setFld s f v) := by
  unfold State.setFld
  repeat' (first
    | with_reducible assumption
    | with_reducible apply State.setReg_keeps
    | intro)

theorem State.bump_keeps {s0 : State} {s : State} (f : Field) (n : Nat) (h : s0.Keeps s) :
    s0.Keeps (State.bump s f n) := by
  unfold State.bump
  repeat' (first
    | with_reducible assumption
    | with_reducible apply State.setFld_keeps
    | intro)

theorem State.step1_keeps {s0 : State} {s : State} (f : Field) (h : s0.Keeps s) :
    s0.Keeps (State.step1 s f) := by
  unfold State.step1
  repeat' (first
    | with_reducible assumption
    | with_reducible apply State.setFld_keeps
    | intro)

theorem State.resetReg_keeps {s0 : State} {s : State} (off : Nat) (h : s0.Keeps s) :
    s0.Keeps (State.resetReg s off) := by
  unfold State.resetReg
  repeat' (first
    | with_reducible assumption
    | simp only [State.keeps_mk_iff]
    | intro)

theorem State.resetRegs_keeps {s0 : State} {s : State} (p : Nat → Bool) (h : s0.Keeps s) :
    s0.Keeps (State.resetRegs s p) := by
  unfold State.resetRegs
  repeat' (first
    | with_reducible assumption
    | simp only [State.keeps_mk_iff]
    | intro)

theorem State.setLive_keeps {s0 : State} {s : State} (off : Nat) (w : Word) (h : s0.Keeps s) :
    s0.Keeps (State.setLive s off w) := by
  unfold State.setLive
  repeat' (first
    | with_reducible assumption
    | simp only [State.keeps_mk_iff]
    | intro)

theorem State.setFlag_keeps {s0 : State} {s : State} (f : Field) (b : Bool) (h : s0.Keeps s) :
    s0.Keeps (State.setFlag s f b) := by
  unfold State.setFlag
  repeat' (first
    | with_reducible assumption
    | with_reducible apply State.setFld_keeps
    | split
    | intro)

theorem State.takeFree_keeps {s0 : State} {s : State} (h : s0.Keeps s) :
    s0.KeepsSnd (State.takeFree s) := by
  unfold State.takeFree
  repeat' (first
    | with_reducible assumption
    | simp only [State.keepsSnd_iff]
    | simp only [State.keeps_mk_iff]
    | intro)

theorem State.setBay_keeps {s0 : State} {s : State} (b : PBay) (v : BayState) (h : s0.Keeps s) :
    s0.Keeps (State.setBay s b v) := by
  unfold State.setBay
  repeat' (first
    | with_reducible assumption
    | simp only [State.keeps_mk_iff]
    | intro)

theorem State.setQueue_keeps {s0 : State} {s : State} (q : Nat) (v : QueueState) (h : s0.Keeps s) :
    s0.Keeps (State.setQueue s q v) := by
  unfold State.setQueue
  repeat' (first
    | with_reducible assumption
    | simp only [State.keeps_mk_iff]
    | intro)

theorem State.setPort_keeps {s0 : State} {s : State} (p : Nat) (v : Port) (h : s0.Keeps s) :
    s0.Keeps (State.setPort s p v) := by
  unfold State.setPort
  repeat' (first
    | with_reducible assumption
    | simp only [State.keeps_mk_iff]
    | intro)

theorem State.setArb_keeps {s0 : State} {s : State} (blk : Nat) (v : ArbState) (h : s0.Keeps s) :
    s0.Keeps (State.setArb s blk v) := by
  unfold State.setArb
  repeat' (first
    | with_reducible assumption
    | simp only [State.keeps_mk_iff]
    | intro)

theorem State.setSession_keeps {s0 : State} {s : State} (e : Eng) (slot : Nat) (v : Session) (h : s0.Keeps s) :
    s0.Keeps (State.setSession s e slot v) := by
  unfold State.setSession
  repeat' (first
    | with_reducible assumption
    | simp only [State.keeps_mk_iff]
    | intro)

theorem State.raise_keeps {s0 : State} {s : State} (src : Source) (cls num detail : Nat) (h : s0.Keeps s) :
    s0.Keeps (State.raise s src cls num detail) := by
  unfold State.raise
  repeat' (first
    | with_reducible assumption
    | simp only [State.keeps_mk_iff]
    | intro)

theorem State.accessEvent_keeps {s0 : State} {s : State} (p : Path) (num off : Nat) (h : s0.Keeps s) :
    s0.Keeps (State.accessEvent s p num off) := by
  unfold State.accessEvent
  repeat' (first
    | with_reducible assumption
    | with_reducible apply State.raise_keeps
    | intro)

theorem State.pendPage_keeps {s0 : State} {s : State} (a : Nat) (h : s0.Keeps s) :
    s0.Keeps (State.pendPage s a) := by
  unfold State.pendPage
  repeat' (first
    | with_reducible assumption
    | with_reducible apply State.bump_keeps
    | with_reducible apply State.raise_keeps
    | simp only [State.keeps_mk_iff]
    | split
    | intro)

theorem State.noteErr_keeps {s0 : State} {s : State} (a : Nat) (h : s0.Keeps s) :
    s0.Keeps (State.noteErr s a) := by
  unfold State.noteErr
  repeat' (first
    | with_reducible assumption
    | with_reducible apply State.setFld_keeps
    | dsimp only
    | intro)

theorem State.uncorrectable_keeps {s0 : State} {s : State} (a : Nat) (h : s0.Keeps s) :
    s0.Keeps (State.uncorrectable s a) := by
  unfold State.uncorrectable
  repeat' (first
    | with_reducible assumption
    | with_reducible apply State.bump_keeps
    | with_reducible apply State.noteErr_keeps
    | with_reducible apply State.raise_keeps
    | with_reducible apply State.pendPage_keeps
    | dsimp only
    | intro)

theorem State.noteRead_keeps {s0 : State} {s : State} (src : Source) (a n : Nat) (h : s0.Keeps s) :
    s0.KeepsFst (State.noteRead s src a n) := by
  unfold State.noteRead
  repeat' (first
    | with_reducible assumption
    | with_reducible apply State.raise_keeps
    | with_reducible apply State.uncorrectable_keeps
    | with_reducible refine State.keeps_foldl ?_ ?_
    | with_reducible refine State.keeps_foldl_fst ?_ ?_
    | simp only [State.keepsFst_iff]
    | dsimp only
    | split
    | intro)

theorem State.setPoison_keeps {s0 : State} {s : State} (a : Nat) (on : Bool) (h : s0.Keeps s) :
    s0.Keeps (State.setPoison s a on) := by
  unfold State.setPoison
  repeat' (first
    | with_reducible assumption
    | simp only [State.keeps_mk_iff]
    | split
    | intro)

theorem State.pokeN_keeps {s0 s : State} (a : Nat) (data : List (Option Byte)) (h : s0.Keeps s) :
    s0.Keeps (State.pokeN s a data) := by
  induction data generalizing s a with
  | nil => simpa [State.pokeN] using h
  | cons x t ih =>
    cases x with
    | none => simpa [State.pokeN] using ih _ h
    | some b =>
      rw [State.pokeN]
      exact ih _ (h.trans ⟨rfl, fun c => ⟨Store.wf_set _ _ c.mem, c.lath, c.slots, c.under⟩⟩)

theorem State.drainSector_keeps {s0 : State} {s : State} (e : UEntry) (k : Nat) (h : s0.Keeps s) :
    s0.Keeps (State.drainSector s e k) := by
  unfold State.drainSector
  repeat' (first
    | with_reducible assumption
    | with_reducible apply State.pokeN_keeps
    | with_reducible apply State.setPoison_keeps
    | with_reducible apply State.bump_keeps
    | with_reducible apply State.uncorrectable_keeps
    | with_reducible apply Coll.take_keeps
    | with_reducible apply State.keepsOpt_some
    | with_reducible exact State.keepsOpt_none
    | with_reducible refine State.keepsOpt_map ?_
    | with_reducible apply State.keeps_getD
    | with_reducible refine State.keeps_of_opt (by assumption) ?_
    | dsimp only
    | split
    | intro)

/-- A line's entry leaves the Underlay once its sectors are written. -/
theorem State.drainEntry_keeps {s0 s : State} (e : UEntry) (h : s0.Keeps s) : s0.Keeps (State.drainEntry s e) := by
  unfold State.drainEntry
  dsimp only
  refine State.keeps_mk_stores ?_ (fun c => c.mem) (fun c => c.lath) (fun c => c.slots) (fun c => ?_)
  · exact State.keeps_foldl h fun s k hs => State.drainSector_keeps _ _ hs
  · exact Underlay.wf_filter _ c.under

/-- A new entry for a line that holds none. -/
theorem State.addEntry_keeps {s0 s : State} (line : Nat) (data : List (Option Byte)) (hd : data.length = 128)
    (hn : s.entry line = none) (h : s0.Keeps s) : s0.Keeps (State.addEntry s line data) := by
  unfold State.addEntry
  refine State.setFld_keeps _ _ ?_
  refine State.keeps_mk_stores h (fun c => c.mem) (fun c => c.lath) (fun c => c.slots) (fun c => ?_)
  have c := c.under
  simp only [Underlay.wf, Bool.and_eq_true, List.all_eq_true, decide_eq_true_eq] at c ⊢
  refine ⟨fun e he => ?_, ?_⟩
  · rcases List.mem_append.1 he with he | he
    · exact c.1 e he
    · rw [List.mem_singleton.1 he]
      exact hd
  · rw [List.map_append, List.nodup_append]
    refine ⟨c.2, by simp, fun x hx y hy => ?_⟩
    rw [List.map_singleton, List.mem_singleton] at hy
    subst hy
    rintro rfl
    obtain ⟨e, he, hx⟩ := List.mem_map.1 hx
    unfold State.entry at hn
    rw [List.find?_eq_none] at hn
    exact hn e he (by simpa using hx)

/-- Writing bytes into memory leaves the Underlay. -/
@[simp] theorem State.pokeN_under (s : State) (a : Nat) (data : List (Option Byte)) :
    (State.pokeN s a data).under = s.under := by
  induction data generalizing s a with
  | nil => simp [State.pokeN]
  | cons x t ih => cases x <;> simp [State.pokeN, ih]

@[simp] theorem State.pendPage_under (s : State) (a : Nat) : (s.pendPage a).under = s.under := by
  unfold State.pendPage
  split <;> simp

@[simp] theorem State.noteErr_under (s : State) (a : Nat) : (s.noteErr a).under = s.under := by
  simp [State.noteErr]

@[simp] theorem State.uncorrectable_under (s : State) (a : Nat) : (s.uncorrectable a).under = s.under := by
  simp [State.uncorrectable]

@[simp] theorem State.setPoison_under (s : State) (a : Nat) (on : Bool) : (s.setPoison a on).under = s.under := (rfl)

@[simp] theorem State.drainSector_under (s : State) (e : UEntry) (k : Nat) :
    (s.drainSector e k).under = s.under := by
  unfold State.drainSector
  dsimp only
  split
  · simp
  · split
    · simp
    · split <;> simp

/-- What is left of the Underlay when an entry drains. -/
theorem State.drainEntry_under (s : State) (e : UEntry) :
    (s.drainEntry e).under = s.under.filter fun x => x.line ≠ e.line := by
  have key : ∀ l : List Nat, ∀ s : State,
      (l.foldl (fun (s : State) k => s.drainSector e k) s).under = s.under := by
    intro l
    induction l with
    | nil => intro s; rfl
    | cons k t ih => intro s; rw [List.foldl_cons, ih, State.drainSector_under]
  unfold State.drainEntry
  simp only [key]

/-- A line's bytes enter the Underlay in their form. -/
theorem State.enterLine_keeps {s0 s : State} (line : Nat) (data : List (Option Byte)) (hd : data.length = 128)
    (h : s0.Keeps s) : s0.Keeps (State.enterLine s line data) := by
  unfold State.enterLine
  dsimp only
  split
  · refine State.bump_keeps _ _ ?_
    refine State.keeps_mk_stores h (fun c => c.mem) (fun c => c.lath) (fun c => c.slots) (fun c => ?_)
    have c := c.under
    simp only [Underlay.wf, Bool.and_eq_true, List.all_eq_true, decide_eq_true_eq] at c ⊢
    refine ⟨fun e he => ?_, ?_⟩
    · obtain ⟨x, hx, rfl⟩ := List.mem_map.1 he
      split
      · simp [mergeBytes, c.1 x hx, hd]
      · exact c.1 x hx
    · rw [List.map_map]
      have e : UEntry.line ∘ (fun x : UEntry =>
          if x.line = line then { x with data := mergeBytes x.data data } else x) = UEntry.line := by
        funext x
        simp only [Function.comp]
        split <;> rfl
      rw [e]
      exact c.2
  · rename_i hn
    split
    · exact State.addEntry_keeps _ _ hd hn h
    · split
      · refine State.addEntry_keeps _ _ hd ?_ (State.drainEntry_keeps _ ?_)
        · unfold State.entry at hn ⊢
          rw [State.drainEntry_under, List.find?_eq_none]
          rw [List.find?_eq_none] at hn
          exact fun x hx => hn x (List.mem_filter.1 hx).1
        · exact State.bump_keeps _ _ (State.takeFree_keeps h).snd
      · exact State.addEntry_keeps _ _ hd hn (State.bump_keeps _ _ (State.takeFree_keeps h).snd)

/-- The bytes of a line are 128. -/
@[simp] theorem length_lineBytes (a : Nat) (data : List (Option Byte)) (line : Nat) :
    (lineBytes a data line).length = 128 := by simp [lineBytes]

theorem State.writeLine_keeps {s0 s : State} (src : Source) (a : Nat) (data : List (Option Byte)) (line : Nat)
    (h : s0.Keeps s) : s0.Keeps (State.writeLine s src a data line) := by
  unfold State.writeLine
  dsimp only
  repeat' (first
    | with_reducible assumption
    | with_reducible apply State.raise_keeps
    | with_reducible refine State.enterLine_keeps _ _ (length_lineBytes _ _ _) ?_
    | split)

theorem State.loftUpdate_keeps {s0 : State} {s : State} (die : Nat) (a : Nat) (data : List (Option Byte)) (h : s0.Keeps s) :
    s0.Keeps (State.loftUpdate s die a data) := by
  unfold State.loftUpdate
  repeat' (first
    | with_reducible assumption
    | simp only [State.keeps_mk_iff]
    | split
    | intro)

theorem State.memWrite_keeps {s0 : State} {s : State} (src : Source) (a : Nat) (data : List (Option Byte)) (h : s0.Keeps s) :
    s0.Keeps (State.memWrite s src a data) := by
  unfold State.memWrite
  repeat' (first
    | with_reducible assumption
    | with_reducible apply State.writeLine_keeps
    | with_reducible refine State.keeps_foldl ?_ ?_
    | split
    | intro)

theorem State.memPut_keeps {s0 : State} {s : State} (src : Source) (a : Nat) (bs : List Byte) (h : s0.Keeps s) :
    s0.Keeps (State.memPut s src a bs) := by
  unfold State.memPut
  repeat' (first
    | with_reducible assumption
    | with_reducible apply State.memWrite_keeps
    | intro)

theorem State.lathWrite_keeps {s0 s : State} (b : PBay) (off : Nat) (data : List (Option Byte)) (h : s0.Keeps s) :
    s0.Keeps (State.lathWrite s b off data) := by
  induction data generalizing s off with
  | nil => simpa [State.lathWrite] using h
  | cons x t ih =>
    cases x with
    | none => simpa [State.lathWrite] using ih _ h
    | some v =>
      rw [State.lathWrite]
      exact ih _ (h.trans ⟨rfl, fun c => ⟨c.mem, Store.wf_set _ _ c.lath, c.slots, c.under⟩⟩)

theorem State.lathClear_keeps {s0 s : State} (b : PBay) (h : s0.Keeps s) : s0.Keeps (State.lathClear s b) :=
  h.trans ⟨rfl, fun c => ⟨c.mem, Store.wf_filter _ c.lath, c.slots, c.under⟩⟩

theorem State.lathZero_keeps {s0 s : State} (b : PBay) (off n : Nat) (h : s0.Keeps s) :
    s0.Keeps (State.lathZero s b off n) :=
  h.trans ⟨rfl, fun c => ⟨c.mem, Store.wf_filter _ c.lath, c.slots, c.under⟩⟩

theorem State.slotWrite_keeps {s0 s : State} (slot off : Nat) (data : List Byte) (h : s0.Keeps s) :
    s0.Keeps (State.slotWrite s slot off data) := by
  induction data generalizing s off with
  | nil => simpa [State.slotWrite] using h
  | cons v t ih =>
    rw [State.slotWrite]
    exact ih _ (h.trans ⟨rfl, fun c => ⟨c.mem, c.lath, Store.wf_set _ _ c.slots, c.under⟩⟩)

theorem State.testWatches_keeps {s0 : State} {s : State} (peg : Nat) (h : s0.Keeps s) :
    s0.Keeps (State.testWatches s peg) := by
  unfold State.testWatches
  repeat' (first
    | with_reducible assumption
    | simp only [State.keeps_mk_iff]
    | split
    | intro)

theorem State.setPeg_keeps {s0 : State} {s : State} (n v : Nat) (h : s0.Keeps s) :
    s0.Keeps (State.setPeg s n v) := by
  unfold State.setPeg
  repeat' (first
    | with_reducible assumption
    | with_reducible apply State.setFld_keeps
    | with_reducible apply State.testWatches_keeps
    | intro)

theorem State.applyPeg_keeps {s0 : State} {s : State} (peg : Nat) (m : PegMsg) (h : s0.Keeps s) :
    s0.Keeps (State.applyPeg s peg m) := by
  unfold State.applyPeg
  repeat' (first
    | with_reducible assumption
    | with_reducible apply State.setPeg_keeps
    | with_reducible apply State.raise_keeps
    | dsimp only
    | split
    | intro)

theorem State.addPeg_keeps {s0 : State} {s : State} (peg value die ctx : Nat) (h : s0.Keeps s) :
    s0.Keeps (State.addPeg s peg value die ctx) := by
  unfold State.addPeg
  repeat' (first
    | with_reducible assumption
    | with_reducible apply State.applyPeg_keeps
    | intro)

theorem State.watchIn_keeps {s0 : State} {s : State} (w : Watch) (h : s0.Keeps s) :
    s0.Keeps (State.watchIn s w) := by
  unfold State.watchIn
  repeat' (first
    | with_reducible assumption
    | with_reducible apply State.raise_keeps
    | simp only [State.keeps_mk_iff]
    | split
    | intro)

theorem State.liggerAhead_keeps {s0 : State} {s : State} (die : Nat) (c : LiggerClass) (h : s0.Keeps s) :
    s0.Keeps (State.liggerAhead s die c) := by
  unfold State.liggerAhead
  repeat' (first
    | with_reducible assumption
    | with_reducible apply State.watchIn_keeps
    | with_reducible refine State.keeps_foldl ?_ ?_
    | split
    | intro)

theorem State.sendPeg_keeps {s0 : State} {s : State} (peg : Nat) (m : PegMsg) (h : s0.Keeps s) :
    s0.Keeps (State.sendPeg s peg m) := by
  unfold State.sendPeg
  repeat' (first
    | with_reducible assumption
    | with_reducible apply State.liggerAhead_keeps
    | with_reducible apply State.applyPeg_keeps
    | intro)

theorem State.arbWindowEnd_keeps {s0 : State} {s : State} (blk : Nat) (h : s0.Keeps s) :
    s0.Keeps (State.arbWindowEnd s blk) := by
  unfold State.arbWindowEnd
  repeat' (first
    | with_reducible assumption
    | with_reducible apply State.setArb_keeps
    | simp only [State.keeps_mk_iff]
    | intro)

theorem State.arbNoteWait_keeps {s0 : State} {s : State} (blk lane wait : Nat) (h : s0.Keeps s) :
    s0.Keeps (State.arbNoteWait s blk lane wait) := by
  unfold State.arbNoteWait
  repeat' (first
    | with_reducible assumption
    | with_reducible apply State.setFld_keeps
    | split
    | intro)

theorem State.arbGrant_keeps {s0 : State} {s : State} (blk : Nat) (requests old : Word) (h : s0.Keeps s) :
    s0.Keeps (State.arbGrant s blk requests old) := by
  unfold State.arbGrant
  repeat' (first
    | with_reducible assumption
    | with_reducible apply State.arbWindowEnd_keeps
    | with_reducible apply State.arbNoteWait_keeps
    | with_reducible apply State.setArb_keeps
    | with_reducible refine State.keeps_foldl ?_ ?_
    | simp only [State.keeps_mk_iff]
    | split
    | intro)

theorem execArbiterGrant_keeps {s0 : State} (blk : Nat) (ofTasks : List TaskAsk) (ofUnits : List UnitAsk) {s : State} (h : s0.Keeps s) :
    s0.KeepsOut (execArbiterGrant blk ofTasks ofUnits s) := by
  unfold execArbiterGrant
  repeat' (first
    | with_reducible assumption
    | with_reducible apply State.keepsOut_next
    | with_reducible apply State.arbGrant_keeps
    | dsimp only
    | split
    | intro)

theorem execQuotaWindowEnd_keeps {s0 : State} (blk : Nat) {s : State} (h : s0.Keeps s) :
    s0.KeepsOut (execQuotaWindowEnd blk s) := by
  unfold execQuotaWindowEnd
  repeat' (first
    | with_reducible assumption
    | with_reducible apply State.keepsOut_next
    | with_reducible apply State.arbWindowEnd_keeps
    | split
    | intro)

theorem execSlotBoundary_keeps {s0 : State} {s : State} (h : s0.Keeps s) :
    s0.KeepsOut (execSlotBoundary s) := by
  unfold execSlotBoundary
  repeat' (first
    | with_reducible assumption
    | with_reducible apply State.keepsOut_next
    | simp only [State.keeps_mk_iff]
    | split
    | intro)

theorem State.access_keeps {s0 : State} {s : State} (p : Path) (off : Nat) (effect : State → State) (h : s0.Keeps s) (heffect : ∀ s, s0.Keeps s → s0.Keeps (effect s)) :
    s0.Keeps (State.access s p off effect) := by
  unfold State.access
  repeat' (first
    | with_reducible assumption
    | with_reducible apply heffect
    | with_reducible apply State.accessEvent_keeps
    | simp only [State.keeps_mk_iff]
    | split
    | intro)

theorem State.latchCourse_keeps {s0 : State} {s : State} (p : Path) (h : s0.Keeps s) :
    s0.Keeps (State.latchCourse s p) := by
  unfold State.latchCourse
  repeat' (first
    | with_reducible assumption
    | with_reducible apply Coll.count_keeps
    | simp only [State.keeps_mk_iff]
    | split
    | intro)

theorem State.latchOfs_keeps {s0 : State} {s : State} (p : Path) (h : s0.Keeps s) :
    s0.Keeps (State.latchOfs s p) := by
  unfold State.latchOfs
  repeat' (first
    | with_reducible assumption
    | simp only [State.keeps_mk_iff]
    | split
    | intro)

theorem State.restartArbWait_keeps {s0 : State} {s : State} (blk : Nat) (h : s0.Keeps s) :
    s0.Keeps (State.restartArbWait s blk) := by
  unfold State.restartArbWait
  repeat' (first
    | with_reducible assumption
    | with_reducible apply State.setFld_keeps
    | intro)

theorem State.restartBayWait_keeps {s0 : State} {s : State} (b : PBay) (h : s0.Keeps s) :
    s0.Keeps (State.restartBayWait s b) := by
  unfold State.restartBayWait
  repeat' (first
    | with_reducible assumption
    | with_reducible apply State.setFld_keeps
    | intro)

theorem State.restartPeak_keeps {s0 : State} {s : State} (die : Nat) (h : s0.Keeps s) :
    s0.Keeps (State.restartPeak s die) := by
  unfold State.restartPeak
  repeat' (first
    | with_reducible assumption
    | with_reducible apply State.setFld_keeps
    | intro)

theorem State.restartCredMin_keeps {s0 : State} {s : State} (port : Nat) (h : s0.Keeps s) :
    s0.Keeps (State.restartCredMin s port) := by
  unfold State.restartCredMin
  repeat' (first
    | with_reducible assumption
    | with_reducible apply State.setFld_keeps
    | intro)

theorem State.restartPinPeak_keeps {s0 : State} {s : State} (h : s0.Keeps s) :
    s0.Keeps (State.restartPinPeak s) := by
  unfold State.restartPinPeak
  repeat' (first
    | with_reducible assumption
    | with_reducible apply State.setFld_keeps
    | intro)

theorem State.readEffect_keeps {s0 : State} {s : State} (p : Path) (off : Nat) (h : s0.Keeps s) :
    s0.Keeps (State.readEffect s p off) := by
  unfold State.readEffect
  repeat' (first
    | with_reducible assumption
    | with_reducible apply State.latchCourse_keeps
    | with_reducible apply State.latchOfs_keeps
    | with_reducible apply State.restartPinPeak_keeps
    | with_reducible apply State.restartArbWait_keeps
    | with_reducible apply State.restartBayWait_keeps
    | with_reducible apply State.restartPeak_keeps
    | with_reducible apply State.restartCredMin_keeps
    | simp only [State.keeps_mk_iff]
    | split
    | intro)

theorem State.read32_keeps {s0 : State} {s : State} (p : Path) (off : Nat) (h : s0.Keeps s) :
    s0.KeepsSnd (State.read32 s p off) := by
  unfold State.read32
  repeat' (first
    | with_reducible assumption
    | with_reducible apply State.accessEvent_keeps
    | with_reducible apply State.readEffect_keeps
    | simp only [State.keepsSnd_iff]
    | simp only [State.keeps_mk_iff]
    | split
    | intro)

theorem State.readN_keeps {s0 : State} {s : State} (p : Path) (off width : Nat) (h : s0.Keeps s) :
    s0.KeepsSnd (State.readN s p off width) := by
  unfold State.readN
  repeat' (first
    | with_reducible assumption
    | with_reducible apply State.accessEvent_keeps
    | with_reducible apply State.read32_keeps
    | simp only [State.keepsSnd_iff]
    | with_reducible refine State.keeps_of_snd (by assumption) ?_
    | with_reducible apply State.keeps_snd
    | dsimp only
    | split
    | intro)

theorem State.readInto_keeps {s0 : State} {s : State} (p : Path) (off width : Nat) (h : s0.Keeps s) :
    s0.Keeps (State.readInto s p off width) := by
  unfold State.readInto
  repeat' (first
    | with_reducible assumption
    | with_reducible apply State.readN_keeps
    | simp only [State.keepsSnd_iff]
    | with_reducible refine State.keeps_of_snd (by assumption) ?_
    | with_reducible apply State.keeps_snd
    | simp only [State.keeps_mk_iff]
    | split
    | intro)

theorem execCourseLoRead_keeps {s0 : State} (p : Path) (wide : Bool) {s : State} (h : s0.Keeps s) :
    s0.KeepsOut (execCourseLoRead p wide s) := by
  unfold execCourseLoRead
  repeat' (first
    | with_reducible assumption
    | with_reducible apply State.keepsOut_next
    | with_reducible apply State.readInto_keeps
    | split
    | intro)

theorem execBeaconOfsLoRead_keeps {s0 : State} (p : Path) (wide : Bool) {s : State} (h : s0.Keeps s) :
    s0.KeepsOut (execBeaconOfsLoRead p wide s) := by
  unfold execBeaconOfsLoRead
  repeat' (first
    | with_reducible assumption
    | with_reducible apply State.keepsOut_next
    | with_reducible apply State.readInto_keeps
    | split
    | intro)

theorem execVlyWaitmaxRead_keeps {s0 : State} (p : Path) (blk : Nat) {s : State} (h : s0.Keeps s) :
    s0.KeepsOut (execVlyWaitmaxRead p blk s) := by
  unfold execVlyWaitmaxRead
  repeat' (first
    | with_reducible assumption
    | with_reducible apply State.keepsOut_next
    | with_reducible apply State.readInto_keeps
    | intro)

theorem execBayWaitmaxRead_keeps {s0 : State} (p : Path) (b : PBay) {s : State} (h : s0.Keeps s) :
    s0.KeepsOut (execBayWaitmaxRead p b s) := by
  unfold execBayWaitmaxRead
  repeat' (first
    | with_reducible assumption
    | with_reducible apply State.keepsOut_next
    | with_reducible apply State.readInto_keeps
    | intro)

theorem execUndStatRead_keeps {s0 : State} (p : Path) (die : Nat) {s : State} (h : s0.Keeps s) :
    s0.KeepsOut (execUndStatRead p die s) := by
  unfold execUndStatRead
  repeat' (first
    | with_reducible assumption
    | with_reducible apply State.keepsOut_next
    | with_reducible apply State.readInto_keeps
    | intro)

theorem execEavCredRead_keeps {s0 : State} (p : Path) (port : Nat) {s : State} (h : s0.Keeps s) :
    s0.KeepsOut (execEavCredRead p port s) := by
  unfold execEavCredRead
  repeat' (first
    | with_reducible assumption
    | with_reducible apply State.keepsOut_next
    | with_reducible apply State.readInto_keeps
    | intro)

theorem execFlPinRead_keeps {s0 : State} (p : Path) (watts peak : Nat) {s : State} (h : s0.Keeps s) :
    s0.KeepsOut (execFlPinRead p watts peak s) := by
  unfold execFlPinRead
  repeat' (first
    | with_reducible assumption
    | with_reducible apply State.keepsOut_next
    | with_reducible apply State.setFld_keeps
    | with_reducible apply State.readInto_keeps
    | split
    | intro)

theorem State.freeParts_keeps {s0 : State} {s : State} (port : Nat) (parts : List (Nat × Nat)) (h : s0.Keeps s) :
    s0.Keeps (State.freeParts s port parts) := by
  unfold State.freeParts
  repeat' (first
    | with_reducible assumption
    | with_reducible apply State.setPort_keeps
    | with_reducible refine State.keeps_foldl ?_ ?_
    | simp only [State.keeps_mk_iff]
    | intro)

theorem State.dropPart_keeps {s0 : State} {s : State} (port : Nat) (h : s0.Keeps s) :
    s0.Keeps (State.dropPart s port) := by
  unfold State.dropPart
  repeat' (first
    | with_reducible assumption
    | with_reducible apply State.freeParts_keeps
    | with_reducible apply State.setPort_keeps
    | simp only [State.keeps_mk_iff]
    | intro)

theorem State.leaveMsg_keeps {s0 : State} {s : State} (port : Nat) (m : Msg) (h : s0.Keeps s) :
    s0.Keeps (State.leaveMsg s port m) := by
  unfold State.leaveMsg
  repeat' (first
    | with_reducible assumption
    | with_reducible apply State.freeParts_keeps
    | with_reducible apply State.setPort_keeps
    | simp only [State.keeps_mk_iff]
    | split
    | intro)

theorem State.deal_keeps {s0 : State} {s : State} (port : Nat) (flit : List Byte) (h : s0.Keeps s) :
    s0.Keeps (State.deal s port flit) := by
  unfold State.deal
  repeat' (first
    | with_reducible assumption
    | with_reducible apply State.setPort_keeps
    | simp only [State.keeps_mk_iff]
    | intro)

theorem State.emit_keeps {s0 : State} {s : State} (port seq typ : Nat) (payload : List Byte) (h : s0.Keeps s) :
    s0.Keeps (State.emit s port seq typ payload) := by
  unfold State.emit
  repeat' (first
    | with_reducible assumption
    | with_reducible apply State.setPort_keeps
    | with_reducible apply State.deal_keeps
    | simp only [State.keeps_mk_iff]
    | split
    | intro)

theorem State.sendVia_keeps {s0 : State} {s : State} (port typ : Nat) (queue came : Option Nat) (m : Msg) (h : s0.Keeps s) :
    s0.Keeps (State.sendVia s port typ queue came m) := by
  unfold State.sendVia
  repeat' (first
    | with_reducible assumption
    | with_reducible apply State.setPort_keeps
    | simp only [State.keeps_mk_iff]
    | intro)

theorem State.sendMsg_keeps {s0 : State} {s : State} (port typ : Nat) (queue : Option Nat) (m : Msg) (h : s0.Keeps s) :
    s0.Keeps (State.sendMsg s port typ queue m) := by
  unfold State.sendMsg
  repeat' (first
    | with_reducible assumption
    | with_reducible apply State.sendVia_keeps
    | intro)

theorem State.spend_keeps {s0 : State} {s : State} (port typ : Nat) (queue : Option Nat) (h : s0.Keeps s) :
    s0.Keeps (State.spend s port typ queue) := by
  unfold State.spend
  repeat' (first
    | with_reducible assumption
    | with_reducible apply State.setPort_keeps
    | with_reducible apply State.setFld_keeps
    | simp only [State.keeps_mk_iff]
    | split
    | intro)

theorem State.hostEmit_keeps {s0 : State} {s : State} (port : Nat) (f : Flit) (h : s0.Keeps s) :
    s0.Keeps (State.hostEmit s port f) := by
  unfold State.hostEmit
  repeat' (first
    | with_reducible assumption
    | with_reducible apply State.setPort_keeps
    | with_reducible apply State.deal_keeps
    | simp only [State.keeps_mk_iff]
    | intro)

theorem State.hostTransmit_keeps {s0 : State} {s : State} (port : Nat) (h : s0.Keeps s) :
    s0.Keeps (State.hostTransmit s port) := by
  unfold State.hostTransmit
  repeat' (first
    | with_reducible assumption
    | with_reducible apply State.setPort_keeps
    | with_reducible apply State.hostEmit_keeps
    | with_reducible apply State.takeFree_keeps
    | simp only [State.keepsSnd_iff]
    | with_reducible refine State.keeps_of_snd (by assumption) ?_
    | with_reducible apply State.keeps_snd
    | simp only [State.keeps_mk_iff]
    | split
    | intro)

theorem execFlitTransmit_keeps {s0 : State} (port : Nat) {s : State} (h : s0.Keeps s) :
    s0.KeepsOut (execFlitTransmit port s) := by
  unfold execFlitTransmit
  repeat' (first
    | with_reducible assumption
    | with_reducible apply State.keepsOut_next
    | with_reducible apply State.hostTransmit_keeps
    | with_reducible apply State.spend_keeps
    | with_reducible apply State.setPort_keeps
    | with_reducible apply State.emit_keeps
    | with_reducible apply State.leaveMsg_keeps
    | with_reducible refine State.keeps_foldl ?_ ?_
    | simp only [State.keeps_mk_iff]
    | split
    | intro)

theorem State.ackUpTo_keeps {s0 : State} {s : State} (port ack : Nat) (h : s0.Keeps s) :
    s0.Keeps (State.ackUpTo s port ack) := by
  unfold State.ackUpTo
  repeat' (first
    | with_reducible assumption
    | with_reducible apply State.setPort_keeps
    | simp only [State.keeps_mk_iff]
    | split
    | intro)

theorem State.resend_keeps {s0 : State} {s : State} (port : Nat) (h : s0.Keeps s) :
    s0.Keeps (State.resend s port) := by
  unfold State.resend
  repeat' (first
    | with_reducible assumption
    | with_reducible apply State.hostEmit_keeps
    | with_reducible apply State.emit_keeps
    | with_reducible refine State.keeps_foldl ?_ ?_
    | split
    | intro)

theorem State.nakEffect_keeps {s0 : State} {s : State} (port ack : Nat) (h : s0.Keeps s) :
    s0.Keeps (State.nakEffect s port ack) := by
  unfold State.nakEffect
  repeat' (first
    | with_reducible assumption
    | with_reducible apply State.ackUpTo_keeps
    | with_reducible apply State.bump_keeps
    | with_reducible apply State.resend_keeps
    | intro)

theorem State.creditBack_keeps {s0 : State} {s : State} (port cls n : Nat) (h : s0.Keeps s) :
    s0.Keeps (State.creditBack s port cls n) := by
  unfold State.creditBack
  repeat' (first
    | with_reducible assumption
    | with_reducible apply State.setPort_keeps
    | simp only [State.keeps_mk_iff]
    | split
    | intro)

theorem State.acceptSeq_keeps {s0 : State} {s : State} (port seq typ : Nat) (payload : List Byte) (h : s0.Keeps s) :
    s0.Keeps (State.acceptSeq s port seq typ payload) := by
  unfold State.acceptSeq
  repeat' (first
    | with_reducible assumption
    | with_reducible apply State.setPort_keeps
    | with_reducible apply State.dropPart_keeps
    | with_reducible apply State.freeParts_keeps
    | simp only [State.keeps_mk_iff]
    | split
    | intro)

theorem State.spareLane_keeps {s0 : State} {s : State} (port lane : Nat) (h : s0.Keeps s) :
    s0.Keeps (State.spareLane s port lane) := by
  unfold State.spareLane
  repeat' (first
    | with_reducible assumption
    | with_reducible apply State.setPort_keeps
    | with_reducible apply State.setFld_keeps
    | with_reducible apply State.raise_keeps
    | simp only [State.keeps_mk_iff]
    | split
    | intro)

theorem State.controlFlit_keeps {s0 : State} {s : State} (port : Nat) (payload : List Byte) (h : s0.Keeps s) :
    s0.Keeps (State.controlFlit s port payload) := by
  unfold State.controlFlit
  repeat' (first
    | with_reducible assumption
    | with_reducible apply State.spareLane_keeps
    | simp only [State.keeps_mk_iff]
    | split
    | intro)

theorem State.hostReceive_keeps {s0 : State} {s : State} (port : Nat) (flit : List Byte) (h : s0.Keeps s) :
    s0.Keeps (State.hostReceive s port flit) := by
  unfold State.hostReceive
  repeat' (first
    | with_reducible assumption
    | with_reducible apply State.setPort_keeps
    | with_reducible apply State.resend_keeps
    | with_reducible apply Coll.take_keeps
    | with_reducible apply State.keepsOpt_some
    | with_reducible exact State.keepsOpt_none
    | with_reducible refine State.keepsOpt_map ?_
    | with_reducible apply State.keeps_getD
    | with_reducible refine State.keeps_of_opt (by assumption) ?_
    | simp only [State.keeps_mk_iff]
    | split
    | intro)

theorem execFlitReceive_keeps {s0 : State} (port : Nat) (flit : List Byte) (own others : List Nat) {s : State} (h : s0.Keeps s) :
    s0.KeepsOut (execFlitReceive port flit own others s) := by
  unfold execFlitReceive
  repeat' (first
    | with_reducible assumption
    | with_reducible apply State.keepsOut_next
    | with_reducible apply State.bump_keeps
    | with_reducible apply State.setPort_keeps
    | with_reducible apply State.hostReceive_keeps
    | with_reducible apply State.nakEffect_keeps
    | with_reducible apply State.ackUpTo_keeps
    | with_reducible apply State.creditBack_keeps
    | with_reducible apply State.controlFlit_keeps
    | with_reducible apply State.acceptSeq_keeps
    | with_reducible apply Coll.take_keeps
    | with_reducible apply State.keepsOpt_some
    | with_reducible exact State.keepsOpt_none
    | with_reducible refine State.keepsOpt_map ?_
    | with_reducible apply State.keeps_getD
    | with_reducible refine State.keeps_of_opt (by assumption) ?_
    | simp only [State.keeps_mk_iff]
    | split
    | intro)

theorem execNakReceive_keeps {s0 : State} (port ack : Nat) {s : State} (h : s0.Keeps s) :
    s0.KeepsOut (execNakReceive port ack s) := by
  unfold execNakReceive
  repeat' (first
    | with_reducible assumption
    | with_reducible apply State.keepsOut_next
    | with_reducible apply State.nakEffect_keeps
    | split
    | intro)

theorem execNullFlit_keeps {s0 : State} (port : Nat) {s : State} (h : s0.Keeps s) :
    s0.KeepsOut (execNullFlit port s) := by
  unfold execNullFlit
  repeat' (first
    | with_reducible assumption
    | with_reducible apply State.keepsOut_next
    | with_reducible apply State.emit_keeps
    | split
    | intro)

theorem execVoidedFlit_keeps {s0 : State} (port seq : Nat) {s : State} (h : s0.Keeps s) :
    s0.KeepsOut (execVoidedFlit port seq s) := by
  unfold execVoidedFlit
  repeat' (first
    | with_reducible assumption
    | with_reducible apply State.keepsOut_next
    | with_reducible apply State.acceptSeq_keeps
    | split
    | intro)

theorem State.portEvent_keeps {s0 : State} {s : State} (port num rest : Nat) (h : s0.Keeps s) :
    s0.Keeps (State.portEvent s port num rest) := by
  unfold State.portEvent
  repeat' (first
    | with_reducible assumption
    | with_reducible apply State.raise_keeps
    | intro)

theorem State.portDark_keeps {s0 : State} {s : State} (port cause : Nat) (h : s0.Keeps s) :
    s0.Keeps (State.portDark s port cause) := by
  unfold State.portDark
  repeat' (first
    | with_reducible assumption
    | with_reducible apply State.setFld_keeps
    | with_reducible apply State.bump_keeps
    | with_reducible apply State.portEvent_keeps
    | split
    | intro)

theorem execPortDark_keeps {s0 : State} (port cause : Nat) {s : State} (h : s0.Keeps s) :
    s0.KeepsOut (execPortDark port cause s) := by
  unfold execPortDark
  repeat' (first
    | with_reducible assumption
    | with_reducible apply State.keepsOut_next
    | with_reducible apply State.portDark_keeps
    | intro)

theorem execAckTimeout_keeps {s0 : State} (port : Nat) {s : State} (h : s0.Keeps s) :
    s0.KeepsOut (execAckTimeout port s) := by
  unfold execAckTimeout
  repeat' (first
    | with_reducible assumption
    | with_reducible apply State.keepsOut_next
    | with_reducible apply State.portDark_keeps
    | split
    | intro)

theorem State.control_keeps {s0 : State} {s : State} (port kind : Nat) (fields : List Nat) (h : s0.Keeps s) :
    s0.Keeps (State.control s port kind fields) := by
  unfold State.control
  repeat' (first
    | with_reducible assumption
    | with_reducible apply State.deal_keeps
    | intro)

theorem execLaneSpareRequest_keeps {s0 : State} (port lane : Nat) {s : State} (h : s0.Keeps s) :
    s0.KeepsOut (execLaneSpareRequest port lane s) := by
  unfold execLaneSpareRequest
  repeat' (first
    | with_reducible assumption
    | with_reducible apply State.keepsOut_next
    | with_reducible apply State.control_keeps
    | with_reducible apply State.spareLane_keeps
    | split
    | intro)

theorem execTrainingStart_keeps {s0 : State} (port lanes rtt : Nat) {s : State} (h : s0.Keeps s) :
    s0.KeepsOut (execTrainingStart port lanes rtt s) := by
  unfold execTrainingStart
  repeat' (first
    | with_reducible assumption
    | with_reducible apply State.keepsOut_next
    | with_reducible apply State.setPort_keeps
    | with_reducible apply State.setFld_keeps
    | with_reducible apply Coll.take_keeps
    | with_reducible apply State.keepsOpt_some
    | with_reducible exact State.keepsOpt_none
    | with_reducible refine State.keepsOpt_map ?_
    | with_reducible apply State.keeps_getD
    | with_reducible refine State.keeps_of_opt (by assumption) ?_
    | simp only [State.keeps_mk_iff]
    | split
    | intro)

theorem State.portUp_keeps {s0 : State} {s : State} (port : Nat) (free : List Nat) (h : s0.Keeps s) :
    s0.Keeps (State.portUp s port free) := by
  unfold State.portUp
  repeat' (first
    | with_reducible assumption
    | with_reducible apply State.setPort_keeps
    | with_reducible apply State.setFld_keeps
    | with_reducible apply State.portEvent_keeps
    | with_reducible apply State.resend_keeps
    | simp only [State.keeps_mk_iff]
    | split
    | intro)

theorem execIdentityExchange_keeps {s0 : State} (port : Nat) (peer : Identity) {s : State} (h : s0.Keeps s) :
    s0.KeepsOut (execIdentityExchange port peer s) := by
  unfold execIdentityExchange
  repeat' (first
    | with_reducible assumption
    | with_reducible apply State.keepsOut_next
    | with_reducible apply State.dropPart_keeps
    | with_reducible apply State.control_keeps
    | with_reducible apply State.setFld_keeps
    | with_reducible apply State.portUp_keeps
    | with_reducible apply State.portEvent_keeps
    | dsimp only
    | split
    | intro)

theorem State.setTag_keeps {s0 : State} {s : State} (port idx : Nat) (t : TagEntry) (h : s0.Keeps s) :
    s0.Keeps (State.setTag s port idx t) := by
  unfold State.setTag
  repeat' (first
    | with_reducible assumption
    | with_reducible apply State.setPort_keeps
    | simp only [State.keeps_mk_iff]
    | intro)

theorem State.endTransfer_keeps {s0 : State} {s : State} (port tag : Nat) (h : s0.Keeps s) :
    s0.Keeps (State.endTransfer s port tag) := by
  unfold State.endTransfer
  repeat' (first
    | with_reducible assumption
    | with_reducible apply State.setTag_keeps
    | simp only [State.keeps_mk_iff]
    | intro)

theorem execCompletion_keeps {s0 : State} (port : Nat) (m : Msg) {s : State} (h : s0.Keeps s) :
    s0.KeepsOut (execCompletion port m s) := by
  unfold execCompletion
  repeat' (first
    | with_reducible assumption
    | with_reducible apply State.keepsOut_next
    | with_reducible apply State.leaveMsg_keeps
    | with_reducible apply State.endTransfer_keeps
    | with_reducible apply State.bump_keeps
    | dsimp only
    | split
    | intro)

theorem execTagQuarantineEnd_keeps {s0 : State} (port idx : Nat) {s : State} (h : s0.Keeps s) :
    s0.KeepsOut (execTagQuarantineEnd port idx s) := by
  unfold execTagQuarantineEnd
  repeat' (first
    | with_reducible assumption
    | with_reducible apply State.keepsOut_next
    | with_reducible apply Coll.count_keeps
    | with_reducible apply State.setTag_keeps
    | simp only [State.keeps_mk_iff]
    | split
    | intro)

theorem State.voidQueue_keeps {s0 : State} {s : State} (port queue : Nat) (h : s0.Keeps s) :
    s0.Keeps (State.voidQueue s port queue) := by
  unfold State.voidQueue
  repeat' (first
    | with_reducible assumption
    | with_reducible apply Coll.count_keeps
    | with_reducible apply State.setPort_keeps
    | with_reducible apply State.bump_keeps
    | simp only [State.keeps_mk_iff]
    | split
    | intro)

theorem execPiece_keeps {s0 : State} (port : Nat) (m : Msg) {s : State} (h : s0.Keeps s) :
    s0.KeepsOut (execPiece port m s) := by
  unfold execPiece
  repeat' (first
    | with_reducible assumption
    | with_reducible apply State.keepsOut_next
    | with_reducible apply State.leaveMsg_keeps
    | with_reducible apply State.portEvent_keeps
    | simp only [State.keeps_mk_iff]
    | split
    | intro)

theorem State.refuseStream_keeps {s0 : State} {s : State} (port : Nat) (m : Msg) (h : s0.Keeps s) :
    s0.Keeps (State.refuseStream s port m) := by
  unfold State.refuseStream
  repeat' (first
    | with_reducible assumption
    | with_reducible apply State.portEvent_keeps
    | intro)

theorem State.streamMsg_keeps {s0 : State} {s : State} (port : Nat) (m : Msg) (n : Nat) (act : State → Nat → State) (h : s0.Keeps s) (hact : ∀ s x0, s0.Keeps s → s0.Keeps (act s x0)) :
    s0.Keeps (State.streamMsg s port m n act) := by
  unfold State.streamMsg
  repeat' (first
    | with_reducible assumption
    | with_reducible apply hact
    | with_reducible apply State.leaveMsg_keeps
    | with_reducible apply State.refuseStream_keeps
    | simp only [State.keeps_mk_iff]
    | split
    | intro)

theorem execStreamWrite_keeps {s0 : State} (port : Nat) (m : Msg) {s : State} (h : s0.Keeps s) :
    s0.KeepsOut (execStreamWrite port m s) := by
  unfold execStreamWrite
  repeat' (first
    | with_reducible assumption
    | with_reducible apply State.keepsOut_next
    | with_reducible apply State.streamMsg_keeps
    | with_reducible apply State.memPut_keeps
    | intro)

theorem execStreamCount_keeps {s0 : State} (port : Nat) (m : Msg) {s : State} (h : s0.Keeps s) :
    s0.KeepsOut (execStreamCount port m s) := by
  unfold execStreamCount
  repeat' (first
    | with_reducible assumption
    | with_reducible apply State.keepsOut_next
    | with_reducible apply State.streamMsg_keeps
    | with_reducible apply State.memPut_keeps
    | intro)

theorem execStreamRead_keeps {s0 : State} (port : Nat) (m : Msg) {s : State} (h : s0.Keeps s) :
    s0.KeepsOut (execStreamRead port m s) := by
  unfold execStreamRead
  repeat' (first
    | with_reducible assumption
    | with_reducible apply State.keepsOut_next
    | with_reducible apply State.streamMsg_keeps
    | with_reducible apply State.sendMsg_keeps
    | with_reducible apply State.noteRead_keeps
    | simp only [State.keepsFst_iff]
    | with_reducible refine State.keeps_of_fst (by assumption) ?_
    | with_reducible refine State.keeps_of_fst3 (by assumption) ?_
    | with_reducible apply State.keeps_fst
    | simp only [State.keeps_mk_iff]
    | intro)

theorem State.cascadeEntry_keeps {s0 : State} {s : State} (bytes : List Byte) (coord : Nat) (h : s0.Keeps s) :
    s0.Keeps (State.cascadeEntry s bytes coord) := by
  unfold State.cascadeEntry
  repeat' (first
    | with_reducible assumption
    | with_reducible apply State.memPut_keeps
    | with_reducible apply State.step1_keeps
    | with_reducible apply State.bump_keeps
    | dsimp only
    | split
    | intro)

theorem execEventMessage_keeps {s0 : State} (port : Nat) (m : Msg) {s : State} (h : s0.Keeps s) :
    s0.KeepsOut (execEventMessage port m s) := by
  unfold execEventMessage
  repeat' (first
    | with_reducible assumption
    | with_reducible apply State.keepsOut_next
    | with_reducible apply State.leaveMsg_keeps
    | with_reducible apply State.cascadeEntry_keeps
    | dsimp only
    | split
    | intro)

theorem execTransitForward_keeps {s0 : State} (port : Nat) (m : Msg) {s : State} (h : s0.Keeps s) :
    s0.KeepsOut (execTransitForward port m s) := by
  unfold execTransitForward
  repeat' (first
    | with_reducible assumption
    | with_reducible apply State.keepsOut_next
    | with_reducible apply State.sendVia_keeps
    | simp only [State.keeps_mk_iff]
    | split
    | intro)

theorem execTransitTimeout_keeps {s0 : State} (port : Nat) (m : Msg) {s : State} (h : s0.Keeps s) :
    s0.KeepsOut (execTransitTimeout port m s) := by
  unfold execTransitTimeout
  repeat' (first
    | with_reducible assumption
    | with_reducible apply State.keepsOut_next
    | with_reducible apply State.leaveMsg_keeps
    | with_reducible apply State.setPort_keeps
    | simp only [State.keeps_mk_iff]
    | split
    | intro)

theorem execBar2Read_keeps {s0 : State} (off len : Nat) {s : State} (h : s0.Keeps s) :
    s0.KeepsOut (execBar2Read off len s) := by
  unfold execBar2Read
  repeat' (first
    | with_reducible assumption
    | with_reducible apply State.keepsOut_next
    | with_reducible apply State.accessEvent_keeps
    | with_reducible apply State.noteRead_keeps
    | simp only [State.keepsFst_iff]
    | with_reducible refine State.keeps_of_fst (by assumption) ?_
    | with_reducible refine State.keeps_of_fst3 (by assumption) ?_
    | with_reducible apply State.keeps_fst
    | simp only [State.keeps_mk_iff]
    | split
    | intro)

theorem execBar2Write_keeps {s0 : State} (off : Nat) (data : List (Option Byte)) {s : State} (h : s0.Keeps s) :
    s0.KeepsOut (execBar2Write off data s) := by
  unfold execBar2Write
  repeat' (first
    | with_reducible assumption
    | with_reducible apply State.keepsOut_next
    | with_reducible apply State.accessEvent_keeps
    | with_reducible apply State.memWrite_keeps
    | split
    | intro)

theorem State.loftTouch_keeps {s0 : State} {s : State} (die set way : Nat) (h : s0.Keeps s) :
    s0.Keeps (State.loftTouch s die set way) := by
  unfold State.loftTouch
  repeat' (first
    | with_reducible assumption
    | simp only [State.keeps_mk_iff]
    | intro)

theorem State.loftAlloc_keeps {s0 : State} {s : State} (die a : Nat) (h : s0.Keeps s) :
    s0.KeepsSnd (State.loftAlloc s die a) := by
  unfold State.loftAlloc
  repeat' (first
    | with_reducible assumption
    | simp only [State.keepsSnd_iff]
    | simp only [State.keeps_mk_iff]
    | split
    | intro)

theorem State.loftPut_keeps {s0 : State} {s : State} (die : Nat) (l : LoftLine) (h : s0.Keeps s) :
    s0.Keeps (State.loftPut s die l) := by
  unfold State.loftPut
  repeat' (first
    | with_reducible assumption
    | simp only [State.keeps_mk_iff]
    | split
    | intro)

theorem State.loftSector_keeps {s0 : State} {s : State} (die line k : Nat) (h : s0.Keeps s) :
    s0.KeepsFst (State.loftSector s die line k) := by
  unfold State.loftSector
  repeat' (first
    | with_reducible assumption
    | with_reducible apply State.loftTouch_keeps
    | with_reducible apply State.bump_keeps
    | with_reducible apply State.loftPut_keeps
    | with_reducible apply State.noteRead_keeps
    | with_reducible apply State.loftAlloc_keeps
    | simp only [State.keepsFst_iff]
    | simp only [State.keepsSnd_iff]
    | with_reducible refine State.keeps_of_fst (by assumption) ?_
    | with_reducible refine State.keeps_of_fst3 (by assumption) ?_
    | with_reducible apply State.keeps_fst
    | with_reducible refine State.keeps_of_snd (by assumption) ?_
    | with_reducible apply State.keeps_snd
    | simp only [State.keeps_mk_iff]
    | split
    | intro)

theorem execLoftRead_keeps {s0 : State} (die addr sectors corrected : Nat) (bad : Option Nat) {s : State} (h : s0.Keeps s) :
    s0.KeepsOut (execLoftRead die addr sectors corrected bad s) := by
  unfold execLoftRead
  repeat' (first
    | with_reducible assumption
    | with_reducible apply State.keepsOut_next
    | with_reducible apply State.bump_keeps
    | with_reducible apply State.raise_keeps
    | with_reducible apply State.loftSector_keeps
    | with_reducible refine State.keeps_foldl ?_ ?_
    | with_reducible refine State.keeps_foldl_fst ?_ ?_
    | simp only [State.keepsFst_iff]
    | with_reducible refine State.keeps_of_fst (by assumption) ?_
    | with_reducible refine State.keeps_of_fst3 (by assumption) ?_
    | with_reducible apply State.keeps_fst
    | simp only [State.keeps_mk_iff]
    | split
    | intro)

theorem State.loftInvalidate_keeps {s0 : State} {s : State} (h : s0.Keeps s) :
    s0.Keeps (State.loftInvalidate s) := by
  unfold State.loftInvalidate
  repeat' (first
    | with_reducible assumption
    | simp only [State.keeps_mk_iff]
    | intro)

theorem State.unitWrite_keeps {s0 : State} {s : State} (src : Source) (a : Nat) (data : List (Option Byte)) (h : s0.Keeps s) :
    s0.Keeps (State.unitWrite s src a data) := by
  unfold State.unitWrite
  repeat' (first
    | with_reducible assumption
    | with_reducible apply State.memWrite_keeps
    | with_reducible apply State.loftUpdate_keeps
    | dsimp only
    | split
    | intro)

theorem execUnderlayWrite_keeps {s0 : State} (src : Source) (addr : Nat) (data : List (Option Byte)) {s : State} (h : s0.Keeps s) :
    s0.KeepsOut (execUnderlayWrite src addr data s) := by
  unfold execUnderlayWrite
  repeat' (first
    | with_reducible assumption
    | with_reducible apply State.keepsOut_next
    | with_reducible apply State.unitWrite_keeps
    | split
    | intro)

theorem execUnderlayDrain_keeps {s0 : State} (stack channel waited : Nat) {s : State} (h : s0.Keeps s) :
    s0.KeepsOut (execUnderlayDrain stack channel waited s) := by
  unfold execUnderlayDrain
  repeat' (first
    | with_reducible assumption
    | with_reducible apply State.keepsOut_next
    | with_reducible apply State.drainEntry_keeps
    | with_reducible apply Coll.take_keeps
    | with_reducible refine State.keeps_foldl ?_ ?_
    | with_reducible apply State.keepsOpt_some
    | with_reducible exact State.keepsOpt_none
    | with_reducible refine State.keepsOpt_map ?_
    | with_reducible apply State.keeps_getD
    | with_reducible refine State.keeps_of_opt (by assumption) ?_
    | dsimp only
    | split
    | intro)

theorem State.drainStack_keeps {s0 : State} {s : State} (stack : Nat) (h : s0.Keeps s) :
    s0.Keeps (State.drainStack s stack) := by
  unfold State.drainStack
  repeat' (first
    | with_reducible assumption
    | with_reducible apply State.drainEntry_keeps
    | with_reducible refine State.keeps_foldl ?_ ?_
    | intro)

theorem State.drainAll_keeps {s0 : State} {s : State} (h : s0.Keeps s) :
    s0.Keeps (State.drainAll s) := by
  unfold State.drainAll
  repeat' (first
    | with_reducible assumption
    | with_reducible apply State.drainEntry_keeps
    | with_reducible refine State.keeps_foldl ?_ ?_
    | intro)

theorem State.correctedSector_keeps {s0 : State} {s : State} (a : Nat) (h : s0.Keeps s) :
    s0.Keeps (State.correctedSector s a) := by
  unfold State.correctedSector
  repeat' (first
    | with_reducible assumption
    | with_reducible apply State.bump_keeps
    | with_reducible apply State.noteErr_keeps
    | with_reducible apply State.pendPage_keeps
    | simp only [State.keeps_mk_iff]
    | split
    | intro)

theorem execStackRead_keeps {s0 : State} (src : Source) (addr : Nat) (ecc : Ecc) {s : State} (h : s0.Keeps s) :
    s0.KeepsOut (execStackRead src addr ecc s) := by
  unfold execStackRead
  repeat' (first
    | with_reducible assumption
    | with_reducible apply State.keepsOut_next
    | with_reducible apply State.correctedSector_keeps
    | with_reducible apply State.uncorrectable_keeps
    | with_reducible apply State.setPoison_keeps
    | with_reducible apply State.noteRead_keeps
    | simp only [State.keepsFst_iff]
    | with_reducible refine State.keeps_of_fst (by assumption) ?_
    | with_reducible refine State.keeps_of_fst3 (by assumption) ?_
    | with_reducible apply State.keeps_fst
    | simp only [State.keeps_mk_iff]
    | split
    | intro)

theorem execRefresh_keeps {s0 : State} (_stack : Nat) {s : State} (h : s0.Keeps s) :
    s0.KeepsOut (execRefresh _stack s) := by
  unfold execRefresh
  repeat' (first
    | with_reducible assumption
    | with_reducible apply State.keepsOut_next
    | intro)

theorem execRefreshRateChange_keeps {s0 : State} (stack degC : Nat) {s : State} (h : s0.Keeps s) :
    s0.KeepsOut (execRefreshRateChange stack degC s) := by
  unfold execRefreshRateChange
  repeat' (first
    | with_reducible assumption
    | with_reducible apply State.keepsOut_next
    | with_reducible apply State.setFld_keeps
    | with_reducible apply State.raise_keeps
    | dsimp only
    | split
    | intro)

theorem State.writeCode_keeps {s0 : State} {s : State} (p : Path) (off : Nat) (value hwSet : Nat) (added : List Nat) (h : s0.Keeps s) :
    s0.Keeps (State.writeCode s p off value hwSet added) := by
  unfold State.writeCode
  repeat' (first
    | with_reducible assumption
    | with_reducible apply State.setReg_keeps
    | with_reducible apply State.accessEvent_keeps
    | simp only [State.keeps_mk_iff]
    | split
    | intro)

theorem execCounterFieldWrite_keeps {s0 : State} (p : Path) (off : Nat) (value : Word) (added : List Nat) {s : State} (h : s0.Keeps s) :
    s0.KeepsOut (execCounterFieldWrite p off value added s) := by
  unfold execCounterFieldWrite
  repeat' (first
    | with_reducible assumption
    | with_reducible apply State.keepsOut_next
    | with_reducible apply State.access_keeps
    | with_reducible apply State.writeCode_keeps
    | intro)

theorem execW1cClear_keeps {s0 : State} (p : Path) (off : Nat) (value hwSet : Word) {s : State} (h : s0.Keeps s) :
    s0.KeepsOut (execW1cClear p off value hwSet s) := by
  unfold execW1cClear
  repeat' (first
    | with_reducible assumption
    | with_reducible apply State.keepsOut_next
    | with_reducible apply State.access_keeps
    | with_reducible apply State.writeCode_keeps
    | intro)

theorem execClockSpreadWrite_keeps {s0 : State} (p : Path) (value : Word) {s : State} (h : s0.Keeps s) :
    s0.KeepsOut (execClockSpreadWrite p value s) := by
  unfold execClockSpreadWrite
  repeat' (first
    | with_reducible assumption
    | with_reducible apply State.keepsOut_next
    | with_reducible apply State.access_keeps
    | with_reducible apply State.writeCode_keeps
    | intro)

theorem State.writeAperture_keeps {s0 : State} {s : State} (p : Path) (value : Nat) (h : s0.Keeps s) :
    s0.Keeps (State.writeAperture s p value) := by
  unfold State.writeAperture
  repeat' (first
    | with_reducible assumption
    | with_reducible apply State.setFld_keeps
    | with_reducible apply State.accessEvent_keeps
    | split
    | intro)

theorem execApertureWrite_keeps {s0 : State} (p : Path) (value : Word) {s : State} (h : s0.Keeps s) :
    s0.KeepsOut (execApertureWrite p value s) := by
  unfold execApertureWrite
  repeat' (first
    | with_reducible assumption
    | with_reducible apply State.keepsOut_next
    | with_reducible apply State.access_keeps
    | with_reducible apply State.writeAperture_keeps
    | intro)

theorem execPegCountWrite_keeps {s0 : State} (p : Path) (peg : Nat) (value : Word) (ligger : Option PegMsg) {s : State} (h : s0.Keeps s) :
    s0.KeepsOut (execPegCountWrite p peg value ligger s) := by
  unfold execPegCountWrite
  repeat' (first
    | with_reducible assumption
    | with_reducible apply State.keepsOut_next
    | with_reducible apply State.sendPeg_keeps
    | with_reducible apply State.access_keeps
    | with_reducible apply State.setPeg_keeps
    | simp only [State.keeps_mk_iff]
    | split
    | intro)

theorem State.writeRing_keeps {s0 : State} {s : State} (p : Path) (off value : Nat) (enabled isSize : Bool) (h : s0.Keeps s) :
    s0.Keeps (State.writeRing s p off value enabled isSize) := by
  unfold State.writeRing
  repeat' (first
    | with_reducible assumption
    | with_reducible apply State.accessEvent_keeps
    | with_reducible apply State.writeCode_keeps
    | split
    | intro)

theorem State.writeRead_keeps {s0 : State} {s : State} (p : Path) (read write size : Field) (value : Nat) (h : s0.Keeps s) :
    s0.Keeps (State.writeRead s p read write size value) := by
  unfold State.writeRead
  repeat' (first
    | with_reducible assumption
    | with_reducible apply State.setFld_keeps
    | with_reducible apply State.accessEvent_keeps
    | split
    | intro)

theorem State.writeEnable_keeps {s0 : State} {s : State} (en write read : Field) (on : Bool) (h : s0.Keeps s) :
    s0.Keeps (State.writeEnable s en write read on) := by
  unfold State.writeEnable
  repeat' (first
    | with_reducible assumption
    | with_reducible apply State.setFld_keeps
    | with_reducible apply State.setFlag_keeps
    | split
    | intro)

theorem State.writeEvtCtl_keeps {s0 : State} {s : State} (en cen : Bool) (h : s0.Keeps s) :
    s0.Keeps (State.writeEvtCtl s en cen) := by
  unfold State.writeEvtCtl
  repeat' (first
    | with_reducible assumption
    | with_reducible apply State.writeEnable_keeps
    | intro)

theorem execEvtReadWrite_keeps {s0 : State} (p : Path) (value : Word) {s : State} (h : s0.Keeps s) :
    s0.KeepsOut (execEvtReadWrite p value s) := by
  unfold execEvtReadWrite
  repeat' (first
    | with_reducible assumption
    | with_reducible apply State.keepsOut_next
    | with_reducible apply State.access_keeps
    | with_reducible apply State.writeRead_keeps
    | intro)

theorem execEvtCreadWrite_keeps {s0 : State} (p : Path) (value : Word) {s : State} (h : s0.Keeps s) :
    s0.KeepsOut (execEvtCreadWrite p value s) := by
  unfold execEvtCreadWrite
  repeat' (first
    | with_reducible assumption
    | with_reducible apply State.keepsOut_next
    | with_reducible apply State.access_keeps
    | with_reducible apply State.writeRead_keeps
    | intro)

theorem execEvtRingEnable_keeps {s0 : State} (p : Path) (cen : Bool) {s : State} (h : s0.Keeps s) :
    s0.KeepsOut (execEvtRingEnable p cen s) := by
  unfold execEvtRingEnable
  repeat' (first
    | with_reducible assumption
    | with_reducible apply State.keepsOut_next
    | with_reducible apply State.access_keeps
    | with_reducible apply State.writeEvtCtl_keeps
    | intro)

theorem execEvtRingDisable_keeps {s0 : State} (p : Path) (cen : Bool) {s : State} (h : s0.Keeps s) :
    s0.KeepsOut (execEvtRingDisable p cen s) := by
  unfold execEvtRingDisable
  repeat' (first
    | with_reducible assumption
    | with_reducible apply State.keepsOut_next
    | with_reducible apply State.access_keeps
    | with_reducible apply State.writeEvtCtl_keeps
    | intro)

theorem execEvtCascadeEnable_keeps {s0 : State} (p : Path) (en : Bool) {s : State} (h : s0.Keeps s) :
    s0.KeepsOut (execEvtCascadeEnable p en s) := by
  unfold execEvtCascadeEnable
  repeat' (first
    | with_reducible assumption
    | with_reducible apply State.keepsOut_next
    | with_reducible apply State.access_keeps
    | with_reducible apply State.writeEvtCtl_keeps
    | intro)

theorem execEvtCascadeDisable_keeps {s0 : State} (p : Path) (en : Bool) {s : State} (h : s0.Keeps s) :
    s0.KeepsOut (execEvtCascadeDisable p en s) := by
  unfold execEvtCascadeDisable
  repeat' (first
    | with_reducible assumption
    | with_reducible apply State.keepsOut_next
    | with_reducible apply State.access_keeps
    | with_reducible apply State.writeEvtCtl_keeps
    | intro)

theorem State.putCommit_keeps {s0 : State} {s : State} (blk : Nat) (words : List (Nat × Word)) (h : s0.Keeps s) :
    s0.Keeps (State.putCommit s blk words) := by
  unfold State.putCommit
  repeat' (first
    | with_reducible assumption
    | simp only [State.keeps_mk_iff]
    | intro)

theorem State.writeShadow_keeps {s0 : State} {s : State} (p : Path) (off value : Nat) (h : s0.Keeps s) :
    s0.Keeps (State.writeShadow s p off value) := by
  unfold State.writeShadow
  repeat' (first
    | with_reducible assumption
    | with_reducible apply State.writeCode_keeps
    | with_reducible apply State.accessEvent_keeps
    | split
    | intro)

theorem State.writeVlyCommit_keeps {s0 : State} {s : State} (p : Path) (blk : Nat) (h : s0.Keeps s) :
    s0.Keeps (State.writeVlyCommit s p blk) := by
  unfold State.writeVlyCommit
  repeat' (first
    | with_reducible assumption
    | with_reducible apply State.accessEvent_keeps
    | with_reducible apply State.putCommit_keeps
    | dsimp only
    | split
    | intro)

theorem State.writeUndGroup_keeps {s0 : State} {s : State} (p : Path) (die value : Nat) (h : s0.Keeps s) :
    s0.Keeps (State.writeUndGroup s p die value) := by
  unfold State.writeUndGroup
  repeat' (first
    | with_reducible assumption
    | with_reducible apply State.accessEvent_keeps
    | with_reducible apply State.writeCode_keeps
    | dsimp only
    | split
    | intro)

theorem State.writeUndCommit_keeps {s0 : State} {s : State} (p : Path) (die : Nat) (h : s0.Keeps s) :
    s0.Keeps (State.writeUndCommit s p die) := by
  unfold State.writeUndCommit
  repeat' (first
    | with_reducible assumption
    | with_reducible apply State.accessEvent_keeps
    | with_reducible apply State.putCommit_keeps
    | dsimp only
    | split
    | intro)

theorem execVlyShadowWrite_keeps {s0 : State} (p : Path) (off : Nat) (value : Word) {s : State} (h : s0.Keeps s) :
    s0.KeepsOut (execVlyShadowWrite p off value s) := by
  unfold execVlyShadowWrite
  repeat' (first
    | with_reducible assumption
    | with_reducible apply State.keepsOut_next
    | with_reducible apply State.access_keeps
    | with_reducible apply State.writeShadow_keeps
    | intro)

theorem execVlyCommit_keeps {s0 : State} (p : Path) (blk : Nat) (same : Option (Nat × Word)) {s : State} (h : s0.Keeps s) :
    s0.KeepsOut (execVlyCommit p blk same s) := by
  unfold execVlyCommit
  repeat' (first
    | with_reducible assumption
    | with_reducible apply State.keepsOut_next
    | with_reducible apply State.access_keeps
    | with_reducible apply State.writeVlyCommit_keeps
    | with_reducible apply State.writeShadow_keeps
    | simp only [State.keeps_mk_iff]
    | split
    | intro)

theorem execUndGroupWrite_keeps {s0 : State} (p : Path) (die : Nat) (value : Word) {s : State} (h : s0.Keeps s) :
    s0.KeepsOut (execUndGroupWrite p die value s) := by
  unfold execUndGroupWrite
  repeat' (first
    | with_reducible assumption
    | with_reducible apply State.keepsOut_next
    | with_reducible apply State.access_keeps
    | with_reducible apply State.writeUndGroup_keeps
    | intro)

theorem execUndCommit_keeps {s0 : State} (p : Path) (die : Nat) (same : Option Word) {s : State} (h : s0.Keeps s) :
    s0.KeepsOut (execUndCommit p die same s) := by
  unfold execUndCommit
  repeat' (first
    | with_reducible assumption
    | with_reducible apply State.keepsOut_next
    | with_reducible apply State.access_keeps
    | with_reducible apply State.writeUndCommit_keeps
    | with_reducible apply State.writeUndGroup_keeps
    | simp only [State.keeps_mk_iff]
    | split
    | intro)

end Sys2Proof.Machine
end

