-- ==== Sys2Proof/Laws/KeepTasks.lean ====
section
/-! SUPPORT. What the operations and commands of faults and tasks keep: one law each (Laws/Keeps.lean). -/

namespace Sys2Proof.Machine

theorem State.noteRuns_keeps {s0 : State} {s : State} (src : Source) (runs : List Span) (h : s0.Keeps s) :
    s0.KeepsFst (State.noteRuns s src runs) := by
  unfold State.noteRuns
  repeat' (first
    | with_reducible assumption
    | with_reducible apply State.noteRead_keeps
    | with_reducible refine State.keeps_foldl ?_ ?_
    | with_reducible refine State.keeps_foldl_fst ?_ ?_
    | simp only [State.keepsFst_iff]
    | with_reducible refine State.keeps_of_fst (by assumption) ?_
    | with_reducible refine State.keeps_of_fst3 (by assumption) ?_
    | with_reducible apply State.keeps_fst
    | dsimp only
    | split
    | intro)

theorem State.addCnt_keeps {s0 : State} {s : State} (b : PBay) (c : Cnt) (h : s0.Keeps s) :
    s0.Keeps (State.addCnt s b c) := by
  unfold State.addCnt
  repeat' (first
    | with_reducible assumption
    | with_reducible apply State.bump_keeps
    | dsimp only
    | intro)

theorem State.addFlags_keeps {s0 : State} {s : State} (b : PBay) (flags : Nat) (h : s0.Keeps s) :
    s0.Keeps (State.addFlags s b flags) := by
  unfold State.addFlags
  repeat' (first
    | with_reducible assumption
    | with_reducible apply State.setReg_keeps
    | dsimp only
    | intro)

theorem State.writeStatus_keeps {s0 : State} {s : State} (b : PBay) (t : Task) (flags cycles : Nat) (h : s0.Keeps s) :
    s0.Keeps (State.writeStatus s b t flags cycles) := by
  unfold State.writeStatus
  repeat' (first
    | with_reducible assumption
    | with_reducible apply State.unitWrite_keeps
    | split
    | intro)

theorem State.signal_keeps {s0 : State} {s : State} (b : PBay) (t : Task) (h : s0.Keeps s) :
    s0.Keeps (State.signal s b t) := by
  unfold State.signal
  repeat' (first
    | with_reducible assumption
    | with_reducible apply State.sendPeg_keeps
    | split
    | intro)

theorem State.checkCycles_keeps {s0 : State} {s : State} (h : s0.Keeps s) :
    s0.KeepsSnd (State.checkCycles s) := by
  unfold State.checkCycles
  repeat' (first
    | with_reducible assumption
    | with_reducible apply State.takeFree_keeps
    | simp only [State.keepsSnd_iff]
    | with_reducible refine State.keeps_of_snd (by assumption) ?_
    | with_reducible apply State.keeps_snd
    | dsimp only
    | split
    | intro)

theorem State.lathCycle_keeps {s0 : State} {s : State} (b : PBay) (q : LathAsks) (gutters : List Nat) (h : s0.Keeps s) :
    s0.Keeps (State.lathCycle s b q gutters) := by
  unfold State.lathCycle
  repeat' (first
    | with_reducible assumption
    | with_reducible apply State.setBay_keeps
    | with_reducible apply State.bump_keeps
    | simp only [State.keeps_mk_iff]
    | split
    | intro)

theorem State.freshen_keeps {s0 : State} {s : State} (w : OutWrite) (h : s0.Keeps s) :
    s0.Keeps (State.freshen s w) := by
  unfold State.freshen
  repeat' (first
    | with_reducible assumption
    | with_reducible apply State.setBay_keeps
    | simp only [State.keeps_mk_iff]
    | split
    | intro)

theorem State.emitOut_keeps {s0 : State} {s : State} (w : OutWrite) (h : s0.Keeps s) :
    s0.Keeps (State.emitOut s w) := by
  unfold State.emitOut
  repeat' (first
    | with_reducible assumption
    | with_reducible apply State.unitWrite_keeps
    | with_reducible apply State.lathWrite_keeps
    | with_reducible apply State.freshen_keeps
    | simp only [State.keeps_mk_iff]
    | split
    | intro)

theorem State.writeEntry_keeps {s0 : State} {s : State} (b : PBay) (half column : Nat) (k : Nat × Nat) (h : s0.Keeps s) :
    s0.Keeps (State.writeEntry s b half column k) := by
  unfold State.writeEntry
  repeat' (first
    | with_reducible assumption
    | with_reducible apply State.setBay_keeps
    | with_reducible apply State.emitOut_keeps
    | with_reducible refine State.keeps_foldl ?_ ?_
    | simp only [State.keeps_mk_iff]
    | split
    | intro)

theorem State.countFreeze_keeps {s0 : State} {s : State} (b : PBay) (f : Freeze) (h : s0.Keeps s) :
    s0.Keeps (State.countFreeze s b f) := by
  unfold State.countFreeze
  repeat' (first
    | with_reducible assumption
    | with_reducible apply State.bump_keeps
    | with_reducible apply State.setFld_keeps
    | with_reducible apply State.setFlag_keeps
    | simp only [State.keeps_mk_iff]
    | split
    | intro)

theorem State.trussWord_keeps {s0 : State} {s : State} (b : PBay) (h : s0.Keeps s) :
    s0.Keeps (State.trussWord s b) := by
  unfold State.trussWord
  repeat' (first
    | with_reducible assumption
    | with_reducible apply State.setFlag_keeps
    | with_reducible apply State.setFld_keeps
    | dsimp only
    | intro)

theorem State.arrayCycle_keeps {s0 : State} {s : State} (b : PBay) (port : GutterPort) (asks : LathAsks) (h : s0.Keeps s) :
    s0.Keeps (State.arrayCycle s b port asks) := by
  unfold State.arrayCycle
  repeat' (first
    | with_reducible assumption
    | with_reducible apply State.lathCycle_keeps
    | with_reducible apply State.bump_keeps
    | with_reducible apply State.countFreeze_keeps
    | with_reducible apply Coll.keep_keeps
    | with_reducible apply State.setBay_keeps
    | with_reducible apply State.writeEntry_keeps
    | with_reducible apply State.trussWord_keeps
    | with_reducible refine State.keeps_foldl ?_ ?_
    | simp only [State.keeps_mk_iff]
    | intro)

theorem State.arrayTick_keeps {s0 : State} {s : State} (b : PBay) (h : s0.Keeps s) :
    s0.Keeps (State.arrayTick s b) := by
  unfold State.arrayTick
  repeat' (first
    | with_reducible assumption
    | with_reducible apply State.arrayCycle_keeps
    | intro)

theorem State.arrayRun_keeps {s0 : State} (b : PBay) (stop : Truss → Bool) (fuel : Nat) {s : State}
    (h : s0.Keeps s) : s0.Keeps (State.arrayRun s b stop fuel) := by
  induction fuel generalizing s with
  | zero => exact h
  | succ n ih =>
    rw [State.arrayRun]
    split
    · exact h
    · exact ih (State.arrayTick_keeps _ h)

theorem State.emptyHalf_keeps {s0 : State} {s : State} (b : PBay) (half : Nat) (h : s0.Keeps s) :
    s0.Keeps (State.emptyHalf s b half) := by
  unfold State.emptyHalf
  repeat' (first
    | with_reducible assumption
    | with_reducible apply State.setBay_keeps
    | with_reducible apply State.trussWord_keeps
    | simp only [State.keeps_mk_iff]
    | intro)

theorem State.drainHalf_keeps {s0 : State} {s : State} (b : PBay) (half : Nat) (h : s0.Keeps s) :
    s0.Keeps (State.drainHalf s b half) := by
  unfold State.drainHalf
  repeat' (first
    | with_reducible assumption
    | with_reducible apply State.arrayRun_keeps
    | dsimp only
    | intro)

theorem execGutterWrite_keeps {s0 : State} (b : PBay) (port : GutterPort) (asks : LathAsks) {s : State} (h : s0.Keeps s) :
    s0.KeepsOut (execGutterWrite b port asks s) := by
  unfold execGutterWrite
  repeat' (first
    | with_reducible assumption
    | with_reducible apply State.keepsOut_next
    | with_reducible apply State.arrayCycle_keeps
    | split
    | intro)

theorem State.occupy_keeps {s0 : State} {s : State} (b : PBay) (ctx : Option Nat) (h : s0.Keeps s) :
    s0.Keeps (State.occupy s b ctx) := by
  unfold State.occupy
  repeat' (first
    | with_reducible assumption
    | with_reducible apply State.setFld_keeps
    | simp only [State.keeps_mk_iff]
    | split
    | intro)

theorem State.putBack_keeps {s0 : State} {s : State} (ts : List Task) (h : s0.Keeps s) :
    s0.Keeps (State.putBack s ts) := by
  unfold State.putBack
  repeat' (first
    | with_reducible assumption
    | with_reducible apply State.setQueue_keeps
    | with_reducible refine State.keeps_foldl ?_ ?_
    | simp only [State.keeps_mk_iff]
    | intro)

theorem State.unselect_keeps {s0 : State} {s : State} (b : PBay) (p : Task → Bool) (h : s0.Keeps s) :
    s0.KeepsSnd (State.unselect s b p) := by
  unfold State.unselect
  repeat' (first
    | with_reducible assumption
    | with_reducible apply State.setBay_keeps
    | with_reducible refine State.keeps_foldl ?_ ?_
    | simp only [State.keepsSnd_iff]
    | simp only [State.keeps_mk_iff]
    | split
    | intro)

theorem State.bayReset_keeps {s0 : State} {s : State} (b : PBay) (h : s0.Keeps s) :
    s0.Keeps (State.bayReset s b) := by
  unfold State.bayReset
  repeat' (first
    | with_reducible assumption
    | with_reducible apply State.resetRegs_keeps
    | with_reducible apply State.lathClear_keeps
    | with_reducible apply State.setBay_keeps
    | with_reducible apply State.unselect_keeps
    | simp only [State.keepsSnd_iff]
    | with_reducible refine State.keeps_of_snd (by assumption) ?_
    | with_reducible apply State.keeps_snd
    | simp only [State.keeps_mk_iff]
    | intro)

theorem State.releaseSelected_keeps {s0 : State} {s : State} (b : PBay) (h : s0.Keeps s) :
    s0.Keeps (State.releaseSelected s b) := by
  unfold State.releaseSelected
  repeat' (first
    | with_reducible assumption
    | with_reducible apply State.putBack_keeps
    | with_reducible apply State.unselect_keeps
    | simp only [State.keepsSnd_iff]
    | with_reducible refine State.keeps_of_snd (by assumption) ?_
    | with_reducible apply State.keeps_snd
    | dsimp only
    | split
    | intro)

theorem State.abortTask_keeps {s0 : State} {s : State} (b : PBay) (r : Running) (cause : Nat) (h : s0.Keeps s) :
    s0.Keeps (State.abortTask s b r cause) := by
  unfold State.abortTask
  repeat' (first
    | with_reducible assumption
    | with_reducible apply State.emptyHalf_keeps
    | with_reducible apply State.setBay_keeps
    | with_reducible apply State.voidQueue_keeps
    | with_reducible apply State.putBack_keeps
    | with_reducible apply State.unselect_keeps
    | with_reducible refine State.keeps_foldl ?_ ?_
    | simp only [State.keepsSnd_iff]
    | with_reducible refine State.keeps_of_snd (by assumption) ?_
    | with_reducible apply State.keeps_snd
    | simp only [State.keeps_mk_iff]
    | split
    | intro)

theorem State.recordFault_keeps {s0 : State} {s : State} (b : PBay) (cause : Nat) (h : s0.Keeps s) :
    s0.Keeps (State.recordFault s b cause) := by
  unfold State.recordFault
  repeat' (first
    | with_reducible assumption
    | with_reducible apply State.setFld_keeps
    | with_reducible apply Coll.count_keeps
    | dsimp only
    | intro)

theorem State.loseSave_keeps {s0 : State} {s : State} (b : PBay) (l : Nat) (h : s0.Keeps s) :
    s0.Keeps (State.loseSave s b l) := by
  unfold State.loseSave
  repeat' (first
    | with_reducible assumption
    | simp only [State.keeps_mk_iff]
    | split
    | intro)

theorem State.spareFault_keeps {s0 : State} {s : State} (b : PBay) (h : s0.Keeps s) :
    s0.Keeps (State.spareFault s b) := by
  unfold State.spareFault
  repeat' (first
    | with_reducible assumption
    | simp only [State.keeps_mk_iff]
    | split
    | intro)

theorem State.callSpare_keeps {s0 : State} {s : State} (b : PBay) (l cause : Nat) (h : s0.Keeps s) :
    s0.Keeps (State.callSpare s b l cause) := by
  unfold State.callSpare
  repeat' (first
    | with_reducible assumption
    | simp only [State.keeps_mk_iff]
    | split
    | intro)

theorem State.leaveBay_keeps {s0 : State} {s : State} (b : PBay) (l cause : Nat) (h : s0.Keeps s) :
    s0.Keeps (State.leaveBay s b l cause) := by
  unfold State.leaveBay
  repeat' (first
    | with_reducible assumption
    | with_reducible apply State.loseSave_keeps
    | with_reducible apply State.setBay_keeps
    | with_reducible apply State.releaseSelected_keeps
    | simp only [State.keeps_mk_iff]
    | split
    | intro)

theorem State.bayFault_keeps {s0 : State} {s : State} (b : PBay) (cause : Nat) (h : s0.Keeps s) :
    s0.Keeps (State.bayFault s b cause) := by
  unfold State.bayFault
  repeat' (first
    | with_reducible assumption
    | with_reducible apply State.recordFault_keeps
    | with_reducible apply State.setBay_keeps
    | with_reducible apply State.spareFault_keeps
    | with_reducible apply State.leaveBay_keeps
    | with_reducible apply State.callSpare_keeps
    | simp only [State.keeps_mk_iff]
    | split
    | intro)

theorem State.faultWithTasks_keeps {s0 : State} {s : State} (b : PBay) (cause : Nat) (h : s0.Keeps s) :
    s0.Keeps (State.faultWithTasks s b cause) := by
  unfold State.faultWithTasks
  repeat' (first
    | with_reducible assumption
    | with_reducible apply State.abortTask_keeps
    | with_reducible apply State.bayFault_keeps
    | with_reducible refine State.keeps_foldl ?_ ?_
    | dsimp only
    | intro)

theorem State.prepareLath_keeps {s0 : State} {s : State} (spare : PBay) (l : Nat) (occ : Option Context) (h : s0.Keeps s) :
    s0.Keeps (State.prepareLath s spare l occ) := by
  unfold State.prepareLath
  repeat' (first
    | with_reducible assumption
    | with_reducible apply State.lathClear_keeps
    | with_reducible apply State.lathWrite_keeps
    | with_reducible apply State.setBay_keeps
    | with_reducible apply State.noteRead_keeps
    | simp only [State.keepsFst_iff]
    | with_reducible refine State.keeps_of_fst (by assumption) ?_
    | with_reducible refine State.keeps_of_fst3 (by assumption) ?_
    | with_reducible apply State.keeps_fst
    | simp only [State.keeps_mk_iff]
    | split
    | intro)

theorem execSparePrepared_keeps {s0 : State} (die : Nat) {s : State} (h : s0.Keeps s) :
    s0.KeepsOut (execSparePrepared die s) := by
  unfold execSparePrepared
  repeat' (first
    | with_reducible assumption
    | with_reducible apply State.keepsOut_next
    | with_reducible apply State.prepareLath_keeps
    | with_reducible apply State.raise_keeps
    | simp only [State.keeps_mk_iff]
    | split
    | intro)

theorem State.mapBay_keeps {s0 : State} {s : State} (die l p : Nat) (h : s0.Keeps s) :
    s0.Keeps (State.mapBay s die l p) := by
  unfold State.mapBay
  repeat' (first
    | with_reducible assumption
    | with_reducible apply State.setFld_keeps
    | intro)

theorem State.retireBay_keeps {s0 : State} {s : State} (b : PBay) (h : s0.Keeps s) :
    s0.Keeps (State.retireBay s b) := by
  unfold State.retireBay
  repeat' (first
    | with_reducible assumption
    | with_reducible apply State.setFld_keeps
    | intro)

theorem State.rerunTask_keeps {s0 : State} {s : State} (b : PBay) (x : Abort) (h : s0.Keeps s) :
    s0.Keeps (State.rerunTask s b x) := by
  unfold State.rerunTask
  repeat' (first
    | with_reducible assumption
    | with_reducible apply State.writeStatus_keeps
    | with_reducible apply State.raise_keeps
    | with_reducible apply State.putBack_keeps
    | with_reducible apply State.takeFree_keeps
    | simp only [State.keepsSnd_iff]
    | with_reducible refine State.keeps_of_snd (by assumption) ?_
    | with_reducible apply State.keeps_snd
    | dsimp only
    | split
    | intro)

theorem State.rerunAll_keeps {s0 : State} {s : State} (b now : PBay) (h : s0.Keeps s) :
    s0.Keeps (State.rerunAll s b now) := by
  unfold State.rerunAll
  repeat' (first
    | with_reducible assumption
    | with_reducible apply State.setBay_keeps
    | with_reducible apply State.rerunTask_keeps
    | with_reducible refine State.keeps_foldl ?_ ?_
    | simp only [State.keeps_mk_iff]
    | intro)

theorem State.closeBay_keeps {s0 : State} {s : State} (b : PBay) (h : s0.Keeps s) :
    s0.Keeps (State.closeBay s b) := by
  unfold State.closeBay
  repeat' (first
    | with_reducible assumption
    | with_reducible apply State.bayReset_keeps
    | with_reducible apply State.setBay_keeps
    | simp only [State.keeps_mk_iff]
    | intro)

theorem State.isolate_keeps {s0 : State} {s : State} (die l p cause : Nat) (h : s0.Keeps s) :
    s0.Keeps (State.isolate s die l p cause) := by
  unfold State.isolate
  repeat' (first
    | with_reducible assumption
    | with_reducible apply State.mapBay_keeps
    | with_reducible apply State.retireBay_keeps
    | with_reducible apply State.setFld_keeps
    | with_reducible apply State.raise_keeps
    | with_reducible apply State.releaseSelected_keeps
    | with_reducible apply State.rerunAll_keeps
    | with_reducible apply State.closeBay_keeps
    | with_reducible apply State.occupy_keeps
    | simp only [State.keeps_mk_iff]
    | split
    | intro)

theorem State.loseBay_keeps {s0 : State} {s : State} (die : Nat) (l : Option Nat) (ps : List Nat) (h : s0.Keeps s) :
    s0.Keeps (State.loseBay s die l ps) := by
  unfold State.loseBay
  repeat' (first
    | with_reducible assumption
    | with_reducible apply State.retireBay_keeps
    | with_reducible apply State.setFld_keeps
    | with_reducible apply State.releaseSelected_keeps
    | with_reducible apply State.rerunAll_keeps
    | with_reducible apply State.closeBay_keeps
    | with_reducible apply State.mapBay_keeps
    | with_reducible apply State.raise_keeps
    | with_reducible refine State.keeps_foldl ?_ ?_
    | simp only [State.keeps_mk_iff]
    | split
    | intro)

theorem State.faultBoundary_keeps {s0 : State} {s : State} (h : s0.Keeps s) :
    s0.Keeps (State.faultBoundary s) := by
  unfold State.faultBoundary
  repeat' (first
    | with_reducible assumption
    | with_reducible apply State.isolate_keeps
    | with_reducible apply State.loseBay_keeps
    | with_reducible apply State.rerunAll_keeps
    | with_reducible refine State.keeps_foldl ?_ ?_
    | dsimp only
    | split
    | intro)

theorem execWatchdogExpire_keeps {s0 : State} (b : PBay) {s : State} (h : s0.Keeps s) :
    s0.KeepsOut (execWatchdogExpire b s) := by
  unfold execWatchdogExpire
  repeat' (first
    | with_reducible assumption
    | with_reducible apply State.keepsOut_next
    | with_reducible apply State.faultWithTasks_keeps
    | split
    | intro)

theorem State.badWord_keeps {s0 : State} {s : State} (b : PBay) (word : Option Nat) (h : s0.Keeps s) :
    s0.Keeps (State.badWord s b word) := by
  unfold State.badWord
  repeat' (first
    | with_reducible assumption
    | with_reducible apply State.bump_keeps
    | with_reducible apply State.raise_keeps
    | simp only [State.keeps_mk_iff]
    | split
    | intro)

theorem State.sramRead_keeps {s0 : State} {s : State} (b x : PBay) (t : Task) (e : Sram) (h : s0.Keeps s) :
    s0.Keeps (State.sramRead s b x t e) := by
  unfold State.sramRead
  repeat' (first
    | with_reducible assumption
    | with_reducible apply State.bump_keeps
    | with_reducible apply State.badWord_keeps
    | with_reducible apply State.abortTask_keeps
    | with_reducible apply State.bayFault_keeps
    | simp only [State.keeps_mk_iff]
    | split
    | intro)

theorem State.markTruss_keeps {s0 : State} {s : State} (b : PBay) (half : Nat) (h : s0.Keeps s) :
    s0.Keeps (State.markTruss s b half) := by
  unfold State.markTruss
  repeat' (first
    | with_reducible assumption
    | with_reducible apply State.setFld_keeps
    | dsimp only
    | split
    | intro)

theorem State.trussAbort_keeps {s0 : State} {s : State} (b o : PBay) (half : Nat) (r : Running) (h : s0.Keeps s) :
    s0.Keeps (State.trussAbort s b o half r) := by
  unfold State.trussAbort
  repeat' (first
    | with_reducible assumption
    | with_reducible apply State.writeStatus_keeps
    | with_reducible apply State.raise_keeps
    | with_reducible apply State.abortTask_keeps
    | with_reducible apply State.takeFree_keeps
    | simp only [State.keepsSnd_iff]
    | with_reducible refine State.keeps_of_snd (by assumption) ?_
    | with_reducible apply State.keeps_snd
    | dsimp only
    | split
    | intro)

theorem State.faultArray_keeps {s0 : State} {s : State} (b : PBay) (half cycle : Nat) (h : s0.Keeps s) :
    s0.Keeps (State.faultArray s b half cycle) := by
  unfold State.faultArray
  repeat' (first
    | with_reducible assumption
    | with_reducible apply State.arrayRun_keeps
    | with_reducible apply State.emptyHalf_keeps
    | dsimp only
    | split
    | intro)

theorem execTrussFault_keeps {s0 : State} (b : PBay) (u : TrussUpset) {s : State} (h : s0.Keeps s) :
    s0.KeepsOut (execTrussFault b u s) := by
  unfold execTrussFault
  repeat' (first
    | with_reducible assumption
    | with_reducible apply State.keepsOut_next
    | with_reducible apply State.markTruss_keeps
    | with_reducible apply State.badWord_keeps
    | with_reducible apply State.faultArray_keeps
    | with_reducible apply State.trussAbort_keeps
    | with_reducible apply State.bayFault_keeps
    | with_reducible refine State.keeps_foldl ?_ ?_
    | dsimp only
    | split
    | intro)

theorem execTaskOverrunAbort_keeps {s0 : State} (l : Bay) (queue : Nat) {s : State} (h : s0.Keeps s) :
    s0.KeepsOut (execTaskOverrunAbort l queue s) := by
  unfold execTaskOverrunAbort
  repeat' (first
    | with_reducible assumption
    | with_reducible apply State.keepsOut_next
    | with_reducible apply Coll.count_keeps
    | with_reducible apply State.raise_keeps
    | with_reducible apply State.abortTask_keeps
    | with_reducible apply State.bayFault_keeps
    | with_reducible apply State.portEvent_keeps
    | with_reducible refine State.keeps_foldl ?_ ?_
    | simp only [State.keeps_mk_iff]
    | split
    | intro)

theorem State.failTransfers_keeps {s0 : State} {s : State} (port : Nat) (h : s0.Keeps s) :
    s0.Keeps (State.failTransfers s port) := by
  unfold State.failTransfers
  repeat' (first
    | with_reducible assumption
    | with_reducible apply State.portEvent_keeps
    | with_reducible apply State.abortTask_keeps
    | with_reducible refine State.keeps_foldl ?_ ?_
    | dsimp only
    | intro)

theorem State.dropFront_keeps {s0 : State} {s : State} (t : Task) (b : PBay) (h : s0.Keeps s) :
    s0.Keeps (State.dropFront s t b) := by
  unfold State.dropFront
  repeat' (first
    | with_reducible assumption
    | with_reducible apply State.setBay_keeps
    | simp only [State.keeps_mk_iff]
    | split
    | intro)

theorem State.popSelected_keeps {s0 : State} {s : State} (b : PBay) (h : s0.Keeps s) :
    s0.Keeps (State.popSelected s b) := by
  unfold State.popSelected
  repeat' (first
    | with_reducible assumption
    | with_reducible apply State.dropFront_keeps
    | with_reducible refine State.keeps_foldl ?_ ?_
    | simp only [State.keeps_mk_iff]
    | split
    | intro)

theorem State.verdictEvent_keeps {s0 : State} {s : State} (b : PBay) (t : Task) (v : Verdict) (h : s0.Keeps s) :
    s0.Keeps (State.verdictEvent s b t v) := by
  unfold State.verdictEvent
  repeat' (first
    | with_reducible assumption
    | with_reducible apply State.raise_keeps
    | simp only [State.keeps_mk_iff]
    | split
    | intro)

theorem State.endAtCheck_keeps {s0 : State} {s : State} (b : PBay) (t : Task) (v : Verdict) (h : s0.Keeps s) :
    s0.Keeps (State.endAtCheck s b t v) := by
  unfold State.endAtCheck
  repeat' (first
    | with_reducible assumption
    | with_reducible apply State.verdictEvent_keeps
    | with_reducible apply State.writeStatus_keeps
    | with_reducible apply State.signal_keeps
    | with_reducible apply State.checkCycles_keeps
    | simp only [State.keepsSnd_iff]
    | with_reducible refine State.keeps_of_snd (by assumption) ?_
    | with_reducible apply State.keeps_snd
    | dsimp only
    | split
    | intro)

theorem State.slotIn_keeps {s0 : State} {s : State} (b : PBay) (t : Task) (h : s0.Keeps s) :
    s0.Keeps (State.slotIn s b t) := by
  unfold State.slotIn
  repeat' (first
    | with_reducible assumption
    | with_reducible apply State.lathWrite_keeps
    | simp only [State.keeps_mk_iff]
    | split
    | intro)

theorem State.slotOut_keeps {s0 : State} {s : State} (b : PBay) (t : Task) (h : s0.Keeps s) :
    s0.Keeps (State.slotOut s b t) := by
  unfold State.slotOut
  repeat' (first
    | with_reducible assumption
    | with_reducible apply State.slotWrite_keeps
    | simp only [State.keeps_mk_iff]
    | split
    | intro)

theorem State.orphan_keeps {s0 : State} {s : State} (b : PBay) (t : Task) (g : Nat) (h : s0.Keeps s) :
    s0.Keeps (State.orphan s b t g) := by
  unfold State.orphan
  repeat' (first
    | with_reducible assumption
    | with_reducible apply State.writeStatus_keeps
    | with_reducible apply State.raise_keeps
    | with_reducible apply State.checkCycles_keeps
    | simp only [State.keepsSnd_iff]
    | with_reducible refine State.keeps_of_snd (by assumption) ?_
    | with_reducible apply State.keeps_snd
    | dsimp only
    | split
    | intro)

theorem State.runParts_keeps {s0 : State} {s : State} (b : PBay) (t : Task) (overlaps : Bool) (parts : Parts) (h : s0.Keeps s) :
    s0.Keeps (State.runParts s b t overlaps parts) := by
  unfold State.runParts
  repeat' (first
    | with_reducible assumption
    | with_reducible apply State.addCnt_keeps
    | with_reducible apply State.setBay_keeps
    | with_reducible refine State.keeps_foldl ?_ ?_
    | simp only [State.keeps_mk_iff]
    | intro)

theorem State.runTask_keeps {s0 : State} {s : State} (b : PBay) (t : Task) (act : State → PBay → Task → Bool → State) (h : s0.Keeps s) (hact : ∀ s x0 x1 x2, s0.Keeps s → s0.Keeps (act s x0 x1 x2)) :
    s0.Keeps (State.runTask s b t act) := by
  unfold State.runTask
  repeat' (first
    | with_reducible assumption
    | with_reducible apply hact
    | with_reducible apply State.abortTask_keeps
    | with_reducible apply State.noteRuns_keeps
    | simp only [State.keepsFst_iff]
    | with_reducible refine State.keeps_of_fst (by assumption) ?_
    | with_reducible refine State.keeps_of_fst3 (by assumption) ?_
    | with_reducible apply State.keeps_fst
    | dsimp only
    | split
    | intro)

theorem State.readTask_keeps {s0 : State} {s : State} (b : PBay) (t : Task) (h : s0.Keeps s) :
    s0.KeepsFst (State.readTask s b t) := by
  unfold State.readTask
  repeat' (first
    | with_reducible assumption
    | with_reducible apply State.popSelected_keeps
    | with_reducible apply State.slotIn_keeps
    | with_reducible apply State.noteRuns_keeps
    | simp only [State.keepsFst_iff]
    | with_reducible refine State.keeps_of_fst (by assumption) ?_
    | with_reducible refine State.keeps_of_fst3 (by assumption) ?_
    | with_reducible apply State.keeps_fst
    | dsimp only
    | split
    | intro)

theorem State.startTask_keeps {s0 : State} {s : State} (l : Bay) (row : Nat × Nat) (act : State → PBay → Task → Bool → State) (m : Nat) (e : Sram) (h : s0.Keeps s) (hact : ∀ s x0 x1 x2, s0.Keeps s → s0.Keeps (act s x0 x1 x2)) :
    s0.Keeps (State.startTask s l row act m e) := by
  unfold State.startTask
  repeat' (first
    | with_reducible assumption
    | with_reducible apply hact
    | with_reducible apply State.abortTask_keeps
    | with_reducible apply State.orphan_keeps
    | with_reducible apply State.runTask_keeps
    | with_reducible apply State.sramRead_keeps
    | with_reducible apply State.endAtCheck_keeps
    | with_reducible apply State.readTask_keeps
    | simp only [State.keepsFst_iff]
    | with_reducible refine State.keeps_of_fst (by assumption) ?_
    | with_reducible refine State.keeps_of_fst3 (by assumption) ?_
    | with_reducible apply State.keeps_fst
    | simp only [State.keeps_mk_iff]
    | split
    | intro)

theorem State.startPlain_keeps {s0 : State} {s : State} (l : Bay) (op : Nat) (f : State → PBay → Task → Parts) (m : Nat) (e : Sram) (h : s0.Keeps s) :
    s0.Keeps (State.startPlain s l op f m e) := by
  unfold State.startPlain
  repeat' (first
    | with_reducible assumption
    | with_reducible apply State.startTask_keeps
    | with_reducible apply State.runParts_keeps
    | intro)

theorem State.endSlip_keeps {s0 : State} {s : State} (b : PBay) (t : Task) (past : Nat) (h : s0.Keeps s) :
    s0.Keeps (State.endSlip s b t past) := by
  unfold State.endSlip
  repeat' (first
    | with_reducible assumption
    | with_reducible apply State.bump_keeps
    | with_reducible apply State.setFld_keeps
    | with_reducible apply State.raise_keeps
    | with_reducible refine State.keeps_foldl ?_ ?_
    | dsimp only
    | intro)

theorem State.complete_keeps {s0 : State} {s : State} (b : PBay) (r : Running) (cycles past : Nat) (h : s0.Keeps s) :
    s0.Keeps (State.complete s b r cycles past) := by
  unfold State.complete
  repeat' (first
    | with_reducible assumption
    | with_reducible apply State.emitOut_keeps
    | with_reducible apply State.slotOut_keeps
    | with_reducible apply State.addFlags_keeps
    | with_reducible apply State.endSlip_keeps
    | with_reducible apply State.writeStatus_keeps
    | with_reducible apply State.signal_keeps
    | with_reducible apply State.setBay_keeps
    | with_reducible apply State.emptyHalf_keeps
    | with_reducible refine State.keeps_foldl ?_ ?_
    | simp only [State.keeps_mk_iff]
    | split
    | intro)

theorem State.drainTask_keeps {s0 : State} {s : State} (r : Running) (h : s0.Keeps s) :
    s0.Keeps (State.drainTask s r) := by
  unfold State.drainTask
  repeat' (first
    | with_reducible assumption
    | with_reducible apply State.drainHalf_keeps
    | with_reducible refine State.keeps_foldl ?_ ?_
    | intro)

theorem execTaskComplete_keeps {s0 : State} (l : Bay) (queue cycles past : Nat) {s : State} (h : s0.Keeps s) :
    s0.KeepsOut (execTaskComplete l queue cycles past s) := by
  unfold execTaskComplete
  repeat' (first
    | with_reducible assumption
    | with_reducible apply State.keepsOut_next
    | with_reducible apply State.drainTask_keeps
    | with_reducible apply State.complete_keeps
    | simp only [State.keeps_mk_iff]
    | split
    | intro)

theorem execAttn_keeps {s0 : State} (r : TaskRun) {s : State} (h : s0.Keeps s) :
    s0.KeepsOut (execAttn r s) := by
  unfold execAttn
  repeat' (first
    | with_reducible assumption
    | with_reducible apply State.keepsOut_next
    | with_reducible apply State.startPlain_keeps
    | intro)

theorem execGemm_keeps {s0 : State} (b : Bay) (member : Nat) (e : Sram) {s : State} (h : s0.Keeps s) :
    s0.KeepsOut (execGemm b member e s) := by
  unfold execGemm
  repeat' (first
    | with_reducible assumption
    | with_reducible apply State.keepsOut_next
    | with_reducible apply State.startPlain_keeps
    | intro)

theorem execConv_keeps {s0 : State} (r : TaskRun) {s : State} (h : s0.Keeps s) :
    s0.KeepsOut (execConv r s) := by
  unfold execConv
  repeat' (first
    | with_reducible assumption
    | with_reducible apply State.keepsOut_next
    | with_reducible apply State.startPlain_keeps
    | intro)

theorem execDwconv_keeps {s0 : State} (r : TaskRun) {s : State} (h : s0.Keeps s) :
    s0.KeepsOut (execDwconv r s) := by
  unfold execDwconv
  repeat' (first
    | with_reducible assumption
    | with_reducible apply State.keepsOut_next
    | with_reducible apply State.startPlain_keeps
    | intro)

theorem State.runDone_keeps {s0 : State} {s : State} (b : PBay) (t : Task) (overlaps : Bool) (h : s0.Keeps s) :
    s0.Keeps (State.runDone s b t overlaps) := by
  unfold State.runDone
  repeat' (first
    | with_reducible assumption
    | with_reducible apply State.setBay_keeps
    | simp only [State.keeps_mk_iff]
    | intro)

theorem startPeg_keeps {s0 : State} (op : PegOp) {s : State} (b : PBay) (t : Task) (overlaps : Bool) (h : s0.Keeps s) :
    s0.Keeps (startPeg op s b t overlaps) := by
  unfold startPeg
  repeat' (first
    | with_reducible assumption
    | with_reducible apply State.sendPeg_keeps
    | with_reducible apply State.runDone_keeps
    | dsimp only
    | split
    | intro)

theorem execPegSet_keeps {s0 : State} (b : Bay) {s : State} (h : s0.Keeps s) :
    s0.KeepsOut (execPegSet b s) := by
  unfold execPegSet
  repeat' (first
    | with_reducible assumption
    | with_reducible apply State.keepsOut_next
    | with_reducible apply State.startTask_keeps
    | with_reducible apply startPeg_keeps
    | intro)

theorem execPegAdd_keeps {s0 : State} (b : Bay) {s : State} (h : s0.Keeps s) :
    s0.KeepsOut (execPegAdd b s) := by
  unfold execPegAdd
  repeat' (first
    | with_reducible assumption
    | with_reducible apply State.keepsOut_next
    | with_reducible apply State.startTask_keeps
    | with_reducible apply startPeg_keeps
    | intro)

theorem execPegSub_keeps {s0 : State} (b : Bay) {s : State} (h : s0.Keeps s) :
    s0.KeepsOut (execPegSub b s) := by
  unfold execPegSub
  repeat' (first
    | with_reducible assumption
    | with_reducible apply State.keepsOut_next
    | with_reducible apply State.startTask_keeps
    | with_reducible apply startPeg_keeps
    | intro)

theorem execWatchArrive_keeps {s0 : State} (queue : Nat) {s : State} (h : s0.Keeps s) :
    s0.KeepsOut (execWatchArrive queue s) := by
  unfold execWatchArrive
  repeat' (first
    | with_reducible assumption
    | with_reducible apply State.keepsOut_next
    | with_reducible apply State.watchIn_keeps
    | with_reducible refine State.keeps_foldl ?_ ?_
    | simp only [State.keeps_mk_iff]
    | split
    | intro)

theorem State.tieOp_keeps {s0 : State} {s : State} (b : PBay) (t : Task) (act : State → Nat → Nat → State) (h : s0.Keeps s) (hact : ∀ s x0 x1, s0.Keeps s → s0.Keeps (act s x0 x1)) :
    s0.Keeps (State.tieOp s b t act) := by
  unfold State.tieOp
  repeat' (first
    | with_reducible assumption
    | with_reducible apply hact
    | with_reducible apply State.raise_keeps
    | dsimp only
    | split
    | intro)

theorem State.arrive_keeps {s0 : State} {s : State} (b : PBay) (tie ctx : Nat) (h : s0.Keeps s) :
    s0.Keeps (State.arrive s b tie ctx) := by
  unfold State.arrive
  repeat' (first
    | with_reducible assumption
    | with_reducible apply State.setFld_keeps
    | with_reducible apply State.step1_keeps
    | with_reducible apply State.addPeg_keeps
    | dsimp only
    | split
    | intro)

theorem execTieArrive_keeps {s0 : State} (b : Bay) {s : State} (h : s0.Keeps s) :
    s0.KeepsOut (execTieArrive b s) := by
  unfold execTieArrive
  repeat' (first
    | with_reducible assumption
    | with_reducible apply State.keepsOut_next
    | with_reducible apply State.startTask_keeps
    | with_reducible apply State.tieOp_keeps
    | with_reducible apply State.arrive_keeps
    | with_reducible apply State.runDone_keeps
    | intro)

theorem execTieReset_keeps {s0 : State} (b : Bay) {s : State} (h : s0.Keeps s) :
    s0.KeepsOut (execTieReset b s) := by
  unfold execTieReset
  repeat' (first
    | with_reducible assumption
    | with_reducible apply State.keepsOut_next
    | with_reducible apply State.startTask_keeps
    | with_reducible apply State.tieOp_keeps
    | with_reducible apply State.setFld_keeps
    | with_reducible apply State.runDone_keeps
    | intro)

theorem execElem_keeps {s0 : State} (r : TaskRun) {s : State} (h : s0.Keeps s) :
    s0.KeepsOut (execElem r s) := by
  unfold execElem
  repeat' (first
    | with_reducible assumption
    | with_reducible apply State.keepsOut_next
    | with_reducible apply State.startPlain_keeps
    | intro)

theorem execSfu_keeps {s0 : State} (r : TaskRun) {s : State} (h : s0.Keeps s) :
    s0.KeepsOut (execSfu r s) := by
  unfold execSfu
  repeat' (first
    | with_reducible assumption
    | with_reducible apply State.keepsOut_next
    | with_reducible apply State.startPlain_keeps
    | intro)

theorem execNorm_keeps {s0 : State} (r : TaskRun) {s : State} (h : s0.Keeps s) :
    s0.KeepsOut (execNorm r s) := by
  unfold execNorm
  repeat' (first
    | with_reducible assumption
    | with_reducible apply State.keepsOut_next
    | with_reducible apply State.startPlain_keeps
    | intro)

theorem execPool_keeps {s0 : State} (r : TaskRun) {s : State} (h : s0.Keeps s) :
    s0.KeepsOut (execPool r s) := by
  unfold execPool
  repeat' (first
    | with_reducible assumption
    | with_reducible apply State.keepsOut_next
    | with_reducible apply State.startPlain_keeps
    | intro)

theorem execMove_keeps {s0 : State} (r : TaskRun) {s : State} (h : s0.Keeps s) :
    s0.KeepsOut (execMove r s) := by
  unfold execMove
  repeat' (first
    | with_reducible assumption
    | with_reducible apply State.keepsOut_next
    | with_reducible apply State.startPlain_keeps
    | intro)

theorem execKvappend_keeps {s0 : State} (r : TaskRun) {s : State} (h : s0.Keeps s) :
    s0.KeepsOut (execKvappend r s) := by
  unfold execKvappend
  repeat' (first
    | with_reducible assumption
    | with_reducible apply State.keepsOut_next
    | with_reducible apply State.startPlain_keeps
    | intro)

theorem State.awaitPass_keeps {s0 : State} (a : PassArgs) (k : PassKind) (e pace fuel : Nat) {s : State}
    (h : s0.Keeps s) : s0.Keeps (State.awaitPass s a k e pace fuel) := by
  induction fuel generalizing s with
  | zero => exact h
  | succ n ih =>
    rw [State.awaitPass]
    dsimp only
    repeat' (first
      | with_reducible assumption
      | with_reducible apply ih
      | with_reducible apply State.arrayTick_keeps
      | with_reducible apply State.bump_keeps
      | split)

theorem State.seekPass_keeps {s0 : State} {s : State} (a : PassArgs) (entryReady pace : Nat) (h : s0.Keeps s) :
    s0.Keeps (State.seekPass s a entryReady pace) := by
  unfold State.seekPass
  repeat' (first
    | with_reducible assumption
    | with_reducible apply State.setBay_keeps
    | simp only [State.keeps_mk_iff]
    | split
    | intro)

theorem State.addOuts_keeps {s0 : State} {s : State} (o : PBay) (r : Running) (l : List OutWrite) (h : s0.Keeps s) :
    s0.Keeps (State.addOuts s o r l) := by
  unfold State.addOuts
  repeat' (first
    | with_reducible assumption
    | with_reducible apply State.setBay_keeps
    | simp only [State.keeps_mk_iff]
    | split
    | intro)

theorem State.enterPass_keeps {s0 : State} {s : State} (a : PassArgs) (o : PBay) (r : Running) (k : PassKind) (h : s0.Keeps s) :
    s0.Keeps (State.enterPass s a o r k) := by
  unfold State.enterPass
  repeat' (first
    | with_reducible assumption
    | with_reducible apply State.addOuts_keeps
    | with_reducible apply State.bump_keeps
    | with_reducible apply State.seekPass_keeps
    | with_reducible apply State.awaitPass_keeps
    | with_reducible apply State.setBay_keeps
    | with_reducible apply State.trussWord_keeps
    | with_reducible apply Coll.take_keeps
    | with_reducible apply State.keepsOpt_some
    | with_reducible exact State.keepsOpt_none
    | with_reducible refine State.keepsOpt_map ?_
    | with_reducible apply State.keeps_getD
    | with_reducible refine State.keeps_of_opt (by assumption) ?_
    | simp only [State.keeps_mk_iff]
    | split
    | intro)

theorem execPassStart_keeps {s0 : State} (a : PassArgs) {s : State} (h : s0.Keeps s) :
    s0.KeepsOut (execPassStart a s) := by
  unfold execPassStart
  repeat' (first
    | with_reducible assumption
    | with_reducible apply State.keepsOut_next
    | with_reducible apply State.enterPass_keeps
    | simp only [State.keeps_mk_iff]
    | split
    | intro)

end Sys2Proof.Machine
end

