-- ==== Sys2Proof/Laws/KeepSched.lean ====
section
/-! SUPPORT. What the operations and commands of scheduling, event collection and weathering keep: one law each (Laws/Keeps.lean). -/

namespace Sys2Proof.Machine

theorem State.giveWatch_keeps {s0 : State} {s : State} (q : Nat) (h : s0.Keeps s) :
    s0.Keeps (State.giveWatch s q) := by
  unfold State.giveWatch
  repeat' (first
    | with_reducible assumption
    | with_reducible apply State.setQueue_keeps
    | with_reducible apply State.raise_keeps
    | simp only [State.keeps_mk_iff]
    | split
    | intro)

theorem State.giveWatches_keeps {s0 : State} {s : State} (h : s0.Keeps s) :
    s0.Keeps (State.giveWatches s) := by
  unfold State.giveWatches
  repeat' (first
    | with_reducible assumption
    | with_reducible apply State.giveWatch_keeps
    | with_reducible refine State.keeps_foldl ?_ ?_
    | intro)

theorem State.beginSwap_keeps {s0 : State} {s : State} (r : Ranked) (h : s0.Keeps s) :
    s0.Keeps (State.beginSwap s r) := by
  unfold State.beginSwap
  repeat' (first
    | with_reducible assumption
    | with_reducible apply State.setBay_keeps
    | with_reducible refine State.keeps_foldl ?_ ?_
    | simp only [State.keeps_mk_iff]
    | split
    | intro)

theorem State.swapOver_keeps {s0 s : State} (die : Nat) (claimed : List PBay) (grants : Nat) (l : List Ranked)
    (h : s0.Keeps s) : s0.Keeps (State.swapOver s die claimed grants l) := by
  induction l generalizing s claimed grants with
  | nil => exact h
  | cons r t ih =>
    rw [State.swapOver]
    repeat' (first
      | with_reducible assumption
      | with_reducible apply ih
      | with_reducible apply State.beginSwap_keeps
      | with_reducible apply State.raise_keeps
      | split)

theorem State.swapPass_keeps {s0 : State} {s : State} (h : s0.Keeps s) :
    s0.Keeps (State.swapPass s) := by
  unfold State.swapPass
  repeat' (first
    | with_reducible assumption
    | with_reducible apply State.swapOver_keeps
    | with_reducible refine State.keeps_foldl ?_ ?_
    | split
    | intro)

theorem State.noteBayWait_keeps {s0 : State} {s : State} (b : PBay) (be : Bool) (wait : Nat) (h : s0.Keeps s) :
    s0.Keeps (State.noteBayWait s b be wait) := by
  unfold State.noteBayWait
  repeat' (first
    | with_reducible assumption
    | with_reducible apply State.setFld_keeps
    | dsimp only
    | split
    | intro)

theorem State.reportHead_keeps {s0 : State} {s : State} (b : PBay) (e : QueueEntry) (q : Nat) (h : s0.Keeps s) :
    s0.Keeps (State.reportHead s b e q) := by
  unfold State.reportHead
  repeat' (first
    | with_reducible assumption
    | with_reducible apply State.unitWrite_keeps
    | intro)

theorem State.takeHead_keeps {s0 : State} {s : State} (b : PBay) (e : QueueEntry) (q : Nat) (h : s0.Keeps s) :
    s0.Keeps (State.takeHead s b e q) := by
  unfold State.takeHead
  repeat' (first
    | with_reducible assumption
    | with_reducible apply State.setQueue_keeps
    | with_reducible apply State.reportHead_keeps
    | simp only [State.keeps_mk_iff]
    | split
    | intro)

theorem State.select_keeps {s0 : State} {s : State} (b : PBay) (e : QueueEntry) (t : Task) (bs : List PBay) (h : s0.Keeps s) :
    s0.Keeps (State.select s b e t bs) := by
  unfold State.select
  repeat' (first
    | with_reducible assumption
    | with_reducible apply State.takeHead_keeps
    | with_reducible apply State.noteBayWait_keeps
    | with_reducible apply State.setBay_keeps
    | with_reducible apply State.bump_keeps
    | with_reducible apply State.giveWatch_keeps
    | with_reducible refine State.keeps_foldl ?_ ?_
    | simp only [State.keeps_mk_iff]
    | intro)

theorem State.drawQueue_keeps {s0 : State} (fuel : Nat) {s : State} (l : Bay) (b : PBay) (q : Nat) (left : Left)
    (h : s0.Keeps s) : s0.KeepsFst (State.drawQueue fuel s l b q left) := by
  induction fuel generalizing s left with
  | zero => exact ⟨h⟩
  | succ n ih =>
    rw [State.drawQueue]
    repeat' (first
      | with_reducible assumption
      | with_reducible apply ih
      | with_reducible apply State.select_keeps
      | simp only [State.keepsFst_iff]
      | split)

theorem State.drawClass_keeps {s0 : State} {s : State} (l : Bay) (b : PBay) (be : Bool) (left : Left) (h : s0.Keeps s) :
    s0.KeepsFst (State.drawClass s l b be left) := by
  unfold State.drawClass
  repeat' (first
    | with_reducible assumption
    | with_reducible apply State.drawQueue_keeps
    | with_reducible refine State.keeps_foldl ?_ ?_
    | with_reducible refine State.keeps_foldl_fst ?_ ?_
    | simp only [State.keepsFst_iff]
    | with_reducible refine State.keeps_of_fst (by assumption) ?_
    | with_reducible refine State.keeps_of_fst3 (by assumption) ?_
    | with_reducible apply State.keeps_fst
    | intro)

theorem State.drawGuarded_keeps {s0 : State} {s : State} (l : Bay) (b : PBay) (left : Left) (h : s0.Keeps s) :
    s0.KeepsFst (State.drawGuarded s l b left) := by
  unfold State.drawGuarded
  repeat' (first
    | with_reducible assumption
    | with_reducible apply State.select_keeps
    | with_reducible apply State.bump_keeps
    | simp only [State.keepsFst_iff]
    | simp only [State.keeps_mk_iff]
    | split
    | intro)

theorem State.selectDie_keeps {s0 : State} {s : State} (die : Nat) (h : s0.Keeps s) :
    s0.Keeps (State.selectDie s die) := by
  unfold State.selectDie
  repeat' (first
    | with_reducible assumption
    | with_reducible apply State.drawClass_keeps
    | with_reducible apply State.drawGuarded_keeps
    | with_reducible refine State.keeps_foldl ?_ ?_
    | with_reducible refine State.keeps_foldl_fst ?_ ?_
    | simp only [State.keepsFst_iff]
    | with_reducible refine State.keeps_of_fst (by assumption) ?_
    | with_reducible refine State.keeps_of_fst3 (by assumption) ?_
    | with_reducible apply State.keeps_fst
    | dsimp only
    | split
    | intro)

theorem State.countWaits_keeps {s0 : State} {s : State} (h : s0.Keeps s) :
    s0.Keeps (State.countWaits s) := by
  unfold State.countWaits
  repeat' (first
    | with_reducible assumption
    | with_reducible apply State.setQueue_keeps
    | with_reducible refine State.keeps_foldl ?_ ?_
    | simp only [State.keeps_mk_iff]
    | split
    | intro)

theorem State.selectAll_keeps {s0 : State} {s : State} (h : s0.Keeps s) :
    s0.Keeps (State.selectAll s) := by
  unfold State.selectAll
  repeat' (first
    | with_reducible assumption
    | with_reducible apply State.selectDie_keeps
    | with_reducible apply State.countWaits_keeps
    | with_reducible apply State.giveWatches_keeps
    | with_reducible refine State.keeps_foldl ?_ ?_
    | intro)

theorem State.advanceCourse_keeps {s0 : State} {s : State} (h : s0.Keeps s) :
    s0.Keeps (State.advanceCourse s) := by
  unfold State.advanceCourse
  repeat' (first
    | with_reducible assumption
    | with_reducible apply Coll.count_keeps
    | simp only [State.keeps_mk_iff]
    | split
    | intro)

theorem State.applyClock_keeps {s0 : State} {s : State} (h : s0.Keeps s) :
    s0.Keeps (State.applyClock s) := by
  unfold State.applyClock
  repeat' (first
    | with_reducible assumption
    | with_reducible apply State.setFld_keeps
    | with_reducible refine State.keeps_foldl ?_ ?_
    | simp only [State.keeps_mk_iff]
    | split
    | intro)

theorem State.makeLive_keeps {s0 : State} {s : State} (c : Nat × List (Nat × Word)) (h : s0.Keeps s) :
    s0.Keeps (State.makeLive s c) := by
  unfold State.makeLive
  repeat' (first
    | with_reducible assumption
    | with_reducible apply State.setLive_keeps
    | with_reducible refine State.keeps_foldl ?_ ?_
    | intro)

theorem State.applyCommits_keeps {s0 : State} {s : State} (h : s0.Keeps s) :
    s0.Keeps (State.applyCommits s) := by
  unfold State.applyCommits
  repeat' (first
    | with_reducible assumption
    | with_reducible apply State.makeLive_keeps
    | with_reducible apply State.arbWindowEnd_keeps
    | with_reducible refine State.keeps_foldl ?_ ?_
    | simp only [State.keeps_mk_iff]
    | intro)

theorem State.adoptCount_keeps {s0 : State} {s : State} (deviant : List Nat) (h : s0.Keeps s) :
    s0.Keeps (State.adoptCount s deviant) := by
  unfold State.adoptCount
  repeat' (first
    | with_reducible assumption
    | with_reducible apply State.raise_keeps
    | with_reducible apply Coll.count_keeps
    | with_reducible refine State.keeps_foldl ?_ ?_
    | intro)

theorem State.endSwaps_keeps {s0 : State} {s : State} (h : s0.Keeps s) :
    s0.Keeps (State.endSwaps s) := by
  unfold State.endSwaps
  repeat' (first
    | with_reducible assumption
    | with_reducible apply State.setBay_keeps
    | with_reducible apply State.occupy_keeps
    | with_reducible apply State.bump_keeps
    | with_reducible refine State.keeps_foldl ?_ ?_
    | simp only [State.keeps_mk_iff]
    | split
    | intro)

theorem State.repairLanes_keeps {s0 : State} {s : State} (h : s0.Keeps s) :
    s0.Keeps (State.repairLanes s) := by
  unfold State.repairLanes
  repeat' (first
    | with_reducible assumption
    | with_reducible apply State.raise_keeps
    | with_reducible refine State.keeps_foldl ?_ ?_
    | simp only [State.keeps_mk_iff]
    | split
    | intro)

theorem State.crossBoundary_keeps {s0 : State} {s : State} (h : s0.Keeps s) :
    s0.Keeps (State.crossBoundary s) := by
  unfold State.crossBoundary
  repeat' (first
    | with_reducible assumption
    | with_reducible apply State.releaseSelected_keeps
    | with_reducible apply State.setBay_keeps
    | with_reducible refine State.keeps_foldl ?_ ?_
    | simp only [State.keeps_mk_iff]
    | intro)

theorem State.clearSelected_keeps {s0 : State} {s : State} (h : s0.Keeps s) :
    s0.Keeps (State.clearSelected s) := by
  unfold State.clearSelected
  repeat' (first
    | with_reducible assumption
    | with_reducible apply State.setFld_keeps
    | with_reducible refine State.keeps_foldl ?_ ?_
    | dsimp only
    | split
    | intro)

theorem State.dormerBoundary_keeps {s0 : State} {s : State} (h : s0.Keeps s) :
    s0.Keeps (State.dormerBoundary s) := by
  unfold State.dormerBoundary
  repeat' (first
    | with_reducible assumption
    | with_reducible apply State.setFld_keeps
    | with_reducible apply State.raise_keeps
    | simp only [State.keeps_mk_iff]
    | split
    | intro)

theorem State.schedule_keeps {s0 : State} {s : State} (h : s0.Keeps s) :
    s0.Keeps (State.schedule s) := by
  unfold State.schedule
  repeat' (first
    | with_reducible assumption
    | with_reducible apply State.countWaits_keeps
    | with_reducible apply State.swapPass_keeps
    | with_reducible apply State.selectAll_keeps
    | dsimp only
    | split
    | intro)

theorem State.beaconFlit_keeps {s0 : State} {s : State} (port : Nat) (own ridge : BitVec 48) (h : s0.Keeps s) :
    s0.Keeps (State.beaconFlit s port own ridge) := by
  unfold State.beaconFlit
  repeat' (first
    | with_reducible assumption
    | with_reducible apply State.setPort_keeps
    | with_reducible apply State.takeFree_keeps
    | simp only [State.keepsSnd_iff]
    | with_reducible refine State.keeps_of_snd (by assumption) ?_
    | with_reducible apply State.keeps_snd
    | simp only [State.keeps_mk_iff]
    | split
    | intro)

theorem State.beaconFlits_keeps {s0 : State} {s : State} (own ridge : BitVec 48) (ports : List Nat) (h : s0.Keeps s) :
    s0.Keeps (State.beaconFlits s own ridge ports) := by
  unfold State.beaconFlits
  repeat' (first
    | with_reducible assumption
    | with_reducible apply State.beaconFlit_keeps
    | with_reducible refine State.keeps_foldl ?_ ?_
    | split
    | intro)

theorem State.sendBeacons_keeps {s0 : State} {s : State} (h : s0.Keeps s) :
    s0.Keeps (State.sendBeacons s) := by
  unfold State.sendBeacons
  repeat' (first
    | with_reducible assumption
    | with_reducible apply Coll.count_keeps
    | with_reducible apply State.beaconFlits_keeps
    | simp only [State.keeps_mk_iff]
    | split
    | intro)

theorem State.noteRecovery_keeps {s0 : State} {s : State} (h : s0.Keeps s) :
    s0.Keeps (State.noteRecovery s) := by
  unfold State.noteRecovery
  repeat' (first
    | with_reducible assumption
    | with_reducible apply State.raise_keeps
    | simp only [State.keeps_mk_iff]
    | split
    | intro)

theorem State.dropTasks_keeps {s0 : State} {s : State} (mine : Nat → Bool) (h : s0.Keeps s) :
    s0.Keeps (State.dropTasks s mine) := by
  unfold State.dropTasks
  repeat' (first
    | with_reducible assumption
    | with_reducible apply State.voidQueue_keeps
    | with_reducible apply State.setBay_keeps
    | with_reducible refine State.keeps_foldl ?_ ?_
    | simp only [State.keeps_mk_iff]
    | intro)

theorem State.resetBoundary_keeps {s0 : State} {s : State} (h : s0.Keeps s) :
    s0.Keeps (State.resetBoundary s) := by
  unfold State.resetBoundary
  repeat' (first
    | with_reducible assumption
    | with_reducible apply State.dropTasks_keeps
    | with_reducible apply State.drainAll_keeps
    | with_reducible apply State.setBay_keeps
    | with_reducible refine State.keeps_foldl ?_ ?_
    | simp only [State.keeps_mk_iff]
    | split
    | intro)

theorem State.rafterBoundary_keeps {s0 : State} {s : State} (h : s0.Keeps s) :
    s0.Keeps (State.rafterBoundary s) := by
  unfold State.rafterBoundary
  repeat' (first
    | with_reducible assumption
    | with_reducible apply State.endSwaps_keeps
    | with_reducible apply State.loftInvalidate_keeps
    | with_reducible apply State.faultBoundary_keeps
    | with_reducible apply State.crossBoundary_keeps
    | with_reducible apply State.clearSelected_keeps
    | split
    | intro)

theorem State.courseBoundary_keeps {s0 : State} {s : State} (deviant : List Nat) (h : s0.Keeps s) :
    s0.Keeps (State.courseBoundary s deviant) := by
  unfold State.courseBoundary
  repeat' (first
    | with_reducible assumption
    | with_reducible apply State.advanceCourse_keeps
    | with_reducible apply State.applyClock_keeps
    | with_reducible apply State.applyCommits_keeps
    | with_reducible apply State.sendBeacons_keeps
    | with_reducible apply State.adoptCount_keeps
    | with_reducible apply State.noteRecovery_keeps
    | with_reducible apply State.rafterBoundary_keeps
    | with_reducible apply State.repairLanes_keeps
    | with_reducible apply State.resetBoundary_keeps
    | with_reducible apply State.dormerBoundary_keeps
    | with_reducible apply State.schedule_keeps
    | dsimp only
    | intro)

theorem execCourseBoundary_keeps {s0 : State} (deviant : List Nat) {s : State} (h : s0.Keeps s) :
    s0.KeepsOut (execCourseBoundary deviant s) := by
  unfold execCourseBoundary
  repeat' (first
    | with_reducible assumption
    | with_reducible apply State.keepsOut_next
    | with_reducible apply State.courseBoundary_keeps
    | split
    | intro)

theorem State.saveLath_keeps {s0 : State} {s : State} (l : Bay) (b : PBay) (ctx : Nat) (h : s0.Keeps s) :
    s0.Keeps (State.saveLath s l b ctx) := by
  unfold State.saveLath
  repeat' (first
    | with_reducible assumption
    | with_reducible apply State.unitWrite_keeps
    | simp only [State.keeps_mk_iff]
    | split
    | intro)

theorem State.loadLath_keeps {s0 : State} {s : State} (l : Bay) (b : PBay) (ctx : Nat) (h : s0.Keeps s) :
    s0.Keeps (State.loadLath s l b ctx) := by
  unfold State.loadLath
  repeat' (first
    | with_reducible assumption
    | with_reducible apply State.lathClear_keeps
    | with_reducible apply State.lathWrite_keeps
    | with_reducible apply State.setBay_keeps
    | with_reducible apply State.noteRead_keeps
    | simp only [State.keepsFst_iff]
    | with_reducible refine State.keeps_of_fst (by assumption) ?_
    | with_reducible refine State.keeps_of_fst3 (by assumption) ?_
    | with_reducible apply State.keeps_fst
    | simp only [State.keeps_mk_iff]
    | split
    | intro)

theorem execSwapComplete_keeps {s0 : State} (r : TaskRun) (late : Nat) {s : State} (h : s0.Keeps s) :
    s0.KeepsOut (execSwapComplete r late s) := by
  unfold execSwapComplete
  repeat' (first
    | with_reducible assumption
    | with_reducible apply State.keepsOut_next
    | with_reducible apply State.bump_keeps
    | with_reducible apply State.badWord_keeps
    | with_reducible apply State.bayFault_keeps
    | with_reducible apply State.saveLath_keeps
    | with_reducible apply State.loadLath_keeps
    | with_reducible apply State.setBay_keeps
    | with_reducible apply State.raise_keeps
    | simp only [State.keeps_mk_iff]
    | split
    | intro)

theorem State.refuseDoorbell_keeps {s0 : State} {s : State} (q reason : Nat) (h : s0.Keeps s) :
    s0.Keeps (State.refuseDoorbell s q reason) := by
  unfold State.refuseDoorbell
  repeat' (first
    | with_reducible assumption
    | with_reducible apply State.raise_keeps
    | intro)

theorem State.bar4Read_keeps {s0 : State} {s : State} (h : s0.Keeps s) :
    s0.Keeps (State.bar4Read s) := by
  unfold State.bar4Read
  repeat' (first
    | with_reducible assumption
    | simp only [State.keeps_mk_iff]
    | intro)

theorem execDoorbell_keeps {s0 : State} (off : Nat) (data : List (Option Byte)) {s : State} (h : s0.Keeps s) :
    s0.KeepsOut (execDoorbell off data s) := by
  unfold execDoorbell
  repeat' (first
    | with_reducible assumption
    | with_reducible apply State.keepsOut_next
    | with_reducible apply State.bar4Read_keeps
    | with_reducible apply State.refuseDoorbell_keeps
    | with_reducible apply State.addPeg_keeps
    | with_reducible apply State.setQueue_keeps
    | with_reducible apply State.giveWatch_keeps
    | simp only [State.keeps_mk_iff]
    | split
    | intro)

theorem State.tellRidge_keeps {s0 : State} {s : State} (r : EventRec) (h : s0.Keeps s) :
    s0.Keeps (State.tellRidge s r) := by
  unfold State.tellRidge
  repeat' (first
    | with_reducible assumption
    | with_reducible apply State.sendMsg_keeps
    | simp only [State.keeps_mk_iff]
    | split
    | intro)

theorem State.ringRecord_keeps {s0 : State} {s : State} (r : EventRec) (h : s0.Keeps s) :
    s0.Keeps (State.ringRecord s r) := by
  unfold State.ringRecord
  repeat' (first
    | with_reducible assumption
    | with_reducible apply State.memPut_keeps
    | with_reducible apply State.step1_keeps
    | with_reducible apply State.tellRidge_keeps
    | with_reducible apply State.bump_keeps
    | dsimp only
    | split
    | intro)

theorem State.flushBuffer_keeps {s0 : State} {s : State} (h : s0.Keeps s) :
    s0.Keeps (State.flushBuffer s) := by
  unfold State.flushBuffer
  repeat' (first
    | with_reducible assumption
    | with_reducible apply State.ringRecord_keeps
    | with_reducible refine State.keeps_foldl ?_ ?_
    | simp only [State.keeps_mk_iff]
    | split
    | intro)

theorem State.collect_keeps {s0 : State} {s : State} (r : EventRec) (h : s0.Keeps s) :
    s0.Keeps (State.collect s r) := by
  unfold State.collect
  repeat' (first
    | with_reducible assumption
    | with_reducible apply State.bump_keeps
    | with_reducible apply State.flushBuffer_keeps
    | with_reducible apply State.ringRecord_keeps
    | simp only [State.keeps_mk_iff]
    | split
    | intro)

theorem execEventRecord_keeps {s0 : State} (src : Source) {s : State} (h : s0.Keeps s) :
    s0.KeepsOut (execEventRecord src s) := by
  unfold execEventRecord
  repeat' (first
    | with_reducible assumption
    | with_reducible apply State.keepsOut_next
    | with_reducible apply State.liggerAhead_keeps
    | with_reducible apply State.collect_keeps
    | simp only [State.keeps_mk_iff]
    | split
    | intro)

theorem execEventBufferFlush_keeps {s0 : State} {s : State} (h : s0.Keeps s) :
    s0.KeepsOut (execEventBufferFlush s) := by
  unfold execEventBufferFlush
  repeat' (first
    | with_reducible assumption
    | with_reducible apply State.keepsOut_next
    | with_reducible apply State.flushBuffer_keeps
    | split
    | intro)

theorem execBeaconReceive_keeps {s0 : State} (port _count ridge : Nat) (time : BeaconTime) {s : State} (h : s0.Keeps s) :
    s0.KeepsOut (execBeaconReceive port _count ridge time s) := by
  unfold execBeaconReceive
  repeat' (first
    | with_reducible assumption
    | with_reducible apply State.keepsOut_next
    | with_reducible apply State.setFld_keeps
    | with_reducible apply Coll.count_keeps
    | with_reducible apply State.takeFree_keeps
    | simp only [State.keepsSnd_iff]
    | with_reducible refine State.keeps_of_snd (by assumption) ?_
    | with_reducible apply State.keeps_snd
    | simp only [State.keeps_mk_iff]
    | split
    | intro)

theorem execBeaconLock_keeps {s0 : State} {s : State} (h : s0.Keeps s) :
    s0.KeepsOut (execBeaconLock s) := by
  unfold execBeaconLock
  repeat' (first
    | with_reducible assumption
    | with_reducible apply State.keepsOut_next
    | with_reducible apply State.setFld_keeps
    | with_reducible apply State.raise_keeps
    | split
    | intro)

theorem execBeaconLost_keeps {s0 : State} {s : State} (h : s0.Keeps s) :
    s0.KeepsOut (execBeaconLost s) := by
  unfold execBeaconLost
  repeat' (first
    | with_reducible assumption
    | with_reducible apply State.keepsOut_next
    | with_reducible apply State.setFld_keeps
    | with_reducible apply State.raise_keeps
    | simp only [State.keeps_mk_iff]
    | split
    | intro)

theorem State.moveEndpoint_keeps {s0 : State} {s : State} (port : Nat) (h : s0.Keeps s) :
    s0.Keeps (State.moveEndpoint s port) := by
  unfold State.moveEndpoint
  repeat' (first
    | with_reducible assumption
    | with_reducible apply State.setPort_keeps
    | with_reducible apply State.resend_keeps
    | simp only [State.keeps_mk_iff]
    | split
    | intro)

theorem State.linkDown_keeps {s0 : State} {s : State} (port : Nat) (h : s0.Keeps s) :
    s0.Keeps (State.linkDown s port) := by
  unfold State.linkDown
  repeat' (first
    | with_reducible assumption
    | with_reducible apply State.setPort_keeps
    | simp only [State.keeps_mk_iff]
    | intro)

theorem State.failOver_keeps {s0 : State} {s : State} (port : Nat) (h : s0.Keeps s) :
    s0.Keeps (State.failOver s port) := by
  unfold State.failOver
  repeat' (first
    | with_reducible assumption
    | with_reducible apply State.linkDown_keeps
    | with_reducible apply State.portEvent_keeps
    | with_reducible apply State.moveEndpoint_keeps
    | simp only [State.keeps_mk_iff]
    | split
    | intro)

theorem State.portDown_keeps {s0 : State} {s : State} (port : Nat) (h : s0.Keeps s) :
    s0.Keeps (State.portDown s port) := by
  unfold State.portDown
  repeat' (first
    | with_reducible assumption
    | with_reducible apply State.leaveMsg_keeps
    | with_reducible apply State.dropPart_keeps
    | with_reducible apply State.setPort_keeps
    | with_reducible apply State.bump_keeps
    | with_reducible apply State.setFld_keeps
    | with_reducible apply State.portEvent_keeps
    | with_reducible apply State.failTransfers_keeps
    | with_reducible apply State.failOver_keeps
    | with_reducible refine State.keeps_foldl ?_ ?_
    | simp only [State.keeps_mk_iff]
    | split
    | intro)

theorem execReplayTimeout_keeps {s0 : State} (port : Nat) {s : State} (h : s0.Keeps s) :
    s0.KeepsOut (execReplayTimeout port s) := by
  unfold execReplayTimeout
  repeat' (first
    | with_reducible assumption
    | with_reducible apply State.keepsOut_next
    | with_reducible apply State.portDown_keeps
    | split
    | intro)

theorem execMeshLaneMark_keeps {s0 : State} (die link lane : Nat) (ligger : Bool) {s : State} (h : s0.Keeps s) :
    s0.KeepsOut (execMeshLaneMark die link lane ligger s) := by
  unfold execMeshLaneMark
  repeat' (first
    | with_reducible assumption
    | with_reducible apply State.keepsOut_next
    | simp only [State.keeps_mk_iff]
    | split
    | intro)

theorem State.trainMesh_keeps {s0 : State} {s : State} (t : MeshTest) (h : s0.Keeps s) :
    s0.Keeps (State.trainMesh s t) := by
  unfold State.trainMesh
  repeat' (first
    | with_reducible assumption
    | simp only [State.keeps_mk_iff]
    | intro)

theorem execFatalFault_keeps {s0 : State} (die kind : Nat) {s : State} (h : s0.Keeps s) :
    s0.KeepsOut (execFatalFault die kind s) := by
  unfold execFatalFault
  repeat' (first
    | with_reducible assumption
    | with_reducible apply State.keepsOut_next
    | with_reducible apply State.setFld_keeps
    | with_reducible apply State.raise_keeps
    | simp only [State.keeps_mk_iff]
    | split
    | intro)

theorem State.replanMargins_keeps {s0 : State} {s : State} (r : Readings) (h : s0.Keeps s) :
    s0.Keeps (State.replanMargins s r) := by
  unfold State.replanMargins
  repeat' (first
    | with_reducible assumption
    | with_reducible apply State.setFld_keeps
    | with_reducible apply State.raise_keeps
    | with_reducible apply State.bayFault_keeps
    | with_reducible refine State.keeps_foldl ?_ ?_
    | simp only [State.keeps_mk_iff]
    | split
    | intro)

theorem State.noteReadings_keeps {s0 : State} {s : State} (r : Readings) (h : s0.Keeps s) :
    s0.Keeps (State.noteReadings s r) := by
  unfold State.noteReadings
  repeat' (first
    | with_reducible assumption
    | with_reducible apply State.raise_keeps
    | with_reducible refine State.keeps_foldl ?_ ?_
    | dsimp only
    | intro)

theorem State.noteSlack_keeps {s0 : State} {s : State} (r : Readings) (h : s0.Keeps s) :
    s0.Keeps (State.noteSlack s r) := by
  unfold State.noteSlack
  repeat' (first
    | with_reducible assumption
    | with_reducible apply State.setFld_keeps
    | with_reducible refine State.keeps_foldl ?_ ?_
    | intro)

theorem execWeatheringIntervalEnd_keeps {s0 : State} (r : Readings) {s : State} (h : s0.Keeps s) :
    s0.KeepsOut (execWeatheringIntervalEnd r s) := by
  unfold execWeatheringIntervalEnd
  repeat' (first
    | with_reducible assumption
    | with_reducible apply State.keepsOut_next
    | with_reducible apply Coll.count_keeps
    | with_reducible apply State.noteSlack_keeps
    | with_reducible apply State.setFld_keeps
    | with_reducible apply State.replanMargins_keeps
    | with_reducible apply State.raise_keeps
    | with_reducible apply State.noteReadings_keeps
    | simp only [State.keeps_mk_iff]
    | split
    | intro)

theorem State.checkTable_keeps {s0 : State} {s : State} (slot : Nat) (t : List Byte) (h : s0.Keeps s) :
    s0.Keeps (State.checkTable s slot t) := by
  unfold State.checkTable
  repeat' (first
    | with_reducible assumption
    | with_reducible apply State.setFld_keeps
    | with_reducible apply State.raise_keeps
    | with_reducible refine State.keeps_foldl ?_ ?_
    | dsimp only
    | split
    | intro)

end Sys2Proof.Machine
end

