-- ==== Sys2Proof/Laws/KeepMedia.lean ====
section
/-! SUPPORT. What the operations and commands of the media engines and REDUCE keep: one law each (Laws/Keeps.lean). -/

namespace Sys2Proof.Machine

theorem State.readBlock_keeps {s0 : State} {s : State} (e : Eng) (j : Job) (h : s0.Keeps s) :
    s0.KeepsSnd (State.readBlock s e j) := by
  unfold State.readBlock
  repeat' (first
    | with_reducible assumption
    | with_reducible apply State.noteRead_keeps
    | simp only [State.keepsFst_iff]
    | simp only [State.keepsSnd_iff]
    | with_reducible refine State.keeps_of_fst (by assumption) ?_
    | with_reducible refine State.keeps_of_fst3 (by assumption) ?_
    | with_reducible apply State.keeps_fst
    | intro)

theorem State.openHead_keeps {s0 : State} {s : State} (e : Eng) (slot : Nat) (h : s0.Keeps s) :
    s0.Keeps (State.openHead s e slot) := by
  unfold State.openHead
  repeat' (first
    | with_reducible assumption
    | with_reducible apply State.setSession_keeps
    | with_reducible apply State.readBlock_keeps
    | simp only [State.keepsSnd_iff]
    | with_reducible refine State.keeps_of_snd (by assumption) ?_
    | with_reducible apply State.keeps_snd
    | simp only [State.keeps_mk_iff]
    | split
    | intro)

theorem State.finishJob_keeps {s0 : State} {s : State} (e : Eng) (slot : Nat) (v : Session) (j : Job) (h : s0.Keeps s) :
    s0.Keeps (State.finishJob s e slot v j) := by
  unfold State.finishJob
  repeat' (first
    | with_reducible assumption
    | with_reducible apply State.setSession_keeps
    | with_reducible apply State.openHead_keeps
    | intro)

theorem startMedia_keeps {s0 : State} {s : State} (b : PBay) (t : Task) (overlaps : Bool) (h : s0.Keeps s) :
    s0.Keeps (startMedia s b t overlaps) := by
  unfold startMedia
  repeat' (first
    | with_reducible assumption
    | with_reducible apply State.runDone_keeps
    | with_reducible apply State.writeStatus_keeps
    | with_reducible apply State.raise_keeps
    | with_reducible apply Coll.count_keeps
    | with_reducible apply State.setSession_keeps
    | with_reducible apply State.openHead_keeps
    | with_reducible apply State.takeFree_keeps
    | simp only [State.keepsSnd_iff]
    | with_reducible refine State.keeps_of_snd (by assumption) ?_
    | with_reducible apply State.keeps_snd
    | simp only [State.keeps_mk_iff]
    | split
    | intro)

theorem execMediaDecode_keeps {s0 : State} (b : Bay) {s : State} (h : s0.Keeps s) :
    s0.KeepsOut (execMediaDecode b s) := by
  unfold execMediaDecode
  repeat' (first
    | with_reducible assumption
    | with_reducible apply State.keepsOut_next
    | with_reducible apply State.startTask_keeps
    | with_reducible apply startMedia_keeps
    | intro)

theorem execMediaEncode_keeps {s0 : State} (b : Bay) {s : State} (h : s0.Keeps s) :
    s0.KeepsOut (execMediaEncode b s) := by
  unfold execMediaEncode
  repeat' (first
    | with_reducible assumption
    | with_reducible apply State.keepsOut_next
    | with_reducible apply State.startTask_keeps
    | with_reducible apply startMedia_keeps
    | intro)

theorem execMediaPreprocess_keeps {s0 : State} (b : Bay) {s : State} (h : s0.Keeps s) :
    s0.KeepsOut (execMediaPreprocess b s) := by
  unfold execMediaPreprocess
  repeat' (first
    | with_reducible assumption
    | with_reducible apply State.keepsOut_next
    | with_reducible apply State.startTask_keeps
    | with_reducible apply startMedia_keeps
    | intro)

theorem State.readCount_keeps {s0 : State} {s : State} (e : Eng) (k : List Byte) (h : s0.Keeps s) :
    s0.KeepsSnd (State.readCount s e k) := by
  unfold State.readCount
  repeat' (first
    | with_reducible assumption
    | with_reducible apply State.noteRead_keeps
    | simp only [State.keepsFst_iff]
    | simp only [State.keepsSnd_iff]
    | with_reducible refine State.keeps_of_fst (by assumption) ?_
    | with_reducible refine State.keeps_of_fst3 (by assumption) ?_
    | with_reducible apply State.keeps_fst
    | split
    | intro)

theorem State.beginJob_keeps {s0 : State} {s : State} (e : Eng) (slot : Nat) (v : Session) (h : s0.Keeps s) :
    s0.Keeps (State.beginJob s e slot v) := by
  unfold State.beginJob
  repeat' (first
    | with_reducible assumption
    | with_reducible apply State.setSession_keeps
    | with_reducible apply State.readCount_keeps
    | simp only [State.keepsSnd_iff]
    | with_reducible refine State.keeps_of_snd (by assumption) ?_
    | with_reducible apply State.keeps_snd
    | simp only [State.keeps_mk_iff]
    | split
    | intro)

theorem execJobStart_keeps {s0 : State} (e : Eng) (slot : Nat) {s : State} (h : s0.Keeps s) :
    s0.KeepsOut (execJobStart e slot s) := by
  unfold execJobStart
  repeat' (first
    | with_reducible assumption
    | with_reducible apply State.keepsOut_next
    | with_reducible apply State.openHead_keeps
    | with_reducible apply State.setSession_keeps
    | with_reducible apply State.finishJob_keeps
    | with_reducible apply State.beginJob_keeps
    | with_reducible apply State.readBlock_keeps
    | simp only [State.keepsSnd_iff]
    | with_reducible refine State.keeps_of_snd (by assumption) ?_
    | with_reducible apply State.keeps_snd
    | simp only [State.keeps_mk_iff]
    | split
    | intro)

theorem execDecodeInputRecheck_keeps {s0 : State} (e : Eng) (slot : Nat) {s : State} (h : s0.Keeps s) :
    s0.KeepsOut (execDecodeInputRecheck e slot s) := by
  unfold execDecodeInputRecheck
  repeat' (first
    | with_reducible assumption
    | with_reducible apply State.keepsOut_next
    | with_reducible apply State.setSession_keeps
    | with_reducible apply State.readCount_keeps
    | simp only [State.keepsSnd_iff]
    | with_reducible refine State.keeps_of_snd (by assumption) ?_
    | with_reducible apply State.keeps_snd
    | simp only [State.keeps_mk_iff]
    | split
    | intro)

theorem State.notePlanes_keeps {s0 : State} {s : State} (src : Source) (r : Ref) (sizes : List (Nat × Nat)) (h : s0.Keeps s) :
    s0.Keeps (State.notePlanes s src r sizes) := by
  unfold State.notePlanes
  repeat' (first
    | with_reducible assumption
    | with_reducible apply State.noteRuns_keeps
    | simp only [State.keepsFst_iff]
    | with_reducible refine State.keeps_of_fst (by assumption) ?_
    | with_reducible refine State.keeps_of_fst3 (by assumption) ?_
    | with_reducible apply State.keeps_fst
    | intro)

theorem State.writePlanes_keeps {s0 : State} {s : State} (e : Eng) (b : PBay) (ovf : Bool) (r : Ref) (sizes : List (Nat × Nat)) (ps : List Plane) (h : s0.Keeps s) :
    s0.Keeps (State.writePlanes s e b ovf r sizes ps) := by
  unfold State.writePlanes
  repeat' (first
    | with_reducible assumption
    | with_reducible apply State.unitWrite_keeps
    | with_reducible apply State.lathWrite_keeps
    | with_reducible apply State.freshen_keeps
    | with_reducible apply Coll.convert_keeps
    | with_reducible refine State.keeps_foldl ?_ ?_
    | simp only [State.keepsSnd_iff]
    | with_reducible refine State.keeps_of_snd (by assumption) ?_
    | with_reducible apply State.keeps_snd
    | simp only [State.keeps_mk_iff]
    | split
    | intro)

theorem State.pictureEvent_keeps {s0 : State} {s : State} (e : Eng) (num slot pic : Nat) (h : s0.Keeps s) :
    s0.Keeps (State.pictureEvent s e num slot pic) := by
  unfold State.pictureEvent
  repeat' (first
    | with_reducible assumption
    | with_reducible apply State.raise_keeps
    | intro)

theorem State.writeRecord_keeps {s0 : State} {s : State} (e : Eng) (v : Session) (j : Job) (pic : Nat) (r : PicRec) (h : s0.Keeps s) :
    s0.Keeps (State.writeRecord s e v j pic r) := by
  unfold State.writeRecord
  repeat' (first
    | with_reducible assumption
    | with_reducible apply State.unitWrite_keeps
    | with_reducible apply Coll.count_keeps
    | with_reducible apply State.addPeg_keeps
    | dsimp only
    | intro)

theorem State.consume_keeps {s0 : State} {s : State} (e : Eng) (v : Session) (n : Nat) (h : s0.Keeps s) :
    s0.KeepsFst (State.consume s e v n) := by
  unfold State.consume
  repeat' (first
    | with_reducible assumption
    | with_reducible apply State.unitWrite_keeps
    | simp only [State.keepsFst_iff]
    | simp only [State.keeps_mk_iff]
    | intro)

theorem State.pass_keeps {s0 : State} {s : State} (e : Eng) (v : Session) (bs : List Byte) (h : s0.Keeps s) :
    s0.KeepsFst (State.pass s e v bs) := by
  unfold State.pass
  repeat' (first
    | with_reducible assumption
    | with_reducible apply State.consume_keeps
    | simp only [State.keepsFst_iff]
    | with_reducible refine State.keeps_of_fst (by assumption) ?_
    | with_reducible refine State.keeps_of_fst3 (by assumption) ?_
    | with_reducible apply State.keeps_fst
    | simp only [State.keeps_mk_iff]
    | split
    | intro)

theorem State.ahead_keeps {s0 : State} {s : State} (e : Eng) (v : Session) (h : s0.Keeps s) :
    s0.KeepsFst (State.ahead s e v) := by
  unfold State.ahead
  repeat' (first
    | with_reducible assumption
    | with_reducible apply Coll.pass_keeps
    | with_reducible apply State.noteRuns_keeps
    | with_reducible apply State.pass_keeps
    | with_reducible apply State.readCount_keeps
    | simp only [State.keepsFst_iff]
    | simp only [State.keepsSnd_iff]
    | with_reducible apply State.keepsOpt_some
    | with_reducible exact State.keepsOpt_none
    | with_reducible refine State.keepsOpt_map ?_
    | with_reducible apply State.keeps_getD
    | with_reducible refine State.keeps_of_fst (by assumption) ?_
    | with_reducible refine State.keeps_of_fst3 (by assumption) ?_
    | with_reducible apply State.keeps_fst
    | with_reducible refine State.keeps_of_snd (by assumption) ?_
    | with_reducible apply State.keeps_snd
    | with_reducible refine State.keeps_of_opt (by assumption) ?_
    | simp only [State.keeps_mk_iff]
    | split
    | intro)

theorem State.output_keeps {s0 : State} {s : State} (e : Eng) (v : Session) (j : Job) (planes : List (List Nat)) (h : s0.Keeps s) :
    s0.Keeps (State.output s e v j planes) := by
  unfold State.output
  repeat' (first
    | with_reducible assumption
    | with_reducible apply State.writePlanes_keeps
    | intro)

theorem State.recordQp_keeps {s0 : State} {s : State} (k : List Byte) (h : Option Config.Headers) (mean : Option Nat) (hk : s0.Keeps s) :
    s0.KeepsSnd (State.recordQp s k h mean) := by
  unfold State.recordQp
  repeat' (first
    | with_reducible assumption
    | with_reducible apply State.takeFree_keeps
    | simp only [State.keepsSnd_iff]
    | with_reducible refine State.keeps_of_snd (by assumption) ?_
    | with_reducible apply State.keeps_snd
    | simp only [State.keeps_mk_iff]
    | split
    | intro)

theorem State.conceal_keeps {s0 : State} {s : State} (e : Eng) (slot : Nat) (v : Session) (j : Job) (n : Nat) (h : Option Config.Headers) (mean : Option Nat) (error : Bool) (hk : s0.Keeps s) :
    s0.Keeps (State.conceal s e slot v j n h mean error) := by
  unfold State.conceal
  repeat' (first
    | with_reducible assumption
    | with_reducible apply State.output_keeps
    | with_reducible apply State.bump_keeps
    | with_reducible apply State.pictureEvent_keeps
    | with_reducible apply State.writeRecord_keeps
    | with_reducible apply State.finishJob_keeps
    | with_reducible apply State.recordQp_keeps
    | simp only [State.keepsSnd_iff]
    | with_reducible refine State.keeps_of_snd (by assumption) ?_
    | with_reducible apply State.keeps_snd
    | simp only [State.keeps_mk_iff]
    | split
    | intro)

theorem State.stopStream_keeps {s0 : State} {s : State} (e : Eng) (slot : Nat) (v : Session) (j : Job) (h : s0.Keeps s) :
    s0.Keeps (State.stopStream s e slot v j) := by
  unfold State.stopStream
  repeat' (first
    | with_reducible assumption
    | with_reducible apply State.finishJob_keeps
    | with_reducible apply State.raise_keeps
    | simp only [State.keeps_mk_iff]
    | intro)

theorem State.discard_keeps {s0 : State} {s : State} (e : Eng) (slot : Nat) (v : Session) (h : Config.Headers) (hk : s0.Keeps s) :
    s0.Keeps (State.discard s e slot v h) := by
  unfold State.discard
  repeat' (first
    | with_reducible assumption
    | with_reducible apply State.bump_keeps
    | with_reducible apply State.setSession_keeps
    | simp only [State.keeps_mk_iff]
    | intro)

theorem execLiveDeadline_keeps {s0 : State} (gable : Nat) (kind : EngKind) (idx slot : Nat) {s : State} (h : s0.Keeps s) :
    s0.KeepsOut (execLiveDeadline gable kind idx slot s) := by
  unfold execLiveDeadline
  repeat' (first
    | with_reducible assumption
    | with_reducible apply State.keepsOut_next
    | with_reducible apply State.stopStream_keeps
    | with_reducible apply State.discard_keeps
    | with_reducible apply State.conceal_keeps
    | with_reducible apply Coll.pass_keeps
    | with_reducible apply State.ahead_keeps
    | with_reducible apply State.consume_keeps
    | with_reducible apply State.pass_keeps
    | simp only [State.keepsFst_iff]
    | with_reducible apply State.keepsOpt_some
    | with_reducible exact State.keepsOpt_none
    | with_reducible refine State.keepsOpt_map ?_
    | with_reducible apply State.keeps_getD
    | with_reducible refine State.keeps_of_fst (by assumption) ?_
    | with_reducible refine State.keeps_of_fst3 (by assumption) ?_
    | with_reducible apply State.keeps_fst
    | with_reducible refine State.keeps_of_opt (by assumption) ?_
    | simp only [State.keeps_mk_iff]
    | split
    | intro)

theorem State.grainRecord_keeps {s0 : State} {s : State} (e : Eng) (v : Session) (pic : Nat) (grain : Option (List Byte)) (h : s0.Keeps s) :
    s0.Keeps (State.grainRecord s e v pic grain) := by
  unfold State.grainRecord
  repeat' (first
    | with_reducible assumption
    | with_reducible apply State.unitWrite_keeps
    | simp only [State.keeps_mk_iff]
    | split
    | intro)

theorem State.picture_keeps {s0 : State} {s : State} (e : Eng) (slot : Nat) (v : Session) (j : Job) (n : Nat) (h : Config.Headers) (r : Config.Decoded) (hk : s0.Keeps s) :
    s0.Keeps (State.picture s e slot v j n h r) := by
  unfold State.picture
  repeat' (first
    | with_reducible assumption
    | with_reducible apply State.output_keeps
    | with_reducible apply State.grainRecord_keeps
    | with_reducible apply State.bump_keeps
    | with_reducible apply State.writeRecord_keeps
    | with_reducible apply State.finishJob_keeps
    | with_reducible apply State.recordQp_keeps
    | simp only [State.keepsSnd_iff]
    | with_reducible refine State.keeps_of_snd (by assumption) ?_
    | with_reducible apply State.keeps_snd
    | simp only [State.keeps_mk_iff]
    | split
    | intro)

theorem State.decodeDone_keeps {s0 : State} {s : State} (e : Eng) (slot : Nat) (v : Session) (j : Job) (h : s0.Keeps s) :
    s0.Keeps (State.decodeDone s e slot v j) := by
  unfold State.decodeDone
  repeat' (first
    | with_reducible assumption
    | with_reducible apply State.setSession_keeps
    | with_reducible apply State.stopStream_keeps
    | with_reducible apply State.discard_keeps
    | with_reducible apply State.conceal_keeps
    | with_reducible apply State.picture_keeps
    | with_reducible apply State.ahead_keeps
    | with_reducible apply State.consume_keeps
    | simp only [State.keepsFst_iff]
    | with_reducible refine State.keeps_of_fst (by assumption) ?_
    | with_reducible refine State.keeps_of_fst3 (by assumption) ?_
    | with_reducible apply State.keeps_fst
    | simp only [State.keeps_mk_iff]
    | split
    | intro)

theorem State.ringWrite_keeps {s0 : State} {s : State} (e : Eng) (k : List Byte) (pos : Nat) (bs : List Byte) (h : s0.Keeps s) :
    s0.Keeps (State.ringWrite s e k pos bs) := by
  unfold State.ringWrite
  repeat' (first
    | with_reducible assumption
    | with_reducible apply State.unitWrite_keeps
    | with_reducible apply Coll.take_keeps
    | with_reducible apply State.keepsOpt_some
    | with_reducible exact State.keepsOpt_none
    | with_reducible refine State.keepsOpt_map ?_
    | with_reducible apply State.keeps_getD
    | with_reducible refine State.keeps_of_opt (by assumption) ?_
    | dsimp only
    | intro)

theorem execEncodeRingSpace_keeps {s0 : State} (gable : Nat) (unit : EngKind × Nat) (slot : Nat) {s : State} (h : s0.Keeps s) :
    s0.KeepsOut (execEncodeRingSpace gable unit slot s) := by
  unfold execEncodeRingSpace
  repeat' (first
    | with_reducible assumption
    | with_reducible apply State.keepsOut_next
    | with_reducible apply State.setSession_keeps
    | with_reducible apply State.readCount_keeps
    | simp only [State.keepsSnd_iff]
    | with_reducible refine State.keeps_of_snd (by assumption) ?_
    | with_reducible apply State.keeps_snd
    | simp only [State.keeps_mk_iff]
    | split
    | intro)

theorem State.encodeDone_keeps {s0 : State} {s : State} (e : Eng) (slot : Nat) (v : Session) (j : Job) (h : s0.Keeps s) :
    s0.Keeps (State.encodeDone s e slot v j) := by
  unfold State.encodeDone
  repeat' (first
    | with_reducible assumption
    | with_reducible apply State.setSession_keeps
    | with_reducible apply State.bump_keeps
    | with_reducible apply State.ringWrite_keeps
    | with_reducible apply State.unitWrite_keeps
    | with_reducible apply State.pictureEvent_keeps
    | with_reducible apply State.writeRecord_keeps
    | with_reducible apply State.finishJob_keeps
    | with_reducible apply State.noteRuns_keeps
    | with_reducible apply State.readCount_keeps
    | simp only [State.keepsFst_iff]
    | simp only [State.keepsSnd_iff]
    | with_reducible refine State.keeps_of_fst (by assumption) ?_
    | with_reducible refine State.keeps_of_fst3 (by assumption) ?_
    | with_reducible apply State.keeps_fst
    | with_reducible refine State.keeps_of_snd (by assumption) ?_
    | with_reducible apply State.keeps_snd
    | simp only [State.keeps_mk_iff]
    | split
    | intro)

theorem State.preDone_keeps {s0 : State} {s : State} (e : Eng) (slot : Nat) (v : Session) (j : Job) (h : s0.Keeps s) :
    s0.Keeps (State.preDone s e slot v j) := by
  unfold State.preDone
  repeat' (first
    | with_reducible assumption
    | with_reducible apply State.notePlanes_keeps
    | with_reducible apply State.writePlanes_keeps
    | with_reducible apply State.writeRecord_keeps
    | with_reducible apply State.finishJob_keeps
    | with_reducible apply State.noteRuns_keeps
    | simp only [State.keepsFst_iff]
    | with_reducible refine State.keeps_of_fst (by assumption) ?_
    | with_reducible refine State.keeps_of_fst3 (by assumption) ?_
    | with_reducible apply State.keeps_fst
    | simp only [State.keeps_mk_iff]
    | intro)

theorem execPictureComplete_keeps {s0 : State} (gable : Nat) (unit : EngKind × Nat) (slot : Nat) {s : State} (h : s0.Keeps s) :
    s0.KeepsOut (execPictureComplete gable unit slot s) := by
  unfold execPictureComplete
  repeat' (first
    | with_reducible assumption
    | with_reducible apply State.keepsOut_next
    | with_reducible apply State.decodeDone_keeps
    | with_reducible apply State.encodeDone_keeps
    | with_reducible apply State.preDone_keeps
    | simp only [State.keeps_mk_iff]
    | split
    | intro)

theorem State.onWaiting_keeps {s0 : State} {s : State} (b : PBay) (queue : Nat) (f : Running → Running) (h : s0.Keeps s) :
    s0.Keeps (State.onWaiting s b queue f) := by
  unfold State.onWaiting
  repeat' (first
    | with_reducible assumption
    | with_reducible apply State.setBay_keeps
    | simp only [State.keeps_mk_iff]
    | split
    | intro)

theorem State.giveResult_keeps {s0 : State} {s : State} (b : PBay) (queue : Nat) (res : Result) (h : s0.Keeps s) :
    s0.Keeps (State.giveResult s b queue res) := by
  unfold State.giveResult
  repeat' (first
    | with_reducible assumption
    | with_reducible apply State.addCnt_keeps
    | with_reducible apply State.onWaiting_keeps
    | simp only [State.keeps_mk_iff]
    | intro)

theorem State.meetDies_keeps {s0 : State} {s : State} (t : Task) (h : s0.Keeps s) :
    s0.Keeps (State.meetDies s t) := by
  unfold State.meetDies
  repeat' (first
    | with_reducible assumption
    | with_reducible apply State.giveResult_keeps
    | with_reducible refine State.keeps_foldl ?_ ?_
    | dsimp only
    | split
    | intro)

theorem Coll.note_keeps {s0 : State} (c : Coll) {s : State} (f : Running → Running) (h : s0.Keeps s) :
    s0.Keeps (Coll.note c s f) := by
  unfold Coll.note
  repeat' (first
    | with_reducible assumption
    | with_reducible apply State.onWaiting_keeps
    | intro)

theorem Coll.count_keeps {s0 : State} (c : Coll) {s : State} (cnt : Cnt) (h : s0.Keeps s) :
    s0.Keeps (Coll.count c s cnt) := by
  unfold Coll.count
  repeat' (first
    | with_reducible assumption
    | with_reducible apply Coll.note_keeps
    | with_reducible apply State.addCnt_keeps
    | simp only [State.keeps_mk_iff]
    | intro)

/-- A tag taken for a transfer changes the tag table alone. -/
theorem State.allocTag_keeps {s0 s : State} {port e k queue : Nat} {p : Nat × State}
    (hp : s.allocTag port e k queue = some p) (h : s0.Keeps s) : s0.Keeps p.2 := by
  unfold State.allocTag at hp
  rw [Option.map_eq_some_iff] at hp
  obtain ⟨i, -, rfl⟩ := hp
  exact State.setTag_keeps _ _ _ h

theorem Coll.send_keeps {s0 : State} (c : Coll) {s : State} (plus : Bool) (k offset : Nat) (data : List Byte)
    (h : s0.Keeps s) : s0.KeepsOpt (Coll.send c s plus k offset data) := by
  unfold Coll.send
  repeat' (first
    | with_reducible assumption
    | with_reducible apply Coll.note_keeps
    | with_reducible apply State.sendMsg_keeps
    | with_reducible exact State.keepsOpt_none
    | with_reducible refine State.keepsOpt_map ?_
    | with_reducible refine State.allocTag_keeps (by assumption) ?_
    | dsimp only
    | split
    | intro)

theorem Coll.sendOwn_keeps {s0 : State} (c : Coll) (fuel : Nat) {s : State} (h : s0.Keeps s) :
    s0.Keeps (Coll.sendOwn c fuel s) := by
  induction fuel generalizing s with
  | zero => exact h
  | succ n ih =>
    rw [Coll.sendOwn]
    dsimp only
    repeat' (first
      | with_reducible assumption
      | with_reducible apply ih
      | with_reducible apply Coll.note_keeps
      | with_reducible refine State.keeps_of_opt (by assumption) ?_
      | with_reducible apply Coll.send_keeps
      | split)

theorem Coll.keep_keeps {s0 : State} (c : Coll) {s : State} (first : Nat) (codes : List Nat) (h : s0.Keeps s) :
    s0.Keeps (Coll.keep c s first codes) := by
  unfold Coll.keep
  repeat' (first
    | with_reducible assumption
    | with_reducible apply Coll.count_keeps
    | with_reducible apply Coll.note_keeps
    | simp only [State.keeps_mk_iff]
    | split
    | intro)

theorem Coll.took_keeps {s0 : State} (c : Coll) {s : State} (h : s0.Keeps s) :
    s0.Keeps (Coll.took c s) := by
  unfold Coll.took
  repeat' (first
    | with_reducible assumption
    | with_reducible apply Coll.note_keeps
    | simp only [State.keeps_mk_iff]
    | intro)

theorem Coll.convert_keeps {s0 : State} (c : Coll) {s : State} (codes : List Nat) (h : s0.Keeps s) :
    s0.KeepsSnd (Coll.convert c s codes) := by
  unfold Coll.convert
  repeat' (first
    | with_reducible assumption
    | with_reducible apply Coll.count_keeps
    | simp only [State.keepsSnd_iff]
    | dsimp only
    | split
    | intro)

theorem Coll.pass_keeps {s0 : State} (c : Coll) {s : State} (goes plus : Bool) (k offset : Nat) (data : List Byte) (h : s0.Keeps s) :
    s0.KeepsOpt (Coll.pass c s goes plus k offset data) := by
  unfold Coll.pass
  repeat' (first
    | with_reducible assumption
    | with_reducible apply Coll.send_keeps
    | with_reducible apply State.keepsOpt_some
    | with_reducible exact State.keepsOpt_none
    | with_reducible refine State.keepsOpt_map ?_
    | with_reducible apply State.keeps_getD
    | with_reducible refine State.keeps_of_opt (by assumption) ?_
    | split
    | intro)

theorem Coll.takeSum_keeps {s0 : State} (c : Coll) {s : State} (m : Msg) (h : s0.Keeps s) :
    s0.KeepsOpt (Coll.takeSum c s m) := by
  unfold Coll.takeSum
  repeat' (first
    | with_reducible assumption
    | with_reducible apply Coll.count_keeps
    | with_reducible apply Coll.took_keeps
    | with_reducible apply Coll.keep_keeps
    | with_reducible apply Coll.send_keeps
    | with_reducible apply Coll.pass_keeps
    | with_reducible apply State.pass_keeps
    | with_reducible apply Coll.convert_keeps
    | simp only [State.keepsFst_iff]
    | simp only [State.keepsSnd_iff]
    | with_reducible apply State.keepsOpt_some
    | with_reducible exact State.keepsOpt_none
    | with_reducible refine State.keepsOpt_map ?_
    | with_reducible apply State.keeps_getD
    | with_reducible refine State.keeps_of_fst (by assumption) ?_
    | with_reducible refine State.keeps_of_fst3 (by assumption) ?_
    | with_reducible apply State.keeps_fst
    | with_reducible refine State.keeps_of_snd (by assumption) ?_
    | with_reducible apply State.keeps_snd
    | with_reducible refine State.keeps_of_opt (by assumption) ?_
    | dsimp only
    | split
    | intro)

theorem Coll.takeMove_keeps {s0 : State} (c : Coll) {s : State} (m : Msg) (h : s0.Keeps s) :
    s0.KeepsOpt (Coll.takeMove c s m) := by
  unfold Coll.takeMove
  repeat' (first
    | with_reducible assumption
    | with_reducible apply Coll.took_keeps
    | with_reducible apply Coll.note_keeps
    | with_reducible apply Coll.count_keeps
    | with_reducible apply Coll.keep_keeps
    | with_reducible apply Coll.pass_keeps
    | with_reducible apply State.pass_keeps
    | with_reducible apply Coll.convert_keeps
    | simp only [State.keepsFst_iff]
    | simp only [State.keepsSnd_iff]
    | with_reducible apply State.keepsOpt_some
    | with_reducible exact State.keepsOpt_none
    | with_reducible refine State.keepsOpt_map ?_
    | with_reducible apply State.keeps_getD
    | with_reducible refine State.keeps_of_fst (by assumption) ?_
    | with_reducible refine State.keeps_of_fst3 (by assumption) ?_
    | with_reducible apply State.keeps_fst
    | with_reducible refine State.keeps_of_snd (by assumption) ?_
    | with_reducible apply State.keeps_snd
    | with_reducible refine State.keeps_of_opt (by assumption) ?_
    | simp only [State.keeps_mk_iff]
    | split
    | intro)

theorem State.release_keeps {s0 : State} {s : State} (h : Held) (hk : s0.Keeps s) :
    s0.Keeps (State.release s h) := by
  unfold State.release
  repeat' (first
    | with_reducible assumption
    | with_reducible apply State.leaveMsg_keeps
    | with_reducible apply State.sendMsg_keeps
    | simp only [State.keeps_mk_iff]
    | split
    | intro)

theorem Coll.take_keeps {s0 : State} (c : Coll) {s : State} (h : Held) (hk : s0.Keeps s) :
    s0.KeepsOpt (Coll.take c s h) := by
  unfold Coll.take
  repeat' (first
    | with_reducible assumption
    | with_reducible apply State.release_keeps
    | with_reducible apply Coll.note_keeps
    | with_reducible apply Coll.takeSum_keeps
    | with_reducible apply Coll.takeMove_keeps
    | with_reducible apply State.keepsOpt_some
    | with_reducible exact State.keepsOpt_none
    | with_reducible refine State.keepsOpt_map ?_
    | with_reducible apply State.keeps_getD
    | with_reducible refine State.keeps_of_opt (by assumption) ?_
    | simp only [State.keeps_mk_iff]
    | split
    | intro)

theorem Coll.advance_keeps {s0 : State} (c : Coll) {s : State} (r : Running) (h : s0.Keeps s) :
    s0.Keeps (Coll.advance c s r) := by
  unfold Coll.advance
  split
  · exact State.abortTask_keeps _ _ _ (State.portEvent_keeps _ _ _ h)
  · refine Coll.note_keeps _ _ (State.keeps_foldl (Coll.sendOwn_keeps _ _ h) fun s x hs => ?_)
    exact State.keeps_getD (Coll.take_keeps _ _ hs) hs

theorem State.startColl_keeps {s0 : State} {s : State} (b : PBay) (t : Task) (ov : Bool) (h : s0.Keeps s) :
    s0.Keeps (State.startColl s b t ov) := by
  unfold State.startColl
  repeat' (first
    | with_reducible assumption
    | with_reducible apply State.runParts_keeps
    | with_reducible apply State.setBay_keeps
    | with_reducible apply Coll.keep_keeps
    | with_reducible apply Coll.advance_keeps
    | with_reducible apply Coll.convert_keeps
    | simp only [State.keepsSnd_iff]
    | with_reducible refine State.keeps_of_snd (by assumption) ?_
    | with_reducible apply State.keeps_snd
    | simp only [State.keeps_mk_iff]
    | split
    | intro)

theorem startReduce_keeps {s0 : State} {s : State} (b : PBay) (t : Task) (ov : Bool) (h : s0.Keeps s) :
    s0.Keeps (startReduce s b t ov) := by
  unfold startReduce
  repeat' (first
    | with_reducible assumption
    | with_reducible apply State.runParts_keeps
    | with_reducible apply State.meetDies_keeps
    | with_reducible apply State.setBay_keeps
    | with_reducible apply State.startColl_keeps
    | simp only [State.keeps_mk_iff]
    | split
    | intro)

theorem State.reduce_keeps {s0 : State} {s : State} (l : Bay) (kind m : Nat) (e : Sram) (h : s0.Keeps s) :
    s0.Keeps (State.reduce s l kind m e) := by
  unfold State.reduce
  repeat' (first
    | with_reducible assumption
    | with_reducible apply Coll.advance_keeps
    | with_reducible apply State.sramRead_keeps
    | with_reducible apply State.startTask_keeps
    | with_reducible apply startReduce_keeps
    | simp only [State.keeps_mk_iff]
    | split
    | intro)

theorem execAllReduce_keeps {s0 : State} (r : TaskRun) {s : State} (h : s0.Keeps s) :
    s0.KeepsOut (execAllReduce r s) := by
  unfold execAllReduce
  repeat' (first
    | with_reducible assumption
    | with_reducible apply State.keepsOut_next
    | with_reducible apply State.reduce_keeps
    | intro)

theorem execReduceScatter_keeps {s0 : State} (r : TaskRun) {s : State} (h : s0.Keeps s) :
    s0.KeepsOut (execReduceScatter r s) := by
  unfold execReduceScatter
  repeat' (first
    | with_reducible assumption
    | with_reducible apply State.keepsOut_next
    | with_reducible apply State.reduce_keeps
    | intro)

theorem execAllGather_keeps {s0 : State} (r : TaskRun) {s : State} (h : s0.Keeps s) :
    s0.KeepsOut (execAllGather r s) := by
  unfold execAllGather
  repeat' (first
    | with_reducible assumption
    | with_reducible apply State.keepsOut_next
    | with_reducible apply State.reduce_keeps
    | intro)

theorem execBroadcast_keeps {s0 : State} (r : TaskRun) {s : State} (h : s0.Keeps s) :
    s0.KeepsOut (execBroadcast r s) := by
  unfold execBroadcast
  repeat' (first
    | with_reducible assumption
    | with_reducible apply State.keepsOut_next
    | with_reducible apply State.reduce_keeps
    | intro)

theorem execShiftForward_keeps {s0 : State} (r : TaskRun) {s : State} (h : s0.Keeps s) :
    s0.KeepsOut (execShiftForward r s) := by
  unfold execShiftForward
  repeat' (first
    | with_reducible assumption
    | with_reducible apply State.keepsOut_next
    | with_reducible apply State.reduce_keeps
    | intro)

theorem execShiftBackward_keeps {s0 : State} (r : TaskRun) {s : State} (h : s0.Keeps s) :
    s0.KeepsOut (execShiftBackward r s) := by
  unfold execShiftBackward
  repeat' (first
    | with_reducible assumption
    | with_reducible apply State.keepsOut_next
    | with_reducible apply State.reduce_keeps
    | intro)

end Sys2Proof.Machine
end

