-- ==== Sys2Proof/Laws/KeepLife.lean ====
section
/-! SUPPORT. What the operations and commands of images, start-up, power, management and register writes keep: one law each (Laws/Keeps.lean). -/

namespace Sys2Proof.Machine

theorem State.putReg_keeps {s0 : State} {s : State} (off v : Nat) (h : s0.Keeps s) :
    s0.Keeps (State.putReg s off v) := by
  unfold State.putReg
  repeat' (first
    | with_reducible assumption
    | with_reducible apply State.setReg_keeps
    | simp only [State.keeps_mk_iff]
    | split
    | intro)

theorem State.putKeep_keeps {s0 : State} {s : State} (die w base limit : Nat) (h : s0.Keeps s) :
    s0.Keeps (State.putKeep s die w base limit) := by
  unfold State.putKeep
  repeat' (first
    | with_reducible assumption
    | with_reducible apply State.setFld_keeps
    | dsimp only
    | split
    | intro)

theorem State.putKeeps_keeps {s0 : State} {s : State} (ws : List MemRange) (h : s0.Keeps s) :
    s0.Keeps (State.putKeeps s ws) := by
  unfold State.putKeeps
  repeat' (first
    | with_reducible assumption
    | with_reducible apply State.setFld_keeps
    | with_reducible apply State.putKeep_keeps
    | with_reducible refine State.keeps_foldl ?_ ?_
    | simp only [State.keeps_mk_iff]
    | split
    | intro)

theorem State.markPort_keeps {s0 : State} {s : State} (c : Option Cascade) (p : Nat) (h : s0.Keeps s) :
    s0.Keeps (State.markPort s c p) := by
  unfold State.markPort
  repeat' (first
    | with_reducible assumption
    | with_reducible apply State.setFld_keeps
    | dsimp only
    | split
    | intro)

theorem State.putCascade_keeps {s0 : State} {s : State} (c : Option Cascade) (h : s0.Keeps s) :
    s0.Keeps (State.putCascade s c) := by
  unfold State.putCascade
  repeat' (first
    | with_reducible assumption
    | with_reducible apply State.putReg_keeps
    | with_reducible apply State.setFld_keeps
    | with_reducible apply State.markPort_keeps
    | with_reducible refine State.keeps_foldl ?_ ?_
    | dsimp only
    | intro)

theorem State.putSched_keeps {s0 : State} {s : State} (i : Image) (h : s0.Keeps s) :
    s0.Keeps (State.putSched s i) := by
  unfold State.putSched
  repeat' (first
    | with_reducible assumption
    | with_reducible apply State.setFld_keeps
    | with_reducible refine State.keeps_foldl ?_ ?_
    | simp only [State.keeps_mk_iff]
    | split
    | intro)

theorem State.putPegs_keeps {s0 : State} {s : State} (i : Image) (span : Option Nat) (h : s0.Keeps s) :
    s0.Keeps (State.putPegs s i span) := by
  unfold State.putPegs
  repeat' (first
    | with_reducible assumption
    | with_reducible apply State.resetRegs_keeps
    | with_reducible apply State.setFld_keeps
    | with_reducible refine State.keeps_foldl ?_ ?_
    | dsimp only
    | intro)

theorem State.putTies_keeps {s0 : State} {s : State} (i : Image) (span : Option Nat) (h : s0.Keeps s) :
    s0.Keeps (State.putTies s i span) := by
  unfold State.putTies
  repeat' (first
    | with_reducible assumption
    | with_reducible apply State.resetRegs_keeps
    | with_reducible apply State.setFld_keeps
    | with_reducible refine State.keeps_foldl ?_ ?_
    | dsimp only
    | intro)

theorem State.putSlots_keeps {s0 s : State} (i : Image) (span : Option Nat) (h : s0.Keeps s) :
    s0.Keeps (State.putSlots s i span) := by
  unfold State.putSlots
  dsimp only
  refine State.keeps_foldl ?_ fun s x hs => State.slotWrite_keeps _ _ _ hs
  exact State.keeps_mk_stores h (fun c => c.mem) (fun c => c.lath) (fun c => Store.wf_filter _ c.slots)
    (fun c => c.under)

theorem State.commitWords_keeps {s0 : State} {s : State} (key : Nat) (words : List (Nat × Nat)) (h : s0.Keeps s) :
    s0.Keeps (State.commitWords s key words) := by
  unfold State.commitWords
  repeat' (first
    | with_reducible assumption
    | with_reducible apply State.putReg_keeps
    | with_reducible apply State.putCommit_keeps
    | with_reducible refine State.keeps_foldl ?_ ?_
    | dsimp only
    | intro)

theorem State.putArbs_keeps {s0 : State} {s : State} (i : Image) (h : s0.Keeps s) :
    s0.Keeps (State.putArbs s i) := by
  unfold State.putArbs
  repeat' (first
    | with_reducible assumption
    | with_reducible apply State.commitWords_keeps
    | with_reducible refine State.keeps_foldl ?_ ?_
    | simp only [State.keeps_mk_iff]
    | split
    | intro)

theorem State.zeroSaves_keeps {s0 : State} {s : State} (i : Image) (span : Option Nat) (h : s0.Keeps s) :
    s0.Keeps (State.zeroSaves s i span) := by
  unfold State.zeroSaves
  repeat' (first
    | with_reducible assumption
    | with_reducible apply State.memPut_keeps
    | with_reducible refine State.keeps_foldl ?_ ?_
    | intro)

theorem State.putRing_keeps {s0 : State} {s : State} (i : Image) (e : QueueEntry) (q head : Nat) (h : s0.Keeps s) :
    s0.Keeps (State.putRing s i e q head) := by
  unfold State.putRing
  repeat' (first
    | with_reducible assumption
    | with_reducible apply State.memPut_keeps
    | with_reducible apply State.setQueue_keeps
    | with_reducible refine State.keeps_foldl ?_ ?_
    | simp only [State.keeps_mk_iff]
    | intro)

theorem State.putRings_keeps {s0 : State} {s : State} (i : Image) (span : Option Nat) (again : Bool) (h : s0.Keeps s) :
    s0.Keeps (State.putRings s i span again) := by
  unfold State.putRings
  repeat' (first
    | with_reducible assumption
    | with_reducible apply State.putRing_keeps
    | with_reducible refine State.keeps_foldl ?_ ?_
    | split
    | intro)

theorem State.putOccupants_keeps {s0 : State} {s : State} (i : Image) (span : Option Nat) (h : s0.Keeps s) :
    s0.Keeps (State.putOccupants s i span) := by
  unfold State.putOccupants
  repeat' (first
    | with_reducible assumption
    | with_reducible apply State.occupy_keeps
    | with_reducible apply State.loadLath_keeps
    | with_reducible refine State.keeps_foldl ?_ ?_
    | simp only [State.keeps_mk_iff]
    | split
    | intro)

theorem State.setUp_keeps {s0 : State} {s : State} (i : Image) (again : Bool) (h : s0.Keeps s) :
    s0.Keeps (State.setUp s i again) := by
  unfold State.setUp
  repeat' (first
    | with_reducible assumption
    | with_reducible apply State.putKeeps_keeps
    | with_reducible apply State.putCascade_keeps
    | with_reducible apply State.resetRegs_keeps
    | with_reducible apply State.putSched_keeps
    | with_reducible apply State.putPegs_keeps
    | with_reducible apply State.putTies_keeps
    | with_reducible apply State.putSlots_keeps
    | with_reducible apply State.putArbs_keeps
    | with_reducible apply State.zeroSaves_keeps
    | with_reducible apply State.putRings_keeps
    | with_reducible apply State.putOccupants_keeps
    | simp only [State.keeps_mk_iff]
    | intro)

theorem State.setUpDone_keeps {s0 : State} {s : State} (i : Image) (h : s0.Keeps s) :
    s0.Keeps (State.setUpDone s i) := by
  unfold State.setUpDone
  repeat' (first
    | with_reducible assumption
    | with_reducible apply State.setFld_keeps
    | with_reducible apply State.giveWatches_keeps
    | with_reducible apply State.raise_keeps
    | dsimp only
    | intro)

theorem State.refuseImage_keeps {s0 : State} {s : State} (r : Refuse) (h : s0.Keeps s) :
    s0.Keeps (State.refuseImage s r) := by
  unfold State.refuseImage
  repeat' (first
    | with_reducible assumption
    | with_reducible apply State.setFld_keeps
    | with_reducible apply State.raise_keeps
    | dsimp only
    | intro)

theorem State.admitImage_keeps {s0 : State} {s : State} (i : Image) (h : s0.Keeps s) :
    s0.Keeps (State.admitImage s i) := by
  unfold State.admitImage
  repeat' (first
    | with_reducible assumption
    | with_reducible apply State.resetRegs_keeps
    | with_reducible apply State.checkTable_keeps
    | with_reducible apply State.setFld_keeps
    | with_reducible refine State.keeps_foldl ?_ ?_
    | simp only [State.keeps_mk_iff]
    | intro)

theorem State.noteLoad_keeps {s0 : State} {s : State} (h : s0.Keeps s) :
    s0.Keeps (State.noteLoad s) := by
  unfold State.noteLoad
  repeat' (first
    | with_reducible assumption
    | with_reducible apply State.noteRead_keeps
    | simp only [State.keepsFst_iff]
    | with_reducible refine State.keeps_of_fst (by assumption) ?_
    | with_reducible refine State.keeps_of_fst3 (by assumption) ?_
    | with_reducible apply State.keeps_fst
    | split
    | intro)

theorem State.startLoad_keeps {s0 : State} {s : State} (p : Path) (h : s0.Keeps s) :
    s0.Keeps (State.startLoad s p) := by
  unfold State.startLoad
  repeat' (first
    | with_reducible assumption
    | with_reducible apply State.noteLoad_keeps
    | with_reducible apply State.refuseImage_keeps
    | with_reducible apply State.admitImage_keeps
    | with_reducible apply State.accessEvent_keeps
    | simp only [State.keeps_mk_iff]
    | split
    | intro)

theorem State.startUnload_keeps {s0 : State} {s : State} (p : Path) (h : s0.Keeps s) :
    s0.Keeps (State.startUnload s p) := by
  unfold State.startUnload
  repeat' (first
    | with_reducible assumption
    | with_reducible apply State.setFld_keeps
    | with_reducible apply State.accessEvent_keeps
    | split
    | intro)

theorem State.writeImgctl_keeps {s0 : State} {s : State} (p : Path) (load unload : Bool) (h : s0.Keeps s) :
    s0.Keeps (State.writeImgctl s p load unload) := by
  unfold State.writeImgctl
  repeat' (first
    | with_reducible assumption
    | with_reducible apply State.accessEvent_keeps
    | with_reducible apply State.startLoad_keeps
    | with_reducible apply State.startUnload_keeps
    | split
    | intro)

theorem execImageLoad_keeps {s0 : State} (p : Path) {s : State} (h : s0.Keeps s) :
    s0.KeepsOut (execImageLoad p s) := by
  unfold execImageLoad
  repeat' (first
    | with_reducible assumption
    | with_reducible apply State.keepsOut_next
    | with_reducible apply State.access_keeps
    | with_reducible apply State.writeImgctl_keeps
    | intro)

theorem execImageLoaded_keeps {s0 : State} {s : State} (h : s0.Keeps s) :
    s0.KeepsOut (execImageLoaded s) := by
  unfold execImageLoaded
  repeat' (first
    | with_reducible assumption
    | with_reducible apply State.keepsOut_next
    | with_reducible apply State.setUp_keeps
    | with_reducible apply State.setFld_keeps
    | with_reducible apply State.setUpDone_keeps
    | simp only [State.keeps_mk_iff]
    | split
    | intro)

theorem execImageUnload_keeps {s0 : State} (p : Path) {s : State} (h : s0.Keeps s) :
    s0.KeepsOut (execImageUnload p s) := by
  unfold execImageUnload
  repeat' (first
    | with_reducible assumption
    | with_reducible apply State.keepsOut_next
    | with_reducible apply State.access_keeps
    | with_reducible apply State.writeImgctl_keeps
    | intro)

theorem State.resetSets_keeps {s0 : State} {s : State} (h : s0.Keeps s) :
    s0.Keeps (State.resetSets s) := by
  unfold State.resetSets
  repeat' (first
    | with_reducible assumption
    | with_reducible apply State.resetRegs_keeps
    | simp only [State.keeps_mk_iff]
    | split
    | intro)

theorem State.clearImage_keeps {s0 s : State} (h : s0.Keeps s) : s0.Keeps (State.clearImage s) := by
  unfold State.clearImage
  dsimp only
  refine State.keeps_mk_stores (State.resetSets_keeps ?_) (fun c => c.mem) (fun c => c.lath)
    (fun _ => Store.wf_nil _) (fun c => c.under)
  repeat' (first
    | with_reducible assumption
    | with_reducible apply State.occupy_keeps
    | with_reducible apply State.setBay_keeps
    | with_reducible apply State.setFld_keeps
    | with_reducible apply State.putKeeps_keeps
    | with_reducible apply State.resetRegs_keeps
    | with_reducible refine State.keeps_foldl ?_ ?_
    | split
    | intro)

theorem execImageUnloadComplete_keeps {s0 : State} {s : State} (h : s0.Keeps s) :
    s0.KeepsOut (execImageUnloadComplete s) := by
  unfold execImageUnloadComplete
  repeat' (first
    | with_reducible assumption
    | with_reducible apply State.keepsOut_next
    | with_reducible apply State.clearImage_keeps
    | with_reducible apply State.setFld_keeps
    | with_reducible apply State.raise_keeps
    | dsimp only
    | split
    | intro)

theorem State.bringupFail_keeps {s0 : State} {s : State} (ecode : Nat) (h : s0.Keeps s) :
    s0.Keeps (State.bringupFail s ecode) := by
  unfold State.bringupFail
  repeat' (first
    | with_reducible assumption
    | with_reducible apply State.setFld_keeps
    | with_reducible apply State.raise_keeps
    | dsimp only
    | intro)

theorem State.verifyFirmware_keeps {s0 : State} {s : State} (slot0 slot1 : Bool) (h : s0.Keeps s) :
    s0.Keeps (State.verifyFirmware s slot0 slot1) := by
  unfold State.verifyFirmware
  repeat' (first
    | with_reducible assumption
    | with_reducible apply State.setFlag_keeps
    | with_reducible apply State.setFld_keeps
    | with_reducible apply State.raise_keeps
    | with_reducible apply State.bringupFail_keeps
    | simp only [State.keeps_mk_iff]
    | split
    | intro)

theorem State.showSpares_keeps {s0 : State} {s : State} (stack : Nat) (h : s0.Keeps s) :
    s0.Keeps (State.showSpares s stack) := by
  unfold State.showSpares
  repeat' (first
    | with_reducible assumption
    | with_reducible apply State.setFld_keeps
    | with_reducible refine State.keeps_foldl ?_ ?_
    | split
    | intro)

theorem State.settlePage_keeps {s0 : State} {s : State} (page : Nat) (h : s0.Keeps s) :
    s0.Keeps (State.settlePage s page) := by
  unfold State.settlePage
  repeat' (first
    | with_reducible assumption
    | with_reducible apply State.setFld_keeps
    | simp only [State.keeps_mk_iff]
    | intro)

theorem State.treatPage_keeps {s0 : State} {s : State} (page : Nat) (h : s0.Keeps s) :
    s0.Keeps (State.treatPage s page) := by
  unfold State.treatPage
  repeat' (first
    | with_reducible assumption
    | with_reducible apply State.settlePage_keeps
    | with_reducible apply State.showSpares_keeps
    | with_reducible apply State.raise_keeps
    | with_reducible apply State.setFld_keeps
    | simp only [State.keeps_mk_iff]
    | split
    | intro)

theorem State.reachStage_keeps {s0 s : State} (stage : Nat) (mesh : MeshTest) (h : s0.Keeps s) :
    s0.Keeps (State.reachStage s stage mesh) := by
  have hz : s0.Keeps { s with mem := [], poison := [] } := h.trans ⟨rfl, fun c => ⟨Store.wf_nil _, c.lath, c.slots, c.under⟩⟩
  unfold State.reachStage
  dsimp only
  split
  · split
    · exact State.bringupFail_keeps _ (State.trainMesh_keeps _ h)
    · exact State.setFld_keeps _ _ (State.setFld_keeps _ _ (State.trainMesh_keeps _ h))
  · exact State.setFld_keeps _ _ (State.keeps_foldl hz fun s x hs => State.treatPage_keeps _ hs)
  · split
    · exact State.setFld_keeps _ _ (State.keeps_mk_iff.2 h)
    · exact h
  · exact State.setFld_keeps _ _ h
  · exact h

theorem execBringupStageComplete_keeps {s0 : State} (r : StageResult) {s : State} (h : s0.Keeps s) :
    s0.KeepsOut (execBringupStageComplete r s) := by
  unfold execBringupStageComplete
  repeat' (first
    | with_reducible assumption
    | with_reducible apply State.keepsOut_next
    | with_reducible apply State.verifyFirmware_keeps
    | with_reducible apply State.reachStage_keeps
    | with_reducible apply State.bringupFail_keeps
    | dsimp only
    | split
    | intro)

theorem State.writeFeatAcc_keeps {s0 : State} {s : State} (p : Path) (k : Nat) (value : Word) (h : s0.Keeps s) :
    s0.Keeps (State.writeFeatAcc s p k value) := by
  unfold State.writeFeatAcc
  repeat' (first
    | with_reducible assumption
    | with_reducible apply State.accessEvent_keeps
    | with_reducible apply State.setReg_keeps
    | dsimp only
    | split
    | intro)

theorem execFeatAccWrite_keeps {s0 : State} (p : Path) (word reg : Nat) (value : Word) {s : State} (h : s0.Keeps s) :
    s0.KeepsOut (execFeatAccWrite p word reg value s) := by
  unfold execFeatAccWrite
  repeat' (first
    | with_reducible assumption
    | with_reducible apply State.keepsOut_next
    | with_reducible apply State.access_keeps
    | with_reducible apply State.writeFeatAcc_keeps
    | intro)

theorem State.lockWith_keeps {s0 : State} {s : State} (offending : Option (Nat × Nat)) (h : s0.Keeps s) :
    s0.Keeps (State.lockWith s offending) := by
  unfold State.lockWith
  repeat' (first
    | with_reducible assumption
    | with_reducible apply State.setFld_keeps
    | with_reducible apply State.raise_keeps
    | simp only [State.keeps_mk_iff]
    | split
    | intro)

theorem State.lockWords_keeps {s0 : State} {s : State} (h : s0.Keeps s) :
    s0.Keeps (State.lockWords s) := by
  unfold State.lockWords
  repeat' (first
    | with_reducible assumption
    | with_reducible apply State.lockWith_keeps
    | intro)

theorem State.writeFeatctl_keeps {s0 : State} {s : State} (p : Path) (lock : Bool) (h : s0.Keeps s) :
    s0.Keeps (State.writeFeatctl s p lock) := by
  unfold State.writeFeatctl
  repeat' (first
    | with_reducible assumption
    | with_reducible apply State.accessEvent_keeps
    | with_reducible apply State.lockWords_keeps
    | dsimp only
    | split
    | intro)

theorem execFeatureLock_keeps {s0 : State} (p : Path) (same : Option (Nat × Word)) {s : State} (h : s0.Keeps s) :
    s0.KeepsOut (execFeatureLock p same s) := by
  unfold execFeatureLock
  repeat' (first
    | with_reducible assumption
    | with_reducible apply State.keepsOut_next
    | with_reducible apply State.access_keeps
    | with_reducible apply State.writeFeatctl_keeps
    | with_reducible apply State.writeFeatAcc_keeps
    | simp only [State.keeps_mk_iff]
    | split
    | intro)

theorem State.settleRails_keeps {s0 : State} {s : State} (h : s0.Keeps s) :
    s0.Keeps (State.settleRails s) := by
  unfold State.settleRails
  repeat' (first
    | with_reducible assumption
    | with_reducible apply State.setFld_keeps
    | with_reducible refine State.keeps_foldl ?_ ?_
    | intro)

theorem State.resetThresh_keeps {s0 : State} {s : State} (h : s0.Keeps s) :
    s0.Keeps (State.resetThresh s) := by
  unfold State.resetThresh
  repeat' (first
    | with_reducible assumption
    | with_reducible apply State.setFld_keeps
    | with_reducible refine State.keeps_foldl ?_ ?_
    | intro)

theorem State.restart_keeps {s0 s : State} (keep : Nat → Bool) (h : s0.Keeps s) :
    s0.Keeps (State.restart s keep) := by
  unfold State.restart
  dsimp only
  refine State.resetThresh_keeps (State.Keeps.trans (t := s.settleRails) (State.settleRails_keeps h) ?_)
  exact ⟨rfl, fun c => ⟨c.mem, Store.wf_nil _, Store.wf_nil _, rfl⟩⟩

theorem State.closeService_keeps {s0 : State} {s : State} (event : Bool) (h : s0.Keeps s) :
    s0.Keeps (State.closeService s event) := by
  unfold State.closeService
  repeat' (first
    | with_reducible assumption
    | with_reducible apply State.setFld_keeps
    | with_reducible apply State.raise_keeps
    | dsimp only
    | split
    | intro)

theorem State.resetFlashing_keeps {s0 : State} {s : State} (h : s0.Keeps s) :
    s0.Keeps (State.resetFlashing s) := by
  unfold State.resetFlashing
  repeat' (first
    | with_reducible assumption
    | with_reducible apply State.setFld_keeps
    | with_reducible apply State.closeService_keeps
    | simp only [State.keeps_mk_iff]
    | split
    | intro)

theorem State.moduleReset_keeps {s0 : State} {s : State} (h : s0.Keeps s) :
    s0.Keeps (State.moduleReset s) := by
  unfold State.moduleReset
  repeat' (first
    | with_reducible assumption
    | with_reducible apply State.drainAll_keeps
    | with_reducible apply State.restart_keeps
    | with_reducible apply State.resetFlashing_keeps
    | intro)

theorem State.powerLoss_keeps {s0 s : State} (uv op : Bool) (h : s0.Keeps s) :
    s0.Keeps (State.powerLoss s uv op) := by
  unfold State.powerLoss
  dsimp only
  refine State.keeps_mk_stores ?_ (fun _ => Store.wf_nil _) (fun c => c.lath) (fun c => c.slots)
    (fun c => c.under)
  repeat' (first
    | with_reducible assumption
    | with_reducible apply State.setFlag_keeps
    | with_reducible apply State.resetReg_keeps
    | with_reducible apply State.setFld_keeps
    | with_reducible apply State.resetFlashing_keeps
    | with_reducible apply State.restart_keeps)

theorem State.railsUp_keeps {s0 : State} {s : State} (h : s0.Keeps s) :
    s0.Keeps (State.railsUp s) := by
  unfold State.railsUp
  repeat' (first
    | with_reducible assumption
    | with_reducible apply State.setFld_keeps
    | simp only [State.keeps_mk_iff]
    | split
    | intro)

theorem State.boot_keeps {s0 : State} {s : State} (pins : PowerPins) (h : s0.Keeps s) :
    s0.Keeps (State.boot s pins) := by
  unfold State.boot
  repeat' (first
    | with_reducible assumption
    | with_reducible apply State.restart_keeps
    | with_reducible apply State.resetFlashing_keeps
    | with_reducible apply State.setFld_keeps
    | dsimp only
    | split
    | intro)

theorem execPowerOn_keeps {s0 : State} (pins : PowerPins) (resetLow : Bool) {s : State} (h : s0.Keeps s) :
    s0.KeepsOut (execPowerOn pins resetLow s) := by
  unfold execPowerOn
  repeat' (first
    | with_reducible assumption
    | with_reducible apply State.keepsOut_next
    | with_reducible apply State.boot_keeps
    | with_reducible apply State.railsUp_keeps
    | simp only [State.keeps_mk_iff]
    | split
    | intro)

theorem execRailTimeout_keeps {s0 : State} (f : RailFail) {s : State} (h : s0.Keeps s) :
    s0.KeepsOut (execRailTimeout f s) := by
  unfold execRailTimeout
  repeat' (first
    | with_reducible assumption
    | with_reducible apply State.keepsOut_next
    | with_reducible apply State.closeService_keeps
    | with_reducible apply State.boot_keeps
    | with_reducible apply State.setFld_keeps
    | simp only [State.keeps_mk_iff]
    | split
    | intro)

theorem execUnderVoltageShutoff_keeps {s0 : State} {s : State} (h : s0.Keeps s) :
    s0.KeepsOut (execUnderVoltageShutoff s) := by
  unfold execUnderVoltageShutoff
  repeat' (first
    | with_reducible assumption
    | with_reducible apply State.keepsOut_next
    | with_reducible apply State.powerLoss_keeps
    | split
    | intro)

theorem execOverVoltageShutoff_keeps {s0 : State} {s : State} (h : s0.Keeps s) :
    s0.KeepsOut (execOverVoltageShutoff s) := by
  unfold execOverVoltageShutoff
  repeat' (first
    | with_reducible assumption
    | with_reducible apply State.keepsOut_next
    | with_reducible apply State.powerLoss_keeps
    | split
    | intro)

theorem execOverPowerShutoff_keeps {s0 : State} {s : State} (h : s0.Keeps s) :
    s0.KeepsOut (execOverPowerShutoff s) := by
  unfold execOverPowerShutoff
  repeat' (first
    | with_reducible assumption
    | with_reducible apply State.keepsOut_next
    | with_reducible apply State.powerLoss_keeps
    | split
    | intro)

theorem execPowerExcursion_keeps {s0 : State} (peak : Nat) {s : State} (h : s0.Keeps s) :
    s0.KeepsOut (execPowerExcursion peak s) := by
  unfold execPowerExcursion
  repeat' (first
    | with_reducible assumption
    | with_reducible apply State.keepsOut_next
    | with_reducible apply State.setFld_keeps
    | with_reducible apply State.raise_keeps
    | dsimp only
    | split
    | intro)

theorem State.writeReset_keeps {s0 : State} {s : State} (p : Path) (v : Nat) (h : s0.Keeps s) :
    s0.Keeps (State.writeReset s p v) := by
  unfold State.writeReset
  repeat' (first
    | with_reducible assumption
    | with_reducible apply State.accessEvent_keeps
    | with_reducible apply State.moduleReset_keeps
    | with_reducible apply State.bayReset_keeps
    | simp only [State.keeps_mk_iff]
    | split
    | intro)

theorem execModuleReset_keeps {s0 : State} (p : Path) (value : Word) {s : State} (h : s0.Keeps s) :
    s0.KeepsOut (execModuleReset p value s) := by
  unfold execModuleReset
  repeat' (first
    | with_reducible assumption
    | with_reducible apply State.keepsOut_next
    | with_reducible apply State.access_keeps
    | with_reducible apply State.writeReset_keeps
    | intro)

theorem execWarmReset_keeps {s0 : State} (p : Path) (value : Word) {s : State} (h : s0.Keeps s) :
    s0.KeepsOut (execWarmReset p value s) := by
  unfold execWarmReset
  repeat' (first
    | with_reducible assumption
    | with_reducible apply State.keepsOut_next
    | with_reducible apply State.access_keeps
    | with_reducible apply State.writeReset_keeps
    | intro)

theorem execSpanReset_keeps {s0 : State} (p : Path) (value : Word) {s : State} (h : s0.Keeps s) :
    s0.KeepsOut (execSpanReset p value s) := by
  unfold execSpanReset
  repeat' (first
    | with_reducible assumption
    | with_reducible apply State.keepsOut_next
    | with_reducible apply State.access_keeps
    | with_reducible apply State.writeReset_keeps
    | intro)

theorem execBayReset_keeps {s0 : State} (p : Path) (value : Word) {s : State} (h : s0.Keeps s) :
    s0.KeepsOut (execBayReset p value s) := by
  unfold execBayReset
  repeat' (first
    | with_reducible assumption
    | with_reducible apply State.keepsOut_next
    | with_reducible apply State.access_keeps
    | with_reducible apply State.writeReset_keeps
    | intro)

theorem State.resetBays_keeps {s0 s : State} (mine : Nat → Bool) (h : s0.Keeps s) :
    s0.Keeps (State.resetBays s mine) := by
  unfold State.resetBays
  dsimp only
  exact State.keeps_mk_stores (State.resetRegs_keeps _ h) (fun c => c.mem) (fun c => Store.wf_filter _ c.lath)
    (fun c => c.slots) (fun c => c.under)

theorem State.resetDies_keeps {s0 : State} {s : State} (h : s0.Keeps s) :
    s0.Keeps (State.resetDies s) := by
  unfold State.resetDies
  repeat' (first
    | with_reducible assumption
    | with_reducible apply State.resetBays_keeps
    | with_reducible apply State.resetSets_keeps
    | with_reducible apply State.resetRegs_keeps
    | simp only [State.keeps_mk_iff]
    | intro)

theorem State.applyAgain_keeps {s0 : State} {s : State} (h : s0.Keeps s) :
    s0.Keeps (State.applyAgain s) := by
  unfold State.applyAgain
  repeat' (first
    | with_reducible assumption
    | with_reducible apply State.setUp_keeps
    | with_reducible apply State.setUpDone_keeps
    | simp only [State.keeps_mk_iff]
    | split
    | intro)

theorem execWarmResetComplete_keeps {s0 : State} (mesh : MeshTest) {s : State} (h : s0.Keeps s) :
    s0.KeepsOut (execWarmResetComplete mesh s) := by
  unfold execWarmResetComplete
  repeat' (first
    | with_reducible assumption
    | with_reducible apply State.keepsOut_next
    | with_reducible apply State.drainAll_keeps
    | with_reducible apply State.resetDies_keeps
    | with_reducible apply State.trainMesh_keeps
    | with_reducible apply State.applyAgain_keeps
    | with_reducible apply State.raise_keeps
    | with_reducible apply State.setFld_keeps
    | simp only [State.keeps_mk_iff]
    | split
    | intro)

theorem State.applySpan_keeps {s0 : State} {s : State} (i : Image) (span : Nat) (h : s0.Keeps s) :
    s0.Keeps (State.applySpan s i span) := by
  unfold State.applySpan
  repeat' (first
    | with_reducible assumption
    | with_reducible apply State.putPegs_keeps
    | with_reducible apply State.putTies_keeps
    | with_reducible apply State.putSlots_keeps
    | with_reducible apply State.zeroSaves_keeps
    | with_reducible apply State.putRings_keeps
    | with_reducible apply State.putOccupants_keeps
    | simp only [State.keeps_mk_iff]
    | intro)

theorem execSpanResetComplete_keeps {s0 : State} (span : Nat) {s : State} (h : s0.Keeps s) :
    s0.KeepsOut (execSpanResetComplete span s) := by
  unfold execSpanResetComplete
  repeat' (first
    | with_reducible assumption
    | with_reducible apply State.keepsOut_next
    | with_reducible apply State.resetBays_keeps
    | with_reducible apply State.applySpan_keeps
    | with_reducible apply State.giveWatches_keeps
    | with_reducible apply State.raise_keeps
    | simp only [State.keeps_mk_iff]
    | split
    | intro)

theorem State.pinReset_keeps {s0 : State} {s : State} (h : s0.Keeps s) :
    s0.Keeps (State.pinReset s) := by
  unfold State.pinReset
  repeat' (first
    | with_reducible assumption
    | with_reducible apply State.moduleReset_keeps
    | with_reducible apply State.railsUp_keeps
    | with_reducible apply State.raise_keeps
    | simp only [State.keeps_mk_iff]
    | split
    | intro)

theorem execResetPin_keeps {s0 : State} (lowNs : Nat) {s : State} (h : s0.Keeps s) :
    s0.KeepsOut (execResetPin lowNs s) := by
  unfold execResetPin
  repeat' (first
    | with_reducible assumption
    | with_reducible apply State.keepsOut_next
    | with_reducible apply State.pinReset_keeps
    | split
    | intro)

theorem execResetInputRelease_keeps {s0 : State} {s : State} (h : s0.Keeps s) :
    s0.KeepsOut (execResetInputRelease s) := by
  unfold execResetInputRelease
  repeat' (first
    | with_reducible assumption
    | with_reducible apply State.keepsOut_next
    | simp only [State.keeps_mk_iff]
    | split
    | intro)

theorem execResetShortPulse_keeps {s0 : State} (lowNs : Nat) {s : State} (h : s0.Keeps s) :
    s0.KeepsOut (execResetShortPulse lowNs s) := by
  unfold execResetShortPulse
  repeat' (first
    | with_reducible assumption
    | with_reducible apply State.keepsOut_next
    | with_reducible apply State.bump_keeps
    | with_reducible apply State.setFld_keeps
    | split
    | intro)

theorem execPcieHotReset_keeps {s0 : State} {s : State} (h : s0.Keeps s) :
    s0.KeepsOut (execPcieHotReset s) := by
  unfold execPcieHotReset
  repeat' (first
    | with_reducible assumption
    | with_reducible apply State.keepsOut_next
    | simp only [State.keeps_mk_iff]
    | split
    | intro)

theorem State.sleepDies_keeps {s0 s : State} (h : s0.Keeps s) : s0.Keeps (State.sleepDies s) := by
  unfold State.sleepDies
  dsimp only
  exact State.keeps_mk_stores (State.resetRegs_keeps _ (State.drainAll_keeps h)) (fun c => c.mem)
    (fun _ => Store.wf_nil _) (fun _ => Store.wf_nil _) (fun c => c.under)

theorem State.enterDormer2_keeps {s0 : State} {s : State} (h : s0.Keeps s) :
    s0.Keeps (State.enterDormer2 s) := by
  unfold State.enterDormer2
  repeat' (first
    | with_reducible assumption
    | with_reducible apply State.sleepDies_keeps
    | with_reducible apply State.setFld_keeps
    | with_reducible apply State.raise_keeps
    | dsimp only
    | intro)

theorem State.enterDormer3_keeps {s0 s : State} (h : s0.Keeps s) : s0.Keeps (State.enterDormer3 s) := by
  unfold State.enterDormer3
  dsimp only
  refine State.keeps_mk_stores ?_ (fun _ => Store.wf_nil _) (fun c => c.lath) (fun c => c.slots)
    (fun c => c.under)
  exact State.setFld_keeps _ _ (State.setFld_keeps _ _ (State.restart_keeps _ (State.sleepDies_keeps h)))

theorem State.writeDormer_keeps {s0 : State} {s : State} (p : Path) (req : Nat) (h : s0.Keeps s) :
    s0.Keeps (State.writeDormer s p req) := by
  unfold State.writeDormer
  repeat' (first
    | with_reducible assumption
    | with_reducible apply State.setFld_keeps
    | with_reducible apply State.enterDormer2_keeps
    | with_reducible apply State.enterDormer3_keeps
    | with_reducible apply State.raise_keeps
    | with_reducible apply State.accessEvent_keeps
    | simp only [State.keeps_mk_iff]
    | split
    | intro)

theorem execDormer1Request_keeps {s0 : State} (p : Path) {s : State} (h : s0.Keeps s) :
    s0.KeepsOut (execDormer1Request p s) := by
  unfold execDormer1Request
  repeat' (first
    | with_reducible assumption
    | with_reducible apply State.keepsOut_next
    | with_reducible apply State.access_keeps
    | with_reducible apply State.writeDormer_keeps
    | intro)

theorem execDormer2Request_keeps {s0 : State} (p : Path) {s : State} (h : s0.Keeps s) :
    s0.KeepsOut (execDormer2Request p s) := by
  unfold execDormer2Request
  repeat' (first
    | with_reducible assumption
    | with_reducible apply State.keepsOut_next
    | with_reducible apply State.access_keeps
    | with_reducible apply State.writeDormer_keeps
    | intro)

theorem execDormer3Request_keeps {s0 : State} (p : Path) {s : State} (h : s0.Keeps s) :
    s0.KeepsOut (execDormer3Request p s) := by
  unfold execDormer3Request
  repeat' (first
    | with_reducible assumption
    | with_reducible apply State.keepsOut_next
    | with_reducible apply State.access_keeps
    | with_reducible apply State.writeDormer_keeps
    | intro)

theorem execDormerExit_keeps {s0 : State} (p : Path) {s : State} (h : s0.Keeps s) :
    s0.KeepsOut (execDormerExit p s) := by
  unfold execDormerExit
  repeat' (first
    | with_reducible assumption
    | with_reducible apply State.keepsOut_next
    | with_reducible apply State.access_keeps
    | with_reducible apply State.writeDormer_keeps
    | intro)

theorem execOperationDormer3Enter_keeps {s0 : State} {s : State} (h : s0.Keeps s) :
    s0.KeepsOut (execOperationDormer3Enter s) := by
  unfold execOperationDormer3Enter
  repeat' (first
    | with_reducible assumption
    | with_reducible apply State.keepsOut_next
    | with_reducible apply State.enterDormer3_keeps
    | split
    | intro)

theorem execOperationDormer3Leave_keeps {s0 : State} {s : State} (h : s0.Keeps s) :
    s0.KeepsOut (execOperationDormer3Leave s) := by
  unfold execOperationDormer3Leave
  repeat' (first
    | with_reducible assumption
    | with_reducible apply State.keepsOut_next
    | with_reducible apply State.railsUp_keeps
    | with_reducible apply State.raise_keeps
    | with_reducible apply State.closeService_keeps
    | split
    | intro)

theorem State.pmbus_keeps {s0 : State} {s : State} (answer : Nat) (h : s0.Keeps s) :
    s0.Keeps (State.pmbus s answer) := by
  unfold State.pmbus
  repeat' (first
    | with_reducible assumption
    | simp only [State.keeps_mk_iff]
    | split
    | intro)

theorem execClearFaults_keeps {s0 : State} {s : State} (h : s0.Keeps s) :
    s0.KeepsOut (execClearFaults s) := by
  unfold execClearFaults
  repeat' (first
    | with_reducible assumption
    | with_reducible apply State.keepsOut_next
    | simp only [State.keeps_mk_iff]
    | split
    | intro)

theorem execStatusWord_keeps {s0 : State} {s : State} (h : s0.Keeps s) :
    s0.KeepsOut (execStatusWord s) := by
  unfold execStatusWord
  repeat' (first
    | with_reducible assumption
    | with_reducible apply State.keepsOut_next
    | with_reducible apply State.pmbus_keeps
    | dsimp only
    | split
    | intro)

theorem execReadVin_keeps {s0 : State} (decivolts : Nat) {s : State} (h : s0.Keeps s) :
    s0.KeepsOut (execReadVin decivolts s) := by
  unfold execReadVin
  repeat' (first
    | with_reducible assumption
    | with_reducible apply State.keepsOut_next
    | with_reducible apply State.setFld_keeps
    | with_reducible apply State.pmbus_keeps
    | split
    | intro)

theorem execReadIin_keeps {s0 : State} (milliamps : Nat) {s : State} (h : s0.Keeps s) :
    s0.KeepsOut (execReadIin milliamps s) := by
  unfold execReadIin
  repeat' (first
    | with_reducible assumption
    | with_reducible apply State.keepsOut_next
    | with_reducible apply State.pmbus_keeps
    | intro)

theorem execReadVout_keeps {s0 : State} (centivolts : Nat) {s : State} (h : s0.Keeps s) :
    s0.KeepsOut (execReadVout centivolts s) := by
  unfold execReadVout
  repeat' (first
    | with_reducible assumption
    | with_reducible apply State.keepsOut_next
    | with_reducible apply State.setFld_keeps
    | with_reducible apply State.pmbus_keeps
    | split
    | intro)

theorem execReadTemperature1_keeps {s0 : State} (degC die : Nat) {s : State} (h : s0.Keeps s) :
    s0.KeepsOut (execReadTemperature1 degC die s) := by
  unfold execReadTemperature1
  repeat' (first
    | with_reducible assumption
    | with_reducible apply State.keepsOut_next
    | with_reducible apply State.setFld_keeps
    | with_reducible apply State.pmbus_keeps
    | split
    | intro)

theorem execReadPout_keeps {s0 : State} (watts : Nat) {s : State} (h : s0.Keeps s) :
    s0.KeepsOut (execReadPout watts s) := by
  unfold execReadPout
  repeat' (first
    | with_reducible assumption
    | with_reducible apply State.keepsOut_next
    | with_reducible apply State.pmbus_keeps
    | intro)

theorem execReadPin_keeps {s0 : State} (watts : Nat) {s : State} (h : s0.Keeps s) :
    s0.KeepsOut (execReadPin watts s) := by
  unfold execReadPin
  repeat' (first
    | with_reducible assumption
    | with_reducible apply State.keepsOut_next
    | with_reducible apply State.setFld_keeps
    | with_reducible apply State.pmbus_keeps
    | split
    | intro)

theorem execPmbusRevision_keeps {s0 : State} {s : State} (h : s0.Keeps s) :
    s0.KeepsOut (execPmbusRevision s) := by
  unfold execPmbusRevision
  repeat' (first
    | with_reducible assumption
    | with_reducible apply State.keepsOut_next
    | with_reducible apply State.pmbus_keeps
    | intro)

theorem State.darken_keeps {s0 : State} {s : State} (unit : Nat) (h : s0.Keeps s) :
    s0.Keeps (State.darken s unit) := by
  unfold State.darken
  repeat' (first
    | with_reducible assumption
    | with_reducible apply State.setFld_keeps
    | with_reducible apply State.portDark_keeps
    | with_reducible refine State.keeps_foldl ?_ ?_
    | dsimp only
    | split
    | intro)

theorem execInterlockOpen_keeps {s0 : State} (microamps : Nat) {s : State} (h : s0.Keeps s) :
    s0.KeepsOut (execInterlockOpen microamps s) := by
  unfold execInterlockOpen
  repeat' (first
    | with_reducible assumption
    | with_reducible apply State.keepsOut_next
    | with_reducible apply State.setFld_keeps
    | with_reducible apply State.bump_keeps
    | with_reducible apply State.darken_keeps
    | with_reducible apply State.raise_keeps
    | with_reducible refine State.keeps_foldl ?_ ?_
    | simp only [State.keeps_mk_iff]
    | split
    | intro)

theorem execInterlockClose_keeps {s0 : State} (microamps : Nat) {s : State} (h : s0.Keeps s) :
    s0.KeepsOut (execInterlockClose microamps s) := by
  unfold execInterlockClose
  repeat' (first
    | with_reducible assumption
    | with_reducible apply State.keepsOut_next
    | with_reducible apply State.setFld_keeps
    | simp only [State.keeps_mk_iff]
    | split
    | intro)

theorem execLaserPresenceOpen_keeps {s0 : State} (unit : Nat) {s : State} (h : s0.Keeps s) :
    s0.KeepsOut (execLaserPresenceOpen unit s) := by
  unfold execLaserPresenceOpen
  repeat' (first
    | with_reducible assumption
    | with_reducible apply State.keepsOut_next
    | with_reducible apply State.darken_keeps
    | simp only [State.keeps_mk_iff]
    | split
    | intro)

theorem execLaserPresenceClose_keeps {s0 : State} (unit : Nat) {s : State} (h : s0.Keeps s) :
    s0.KeepsOut (execLaserPresenceClose unit s) := by
  unfold execLaserPresenceClose
  repeat' (first
    | with_reducible assumption
    | with_reducible apply State.keepsOut_next
    | simp only [State.keeps_mk_iff]
    | split
    | intro)

theorem execLaserRelight_keeps {s0 : State} (unit : Nat) {s : State} (h : s0.Keeps s) :
    s0.KeepsOut (execLaserRelight unit s) := by
  unfold execLaserRelight
  repeat' (first
    | with_reducible assumption
    | with_reducible apply State.keepsOut_next
    | with_reducible apply State.setFld_keeps
    | with_reducible refine State.keeps_foldl ?_ ?_
    | simp only [State.keeps_mk_iff]
    | split
    | intro)

theorem State.install_keeps {s0 : State} {s : State} (h : s0.Keeps s) :
    s0.Keeps (State.install s) := by
  unfold State.install
  repeat' (first
    | with_reducible assumption
    | with_reducible apply State.setFld_keeps
    | with_reducible apply State.raise_keeps
    | with_reducible apply State.noteRead_keeps
    | simp only [State.keepsFst_iff]
    | with_reducible refine State.keeps_of_fst (by assumption) ?_
    | with_reducible refine State.keeps_of_fst3 (by assumption) ?_
    | with_reducible apply State.keeps_fst
    | simp only [State.keeps_mk_iff]
    | split
    | intro)

theorem State.commitVersion_keeps {s0 : State} {s : State} (h : s0.Keeps s) :
    s0.Keeps (State.commitVersion s) := by
  unfold State.commitVersion
  repeat' (first
    | with_reducible assumption
    | with_reducible apply State.setFld_keeps
    | split
    | intro)

theorem State.writeFwctl_keeps {s0 : State} {s : State} (install commit : Bool) (h : s0.Keeps s) :
    s0.Keeps (State.writeFwctl s install commit) := by
  unfold State.writeFwctl
  repeat' (first
    | with_reducible assumption
    | with_reducible apply State.install_keeps
    | with_reducible apply State.commitVersion_keeps
    | dsimp only
    | split
    | intro)

theorem execFwInstall_keeps {s0 : State} (p : Path) {s : State} (h : s0.Keeps s) :
    s0.KeepsOut (execFwInstall p s) := by
  unfold execFwInstall
  repeat' (first
    | with_reducible assumption
    | with_reducible apply State.keepsOut_next
    | with_reducible apply State.access_keeps
    | with_reducible apply State.writeFwctl_keeps
    | intro)

theorem execFwCommit_keeps {s0 : State} (p : Path) {s : State} (h : s0.Keeps s) :
    s0.KeepsOut (execFwCommit p s) := by
  unfold execFwCommit
  repeat' (first
    | with_reducible assumption
    | with_reducible apply State.keepsOut_next
    | with_reducible apply State.access_keeps
    | with_reducible apply State.writeFwctl_keeps
    | intro)

theorem State.svcEnd_keeps {s0 : State} {s : State} (failed : Bool) (h : s0.Keeps s) :
    s0.Keeps (State.svcEnd s failed) := by
  unfold State.svcEnd
  repeat' (first
    | with_reducible assumption
    | with_reducible apply State.setFlag_keeps
    | with_reducible apply State.setFld_keeps
    | with_reducible apply State.resetRegs_keeps
    | dsimp only
    | intro)

theorem State.openService_keeps {s0 : State} {s : State} (how : Nat) (h : s0.Keeps s) :
    s0.Keeps (State.openService s how) := by
  unfold State.openService
  repeat' (first
    | with_reducible assumption
    | with_reducible apply State.setFld_keeps
    | with_reducible apply State.raise_keeps
    | dsimp only
    | intro)

theorem State.refusePassword_keeps {s0 : State} {s : State} (h : s0.Keeps s) :
    s0.Keeps (State.refusePassword s) := by
  unfold State.refusePassword
  repeat' (first
    | with_reducible assumption
    | with_reducible apply State.raise_keeps
    | intro)

theorem State.svcSet_keeps {s0 : State} {s : State} (h : s0.Keeps s) :
    s0.Keeps (State.svcSet s) := by
  unfold State.svcSet
  repeat' (first
    | with_reducible assumption
    | with_reducible apply State.refusePassword_keeps
    | with_reducible apply State.svcEnd_keeps
    | with_reducible apply State.setFld_keeps
    | simp only [State.keeps_mk_iff]
    | split
    | intro)

theorem State.svcTry_keeps {s0 : State} {s : State} (h : s0.Keeps s) :
    s0.Keeps (State.svcTry s) := by
  unfold State.svcTry
  repeat' (first
    | with_reducible assumption
    | with_reducible apply State.setFld_keeps
    | simp only [State.keeps_mk_iff]
    | intro)

theorem State.svcTryEnd_keeps {s0 : State} {s : State} (h : s0.Keeps s) :
    s0.Keeps (State.svcTryEnd s) := by
  unfold State.svcTryEnd
  repeat' (first
    | with_reducible assumption
    | with_reducible apply State.setFld_keeps
    | with_reducible apply State.refusePassword_keeps
    | with_reducible apply State.svcEnd_keeps
    | with_reducible apply State.openService_keeps
    | simp only [State.keeps_mk_iff]
    | split
    | intro)

theorem State.svcChallenge_keeps {s0 : State} {s : State} (h : s0.Keeps s) :
    s0.Keeps (State.svcChallenge s) := by
  unfold State.svcChallenge
  repeat' (first
    | with_reducible assumption
    | with_reducible apply State.setFld_keeps
    | with_reducible apply State.svcEnd_keeps
    | with_reducible apply State.takeFree_keeps
    | with_reducible refine State.keeps_foldl ?_ ?_
    | simp only [State.keepsSnd_iff]
    | with_reducible refine State.keeps_of_snd (by assumption) ?_
    | with_reducible apply State.keeps_snd
    | simp only [State.keeps_mk_iff]
    | split
    | intro)

theorem State.svcResponse_keeps {s0 : State} {s : State} (h : s0.Keeps s) :
    s0.Keeps (State.svcResponse s) := by
  unfold State.svcResponse
  repeat' (first
    | with_reducible assumption
    | with_reducible apply State.resetRegs_keeps
    | with_reducible apply State.openService_keeps
    | with_reducible apply State.svcEnd_keeps
    | simp only [State.keeps_mk_iff]
    | split
    | intro)

theorem State.svcClose_keeps {s0 : State} {s : State} (h : s0.Keeps s) :
    s0.Keeps (State.svcClose s) := by
  unfold State.svcClose
  repeat' (first
    | with_reducible assumption
    | with_reducible apply State.closeService_keeps
    | with_reducible apply State.svcEnd_keeps
    | intro)

theorem State.writeSvc_keeps {s0 : State} {s : State} (p : Path) (cmd key : Nat) (h : s0.Keeps s) :
    s0.Keeps (State.writeSvc s p cmd key) := by
  unfold State.writeSvc
  repeat' (first
    | with_reducible assumption
    | with_reducible apply State.accessEvent_keeps
    | with_reducible apply State.svcSet_keeps
    | with_reducible apply State.svcTry_keeps
    | with_reducible apply State.svcChallenge_keeps
    | with_reducible apply State.svcResponse_keeps
    | with_reducible apply State.svcClose_keeps
    | with_reducible apply State.svcEnd_keeps
    | simp only [State.keeps_mk_iff]
    | split
    | intro)

theorem execSvcSet_keeps {s0 : State} (p : Path) (key : Nat) {s : State} (h : s0.Keeps s) :
    s0.KeepsOut (execSvcSet p key s) := by
  unfold execSvcSet
  repeat' (first
    | with_reducible assumption
    | with_reducible apply State.keepsOut_next
    | with_reducible apply State.access_keeps
    | with_reducible apply State.writeSvc_keeps
    | intro)

theorem execSvcTry_keeps {s0 : State} (p : Path) (key : Nat) {s : State} (h : s0.Keeps s) :
    s0.KeepsOut (execSvcTry p key s) := by
  unfold execSvcTry
  repeat' (first
    | with_reducible assumption
    | with_reducible apply State.keepsOut_next
    | with_reducible apply State.access_keeps
    | with_reducible apply State.writeSvc_keeps
    | intro)

theorem execSvcTryComplete_keeps {s0 : State} {s : State} (h : s0.Keeps s) :
    s0.KeepsOut (execSvcTryComplete s) := by
  unfold execSvcTryComplete
  repeat' (first
    | with_reducible assumption
    | with_reducible apply State.keepsOut_next
    | with_reducible apply State.svcTryEnd_keeps
    | split
    | intro)

theorem execSvcChallenge_keeps {s0 : State} (p : Path) (key : Nat) {s : State} (h : s0.Keeps s) :
    s0.KeepsOut (execSvcChallenge p key s) := by
  unfold execSvcChallenge
  repeat' (first
    | with_reducible assumption
    | with_reducible apply State.keepsOut_next
    | with_reducible apply State.access_keeps
    | with_reducible apply State.writeSvc_keeps
    | intro)

theorem execSvcResponse_keeps {s0 : State} (p : Path) (key : Nat) {s : State} (h : s0.Keeps s) :
    s0.KeepsOut (execSvcResponse p key s) := by
  unfold execSvcResponse
  repeat' (first
    | with_reducible assumption
    | with_reducible apply State.keepsOut_next
    | with_reducible apply State.access_keeps
    | with_reducible apply State.writeSvc_keeps
    | intro)

theorem execSvcClose_keeps {s0 : State} (p : Path) (key : Nat) {s : State} (h : s0.Keeps s) :
    s0.KeepsOut (execSvcClose p key s) := by
  unfold execSvcClose
  repeat' (first
    | with_reducible assumption
    | with_reducible apply State.keepsOut_next
    | with_reducible apply State.access_keeps
    | with_reducible apply State.writeSvc_keeps
    | intro)

theorem State.writeArb_keeps {s0 : State} {s : State} (p : Path) (blk o value : Nat) (h : s0.Keeps s) :
    s0.Keeps (State.writeArb s p blk o value) := by
  unfold State.writeArb
  repeat' (first
    | with_reducible assumption
    | with_reducible apply State.writeVlyCommit_keeps
    | with_reducible apply State.accessEvent_keeps
    | with_reducible apply State.writeShadow_keeps
    | with_reducible apply State.writeCode_keeps
    | split
    | intro)

theorem State.writeSpecial_keeps {s0 : State} {s : State} (p : Path) (off value : Nat) (h : s0.Keeps s) :
    s0.KeepsOpt (State.writeSpecial s p off value) := by
  unfold State.writeSpecial
  repeat' (first
    | with_reducible assumption
    | with_reducible apply State.writeFeatAcc_keeps
    | with_reducible apply State.setPeg_keeps
    | with_reducible apply State.writeFeatctl_keeps
    | with_reducible apply State.writeReset_keeps
    | with_reducible apply State.writeDormer_keeps
    | with_reducible apply State.writeAperture_keeps
    | with_reducible apply State.writeImgctl_keeps
    | with_reducible apply State.writeRing_keeps
    | with_reducible apply State.writeRead_keeps
    | with_reducible apply State.writeEvtCtl_keeps
    | with_reducible apply State.writeSvc_keeps
    | with_reducible apply State.writeFwctl_keeps
    | with_reducible apply State.keepsOpt_some
    | with_reducible exact State.keepsOpt_none
    | with_reducible refine State.keepsOpt_map ?_
    | with_reducible apply State.keeps_getD
    | simp only [State.keeps_mk_iff]
    | split
    | intro)

theorem State.writeOne_keeps {s0 : State} {s : State} (p : Path) (off value : Nat) (h : s0.Keeps s) :
    s0.Keeps (State.writeOne s p off value) := by
  unfold State.writeOne
  repeat' (first
    | with_reducible assumption
    | with_reducible apply State.writeArb_keeps
    | with_reducible apply State.writeUndGroup_keeps
    | with_reducible apply State.writeUndCommit_keeps
    | with_reducible apply State.accessEvent_keeps
    | with_reducible apply State.writeCode_keeps
    | with_reducible apply State.writeSpecial_keeps
    | with_reducible apply State.keepsOpt_some
    | with_reducible exact State.keepsOpt_none
    | with_reducible refine State.keepsOpt_map ?_
    | with_reducible apply State.keeps_getD
    | with_reducible refine State.keeps_of_opt (by assumption) ?_
    | simp only [State.keeps_mk_iff]
    | split
    | intro)

theorem State.write32_keeps {s0 : State} {s : State} (p : Path) (off value : Nat) (h : s0.Keeps s) :
    s0.Keeps (State.write32 s p off value) := by
  unfold State.write32
  repeat' (first
    | with_reducible assumption
    | with_reducible apply State.access_keeps
    | with_reducible apply State.writeOne_keeps
    | intro)

theorem State.writeN_keeps {s0 : State} {s : State} (p : Path) (off width value : Nat) (h : s0.Keeps s) :
    s0.Keeps (State.writeN s p off width value) := by
  unfold State.writeN
  repeat' (first
    | with_reducible assumption
    | with_reducible apply State.write32_keeps
    | with_reducible apply State.accessEvent_keeps
    | split
    | intro)

theorem State.imgctlNeither_keeps {s0 : State} {s : State} (h : s0.Keeps s) :
    s0.Keeps (State.imgctlNeither s) := by
  unfold State.imgctlNeither
  repeat' (first
    | with_reducible assumption
    | with_reducible apply State.access_keeps
    | with_reducible apply State.accessEvent_keeps
    | dsimp only
    | split
    | intro)

theorem State.writeBoth_keeps {s0 : State} {s : State} (off width : Nat) (host bus : BitVec 64) (h : s0.Keeps s) :
    s0.Keeps (State.writeBoth s off width host bus) := by
  unfold State.writeBoth
  repeat' (first
    | with_reducible assumption
    | with_reducible apply State.imgctlNeither_keeps
    | with_reducible apply State.writeN_keeps
    | split
    | intro)

theorem execRegisterWrite_keeps {s0 : State} (p : Path) (off width : Nat) (value : RegValue) {s : State} (h : s0.Keeps s) :
    s0.KeepsOut (execRegisterWrite p off width value s) := by
  unfold execRegisterWrite
  repeat' (first
    | with_reducible assumption
    | with_reducible apply State.keepsOut_next
    | with_reducible apply State.writeN_keeps
    | with_reducible apply State.writeBoth_keeps
    | simp only [State.keeps_mk_iff]
    | split
    | intro)

theorem execRegisterRead_keeps {s0 : State} (p : Path) (off : Nat) (r : RegRead) {s : State} (h : s0.Keeps s) :
    s0.KeepsOut (execRegisterRead p off r s) := by
  unfold execRegisterRead
  repeat' (first
    | with_reducible assumption
    | with_reducible apply State.keepsOut_next
    | with_reducible apply State.readInto_keeps
    | with_reducible apply State.writeN_keeps
    | simp only [State.keeps_mk_iff]
    | split
    | intro)

theorem State.advancePointer_keeps {s0 : State} {s : State} (h : s0.Keeps s) :
    s0.Keeps (State.advancePointer s) := by
  unfold State.advancePointer
  repeat' (first
    | with_reducible assumption
    | simp only [State.keeps_mk_iff]
    | intro)

theorem State.busCommand_keeps {s0 : State} {s : State} (pecOk : Bool) (act : State → State) (h : s0.Keeps s) (hact : ∀ s, s0.Keeps s → s0.Keeps (act s)) :
    s0.Keeps (State.busCommand s pecOk act) := by
  unfold State.busCommand
  repeat' (first
    | with_reducible assumption
    | with_reducible apply hact
    | simp only [State.keeps_mk_iff]
    | split
    | intro)

theorem execSetAccessPointer_keeps {s0 : State} (offset : Nat) (pecOk : Bool) {s : State} (h : s0.Keeps s) :
    s0.KeepsOut (execSetAccessPointer offset pecOk s) := by
  unfold execSetAccessPointer
  repeat' (first
    | with_reducible assumption
    | with_reducible apply State.keepsOut_next
    | with_reducible apply State.busCommand_keeps
    | simp only [State.keeps_mk_iff]
    | intro)

theorem execReadAtPointer_keeps {s0 : State} (pecOk : Bool) {s : State} (h : s0.Keeps s) :
    s0.KeepsOut (execReadAtPointer pecOk s) := by
  unfold execReadAtPointer
  repeat' (first
    | with_reducible assumption
    | with_reducible apply State.keepsOut_next
    | with_reducible apply State.busCommand_keeps
    | with_reducible apply State.readInto_keeps
    | with_reducible apply State.advancePointer_keeps
    | intro)

theorem execWriteAtPointer_keeps {s0 : State} (value : Word) (pecOk : Bool) {s : State} (h : s0.Keeps s) :
    s0.KeepsOut (execWriteAtPointer value pecOk s) := by
  unfold execWriteAtPointer
  repeat' (first
    | with_reducible assumption
    | with_reducible apply State.keepsOut_next
    | with_reducible apply State.busCommand_keeps
    | with_reducible apply State.writeN_keeps
    | with_reducible apply State.advancePointer_keeps
    | intro)

theorem execAlertResponse_keeps {s0 : State} {s : State} (h : s0.Keeps s) :
    s0.KeepsOut (execAlertResponse s) := by
  unfold execAlertResponse
  repeat' (first
    | with_reducible assumption
    | with_reducible apply State.keepsOut_next
    | simp only [State.keeps_mk_iff]
    | split
    | intro)

theorem execBusClockTimeout_keeps {s0 : State} (_target : Nat) {s : State} (h : s0.Keeps s) :
    s0.KeepsOut (execBusClockTimeout _target s) := by
  unfold execBusClockTimeout
  repeat' (first
    | with_reducible assumption
    | with_reducible apply State.keepsOut_next
    | intro)

end Sys2Proof.Machine
end

