-- ==== Sys2Proof/Tests/Slice0.lean ====
section
/-! SUPPORT. The model's own tests: ill-formed commands are refused by WellFormed, worked numbers of the manual, and for
every statement that has hypotheses a state and operands that meet them. -/

set_option Elab.async false

open Sys2Proof Sys2Proof.Machine

namespace Sys2Proof.Tests

/-! ### Small states -/

/-- A module that runs: the rails are up and module reset is released. -/
def on : State :=
  { State.reset with power := { Power.reset with input := true, rails := 0x7F, released := true } }

/-- The state after a command. -/
def after (i : Instr) (s : State) : State :=
  match exec i s with
  | .next t => t
  | _ => s

/-- A module with register words set. -/
def withRegs (l : List (Nat × Nat)) : State :=
  { on with regs := l.map fun x => (x.1, BitVec.ofNat 32 x.2) }

/-- A module whose EXPERT and CORE bits are agreed. -/
def expertOn : State := withRegs [(0x50, 1), (0x60, 1), (0x94, 1)]

/-- A module in Dormer-2. -/
def asleep : State := { on with transit := { Transit.idle with diesOff := true, selfRefresh := true } }

/-! ### WellFormed: an ill-formed term for each check, which the check refuses -/

theorem test_wf_bay : Bay.wf ⟨24, 0⟩ = false ∧ Bay.wf ⟨0, 8⟩ = false ∧ Bay.wf ⟨23, 7⟩ = true := by decide
theorem test_wf_pbay : PBay.wf ⟨24, 0⟩ = false ∧ PBay.wf ⟨0, 9⟩ = false ∧ PBay.wf ⟨23, 8⟩ = true := by decide
theorem test_wf_source : Source.wf ⟨32, 0⟩ = false ∧ Source.wf ⟨0, 128⟩ = false := by decide
theorem test_wf_eng : Eng.wf ⟨2, .encode, 0⟩ = false ∧ Eng.wf ⟨0, .decode, 4⟩ = false ∧
    Eng.wf ⟨0, .preprocess, 1⟩ = false := by decide
theorem test_wf_slot : slotWf ⟨0, .decode, 0⟩ 8 = false ∧ slotWf ⟨0, .preprocess, 0⟩ 1 = false ∧
    slotWf ⟨2, .decode, 0⟩ 0 = false := by decide
theorem test_wf_port : portWf 32 = false ∧ stackWf 12 = false ∧ offWf (2 ^ 28) = false := by decide

/-- A piece for context 0 of the module at the origin. -/
def msg : Msg :=
  { mtype := 1, ctx := 0, tag := 0, dest := 0, src := 1, collseq := 0, offset := 0, len := 2, data := [7, 8] }

theorem test_wf_msg : msg.wf = true ∧ { msg with mtype := 16 }.wf = false ∧ { msg with ctx := 64 }.wf = false ∧
    { msg with tag := 2 ^ 16 }.wf = false ∧ { msg with dest := 2 ^ 14 }.wf = false ∧
    { msg with src := 2 ^ 14 }.wf = false ∧ { msg with collseq := 2 ^ 16 }.wf = false ∧
    { msg with offset := 2 ^ 32 }.wf = false ∧ { msg with len := 16385 }.wf = false := by decide

/-- No requests at a Lath but the given ones of the station. -/
def stationAsks (l : List Nat) : LathAsks := { station := l, feed := [], fill := [], purlin := [] }

/-- Pins of a card whose interlock loop is closed. -/
def pins (slotId : Nat) : PowerPins := { slotId := slotId, microamps := 5000 }

theorem test_wf_access : [Instr.registerRead .host (2 ^ 28) ⟨4, none⟩, .registerWrite .bus (2 ^ 28) 4 ⟨0, none⟩,
    .bar2Read (2 ^ 32) 1, .bar2Write (2 ^ 32) [none], .doorbell (2 ^ 20) [], .doorbell 0x30 (List.replicate 17 none),
    .pegCountWrite .host 65536 0 none, .pegCountWrite .host 0 0 (some ⟨.add, 1, 32, 0⟩),
    .featAccWrite .host 4 0 0].all (fun i => !i.wf) = true := by decide

theorem test_wf_course : [Instr.courseBoundary [32], .gemm ⟨24, 0⟩ 0 ⟨0, none⟩, .conv ⟨⟨0, 8⟩, 0, ⟨0, none⟩⟩,
    .arbiterGrant 0 [] [⟨16, none⟩], .arbiterGrant 0 [⟨0, 16384, ⟨0, 0⟩⟩] [],
    .arbiterGrant 0 [] [⟨0, some (⟨0, .encode, 4⟩, 0)⟩], .taskComplete ⟨0, 0⟩ 16384 0 0,
    .gutterWrite ⟨0, 0⟩ ⟨0, 128⟩ (stationAsks []), .gutterWrite ⟨0, 0⟩ ⟨2, 0⟩ (stationAsks []),
    .gutterWrite ⟨0, 0⟩ ⟨0, 0⟩ (stationAsks [2 ^ 22]), .trussFault ⟨0, 0⟩ ⟨3, 0, none⟩,
    .sparePrepared 24].all (fun i => !i.wf) = true := by decide

theorem test_wf_memory : [Instr.loftRead 0 0 16 0 none, .refreshRateChange 0 256, .liveDeadline 0 .encode 0 0,
    .encodeRingSpace 0 (.decode, 0) 0].all (fun i => !i.wf) = true := by decide

theorem test_wf_links : [Instr.meshLaneMark 0 0 0 false, .laneSpareRequest 0 9, .flitReceive 0 [] [] [],
    .nakReceive 0 4096, .streamRead 0 msg, .portDark 0 3, .trainingStart 0 512 0].all (fun i => !i.wf) = true := by
  decide

theorem test_wf_module : [Instr.powerOn (pins 64) false, .railTimeout ⟨7, pins 0⟩, .railTimeout ⟨1, pins 64⟩,
    .warmReset .host 1, .resetPin 999, .resetShortPulse 1000, .interlockOpen 1001, .interlockClose 2999,
    .laserRelight 4, .svcSet .host 256, .busClockTimeout 2, .fatalFault 0 3].all (fun i => !i.wf) = true := by decide

/-! ### Numbers of the manual -/

/-- 01 R30: the sub-window of physical bay 5 on Rafter die 17 begins at 0x0215_0000. -/
theorem test_bay_window : bayBase ⟨17, 5⟩ = 0x02150000 := by decide

/-- 01 R33: module address 0x35_2000_1000 lies in stack 3. -/
theorem test_stack_of_address : stackOf (0x35 * 2 ^ 32 + 0x20001000) = 3 := by decide

/-- 01 R12: the dies beside Rafter die 0 on the floor map: none to the north, die 24 to the west; none west of die 30. -/
theorem test_floor_map : meshNeighbour 0 0 = none ∧ meshNeighbour 0 1 = some 1 ∧ meshNeighbour 0 2 = some 6 ∧
    meshNeighbour 0 3 = some 24 ∧ meshNeighbour 30 3 = none ∧ meshNeighbour 17 1 = some 31 := by decide

/-- 10 R261: sectors 17 and 48 of a 1 KiB-aligned region lie in bank 17; 32 sectors from a 1 KiB boundary in 32 banks. -/
theorem test_lath_banks : lathBank (17 * 32) = 17 ∧ lathBank (48 * 32) = 17 ∧
    ((List.range 32).map fun i => lathBank (i * 32)).Nodup := by decide

/-- 10 R274: the 64 chunks of 16 KiB lie in 64 pseudo-channels, a chunk in one row, and 32 addresses 2 GiB apart in 32. -/
theorem test_stack_map : ((List.range 64).map fun i => (stackPlace (i * 256)).channel).Nodup ∧
    ((List.range 32).map fun i => (stackPlace (i * 2 ^ 31)).channel).Nodup ∧
    (stackPlace 0xFFFFF00).row = (stackPlace 0xFFFFFFF).row := by decide

/-- 00 R6: an 8-bit read answers 0xFF, and a 64-bit read aligned to 4 bytes alone answers all ones. -/
theorem test_malformed_reads : (after (.registerRead .host 0xA0 ⟨1, none⟩) on).resp = .word 0xFF ∧
    (after (.registerRead .host 0x20014 ⟨8, none⟩) on).resp = .word 0xFFFFFFFFFFFFFFFF := by decide

/-- 01 R521: Kingpost offset 0x0_F000 is unpopulated. -/
theorem test_unpopulated : on.refuses 0xF000 = some 8 := by decide

/-- 00 R4: the course count wraps at 48 bits. -/
theorem test_course_wraps :
    (after (.courseBoundary []) { on with course := { Course.reset with count := BitVec.allOnes 48 } }).course.count
      = 0 := by decide

/-- A record of the event collector. -/
def record : EventRec :=
  { src := ⟨30, 3⟩, seq := 0x01020304, course := 0x060504030201, cls := 0xC, num := 0x07, detail := 0xABCDEF }

/-- 02 R53: the 16 bytes of a record. -/
theorem test_record_bytes : record.toBytes =
    [4, 3, 2, 1, 1, 2, 3, 4, 5, 6, 3, 0x7F, 0xC0, 0xEF, 0xCD, 0xAB].map (BitVec.ofNat 8) := by decide

/-! ### Hypotheses that are met: accesses and memory (statements O1 to O19) -/

/-- A line of 128 bytes with its first byte given. -/
def lineData : List (Option Byte) := some 5 :: List.replicate 127 none

/-- A module with one byte waiting in the Underlay of stack 0. -/
def waitingByte : State := { on with under := [{ line := 0, data := lineData }] }

/-- A module with a poisoned sector at 0x40. -/
def poisoned : State := { on with poison := [0x40] }

/-- A module whose page 1 of stack 0 is retired. -/
def retiredPage : State := withRegs [(0x10B0100, 0x80000001)]

theorem test_meets_StepRunsFront : on.pending = [] := by decide

theorem test_meets_StepKeepsCanonical : State.reset.Canonical ∧ step State.reset = .next State.reset :=
  ⟨⟨by decide, by decide, by decide, by decide⟩, rfl⟩

theorem test_canonical_waiting : waitingByte.Canonical :=
  ⟨by decide, by decide, by decide, by decide +kernel⟩

theorem test_canonical_on : on.Canonical := ⟨by decide, by decide, by decide, by decide⟩

theorem test_meets_AccessRefused : asleep.reach .host = true ∧ ¬(1 = 4 ∧ 0xA0 % 4 = 0) ∧ ¬(1 = 8 ∧ 0xA0 % 8 = 0) ∧
    (RegMap.dieOf 0x1000000 = some 0 ∧ asleep.powered 0 = false) ∧
    (RegMap.at? 0xF000 = none ∧ RegMap.dieOf 0xF000 = some 30 ∧ asleep.powered 30 = true) := by decide

/-- Two writes that do not bring LOAD and UNLOAD together, two that do, and one that brings both. -/
theorem test_meets_WideAccess : 0x20000 % 8 = 0 ∧ on.reach .host = true ∧ State.reset.reach .host = false ∧
    on.imgctlClash 0x10018 4 1 1 = false ∧ on.imgctlClash 0x10018 4 1 2 = true ∧ on.reach .bus = true ∧
    on.refuses 0x10018 = none ∧ (1 % 2 + 2 % 2) * (1 / 2 % 2 + 2 / 2 % 2) ≠ 0 ∧
    (3 % 2 + 0 % 2) * (3 / 2 % 2 + 0 / 2 % 2) ≠ 0 := by decide

/-- A closed RWL register, and an RW register. -/
theorem test_meets_WriteByCode : on.Carries .host 0x2000C ∧
    (∃ r, RegMap.at? 0x2000C = some r ∧ (∃ f ∈ r.fields, f.acc = .rwl)) ∧ on.service = false ∧
    (on.writeSpecial .host 0x2000C 1).isNone = true ∧ RegMap.arbBlock 0x2000C = none ∧ undDie 0 0x2000C = none ∧
    undDie 4 0x2000C = none ∧ (on.reach .host = true ∧ on.refuses 0x100108 = none) ∧
    (RegMap.at? 0x100108).any (fun r => r.fields.all fun f => decide (f.acc ≠ .rwl)) = true :=
  ⟨⟨by decide, by decide⟩, ⟨_, rfl, by decide⟩, by and_intros <;> decide⟩

/-- A register whose word is the stored one, and one that follows from other state. -/
theorem test_meets_ReadByCode : on.Carries .bus 0x2000C ∧ 0x2000C % 4 = 0 ∧ (RegMap.at? 0x2000C).isSome = true ∧
    derivedReg 0x2000C = false ∧ on.Carries .host 0x20008 ∧ derivedReg 0x20008 = true := by
  simp only [State.Carries]; decide

theorem test_meets_CounterFieldWrite : PBay.wf ⟨23, 8⟩ = true ∧ on.Carries .host (Reg.bayCvt0Sat ⟨23, 8⟩).off ∧
    on.Carries .host (Reg.bayCvt1Flush ⟨23, 8⟩).off := by
  simp only [State.Carries]; decide

/-- BAY_FAST0, BAY_ROWST0, BAY_ATTN0, BAY_SWAPS, EAV_FEC, EAV_TAG and FL_ILK have such fields, each without an RWL one. -/
theorem test_meets_CounterFieldWrite_every : [(Reg.bayFast0Flush ⟨0, 0⟩).off, (Reg.bayRowst0Clamp ⟨0, 0⟩).off,
    (Reg.bayAttn0Skip ⟨0, 0⟩).off, (Reg.eavFecCorr 31).off, (Reg.eavTagVoid 0).off].all (fun off =>
      on.reach .host && (on.refuses off).isNone && (RegMap.at? off).any fun r =>
        r.fields.any (fun f => f.cnt && decide (f.acc = .rw)) && r.fields.all fun f => decide (f.acc ≠ .rwl)) = true := by
  decide +kernel

theorem test_meets_W1cClear : on.Carries .host 0x100104 ∧
    ∃ r, RegMap.at? 0x100104 = some r ∧ ∃ f ∈ r.fields, f.acc = .w1c :=
  ⟨⟨by decide, by decide⟩, ⟨_, rfl, by decide⟩⟩

theorem test_meets_CourseLatches : on.reach .host = true ∧ on.reach .bus = true ∧ on.up = true := by decide

theorem test_meets_ApertureAndClock : 0xBF % 256 ≤ 0xBF ∧ 0xBF < 0xC0 % 256 ∧
    (withRegs [(0x180000, 1)]).service = true ∧ on.service = false ∧ (withRegs [(0x180000, 1)]).up = true := by decide

theorem test_meets_MemoryWriteReadsBack : waitingByte.up = true ∧ waitingByte.transit.diesOff = false ∧
    waitingByte.writable 0xBFFFFFFFFF = true ∧ waitingByte.writable 0xC000000000 = false ∧
    retiredPage.writable 0x10000 = false ∧ retiredPage.writable 0xFFFF = true ∧
    waitingByte.unitRuns ⟨23, 8⟩ = true ∧ (on.setFld Reg.kpDormerState 1).unitRuns ⟨23, 8⟩ = false ∧
    (on.setFld Reg.kpDormerState 1).unitRuns ⟨30, 0⟩ = true := by decide

/-- KP_APERTURE at the last window below the map's end. -/
def lastWindow : State := withRegs [(0x10000, 0xC0)]

/-- Reads that meet no poisoned sector, one, and the end of the map. -/
theorem test_meets_Bar2Access : on.up = true ∧ on.transit.diesOff = false ∧ 0x3F + 1 ≤ memLimit ∧
    (∀ x, 0x3F ≤ x → x < 0x3F + 1 → poisoned.retired x = false) ∧ poisoned.poisonedIn 0x3F (min 1 (memLimit - 0x3F)) = [] ∧
    0x40 ∈ poisoned.poisonedIn 0x3F (min 2 (memLimit - 0x3F)) ∧ poisoned.retired 0x40 = false ∧
    memLimit < lastWindow.fld Reg.kpApertureBase * 2 ^ 32 + 0 + 1 ∧ lastWindow.up = true ∧
    asleep.up = true ∧ asleep.transit.diesOff = true ∧ State.reset.up = false :=
  ⟨by decide, by decide, by decide, fun x h1 h2 => by
    have h : x = 0x3F := by omega
    subst h; decide, by and_intros <;> decide⟩

/-- Grouping is on, with the after-reset conditions, and none of them holds. -/
theorem test_meets_UnderlayDrain : waitingByte.liveFld (Reg.undGroupEn (stackDie 0)) = 1 ∧
    ¬(waitingByte.liveFld (Reg.undGroupBatch (stackDie 0)) ≤ ((waitingByte.channelEntries 0 0).map drainable).sum ∨
      waitingByte.liveFld (Reg.undGroupAge (stackDie 0)) * 64 ≤ 0 ∨
      waitingByte.liveFld (Reg.undGroupHigh (stackDie 0)) ≤ waitingByte.occupancy 0) ∧
    (waitingByte.channelEntries 0 0).length = 1 := by decide

/-- A Loft of die 0 that holds sector 0 of the line at 0. -/
def lofted : State :=
  { on with loft := [(0, { set := 0, way := 0, tag := 0, sectors := [some (List.replicate 32 9), none, none, none] })] }

/-- A module whose Rafter dies Dormer-1 has stopped. -/
def stopped : State := on.setFld Reg.kpDormerState 1

theorem test_meets_LoftSector_stopped : stopped.clocked = false ∧ stopped.powered 23 = true ∧
    lofted.clocked = true ∧ on.clocked = true := by decide

/-- A sector in a retired page, and the first one beyond the map. -/
theorem test_meets_LoftSector_refused : retiredPage.powered 0 = true ∧ retiredPage.clocked = true ∧
    retiredPage.retired (0x10000 / 128 * 128 + 32 * 0) = true ∧ memLimit ≤ 0xC000000000 / 128 * 128 + 32 * 0 := by decide

theorem test_meets_LoftSector : on.powered 23 = true ∧
    (∃ l, lofted.loftLine 0 0 = some l ∧ l.sectors.getD 0 none = some (List.replicate 32 9)) ∧
    (∀ l, lofted.loftLine 0 0 = some l → l.sectors.length = 4 ∧ l.sectors.getD 3 none = none) ∧
    0 / 128 * 128 + 32 * 0 < memLimit ∧ lofted.retired 0 = false ∧ 0 / 128 * 128 + 32 * 3 < memLimit ∧ lofted.retired 96 = false ∧ 96 ∉ lofted.poison :=
  ⟨by decide, ⟨_, rfl, by decide⟩, fun l h => by
    have e : lofted.loftLine 0 0 = some ⟨0, 0, 0, [some (List.replicate 32 9), none, none, none]⟩ := by decide
    rw [e] at h; cases h; decide, by decide, by decide, by decide⟩

theorem test_meets_StackRead : on.up = true ∧ on.transit.diesOff = false ∧ 0xBFFFFFFFFF / 32 * 32 < memLimit ∧
    on.retired (0xBFFFFFFFFF / 32 * 32) = false ∧ 0xBFFFFFFFFF / 32 * 32 ∉ on.poison ∧
    retiredPage.retired (0x10000 / 32 * 32) = true ∧ memLimit ≤ 0xC000000000 / 32 * 32 := by decide

/-- Not hot at 86 °C, hot at 83 °C, and hot at 84 °C. -/
theorem test_meets_RefreshRate : on.powered (stackDie 11) = true ∧ ¬on.fld (Reg.hbmTempHot (stackDie 11)) = 1 ∧
    (withRegs [(0x10B0000, 0x100)]).fld (Reg.hbmTempHot (stackDie 0)) = 1 ∧
    (withRegs [(0x10B0000, 0x100)]).powered (stackDie 0) = true ∧ 85 < 86 ∧ 83 ≤ 83 ∧ ¬84 ≤ 83 := by decide

theorem test_meets_UnderlayRegisters : expertOn.expert = true ∧ on.expert = false ∧
    [(Reg.undGroupEn 23).off, (Reg.undCommitGo 23).off, (Reg.undStatOcc 23).off].all (fun off =>
      on.reach .host && (on.refuses off).isNone && expertOn.reach .host && (expertOn.refuses off).isNone) = true ∧
    waitingByte.occupancy (dieStack 0) < 512 ∧
    (1 ≤ 0x1000102 / 2 % 2 ^ 7 ∧ 1 ≤ 0x1000102 / 2 ^ 8 % 2 ^ 8 ∧ 1 ≤ 0x1000102 / 2 ^ 16 % 2 ^ 9 ∧
      0x1000102 / 2 ^ 16 % 2 ^ 9 ≤ 0x100) ∧ ¬0x1010102 / 2 ^ 16 % 2 ^ 9 ≤ 0x100 := by decide

/-! ### Hypotheses that are met: synchronisation, events and the course (statements O20 to O29) -/

/-- A context whose partition holds pegs 0 to 99 and ties 0 to 9. -/
def context : Context :=
  { pegBase := 0, pegCount := 100, tieBase := 0, tieCount := 10, span := 0, lathSave := 4, lathLoad := 8,
    saveBase := 0x100000, preBase := 0x200000, credits := List.replicate 32 1 }

/-- A plan record of bay 0 of die 0 for an opcode. -/
def planOf (opcode : Nat) : Plan :=
  { opcode := opcode, die := 0, bays := 1, forms := 1, budget := 14289, pair := none,
    maxs := List.replicate 6 256, tiles := [(1, 16, 16)], be := false }

/-- A latency-critical queue of context 0, and one of context 1. -/
def queue0 : QueueEntry :=
  { ring := 0x300000, log2 := 5, be := false, prio := 0, ctx := 0, span := 0, arith := 0, headRep := 0, slot := none }

/-- An image with the plan records of all opcodes: that of opcode k is number k - 1. -/
def image : Image :=
  { excl := false, reqFeat := [], contexts := [context], spans := [1], queues := [queue0],
    plans := (List.range 14).map fun k => planOf (k + 1), descs := [], frame := 1, courses := [], pegs := [],
    ties := [⟨1, 2, 5⟩], arbs := [], ranges := [], tables := [], streams := [], sessions := [], cascade := none,
    swapMax := 1, beq := 0, lcHold := 0, und := [] }

/-- A task of queue 0 with a descriptor given as one number. -/
def taskOf (d : Nat) : Task := { queue := 0, pos := 0, desc := toLe 128 d, bwd := [], wait := 0 }

/-- A descriptor: opcode, plan record of the opcode, a budget of 8,000 cycles, and the body's bytes. -/
def descOf (op : Nat) (body : List (Nat × Nat)) : Nat :=
  op + (op - 1) * 2 ^ 16 + 8000 * 2 ^ 32 + (body.map fun x => x.2 * 2 ^ (8 * x.1)).sum

/-- A module that runs the image, with one task selected on bay 0 of die 0. -/
def ready (t : Task) : State :=
  { withRegs [(4, 7), (0x1001C, 3)] with
    image := some image
    bays := [(0, { BayState.empty with selected := [t] })] }

/-- The state in which a task's operation is performed. -/
def inputsRead (s : State) (b : PBay) (t : Task) : State :=
  let c := (s.readTask b t).1
  (c.noteRuns (srcBay b) (c.taskRuns t.desc t.bwd)).1

/-- Whether the front task of a logical bay may start and its row runs it. -/
def willStart (s : State) (l : Bay) (row : Nat × Nat) (b : PBay) (t : Task) : Bool :=
  let c := (s.readTask b t).1
  decide (s.frontTask l row = some (b, t)) && decide ((s.readTask b t).2 = (.runs, false)) &&
    (c.staleRead b t).isNone && !(c.noteRuns (srcBay b) (c.taskRuns t.desc t.bwd)).2

theorem starts_of {s : State} {l : Bay} {row : Nat × Nat} {b : PBay} {t : Task} (h : willStart s l row b t = true) :
    s.Starts l row b t (inputsRead s b t) := by
  simp only [willStart, Bool.and_eq_true, decide_eq_true_eq, Option.isNone_iff_eq_none, Bool.not_eq_true'] at h
  exact ⟨h.1.1.1, _, Prod.ext rfl h.1.1.2, h.1.2, Prod.ext rfl h.2⟩

/-- PEG with an operation, a peg and a value. -/
def pegTask (op peg value : Nat) : Task := taskOf (descOf opPeg [(32, peg), (34, op), (36, value)])

/-- TIE with an operation and a tie. -/
def tieTask (op tie : Nat) : Task := taskOf (descOf opTie [(32, tie), (34, op)])

theorem test_meets_PegHostWrite : on.Carries .bus (Reg.pegCountCount 65535).off ∧
    (ready (pegTask 1 0 0)).Carries .host (Reg.pegCountCount 99).off ∧ (ready (pegTask 1 0 0)).pegIn 0 99 = true ∧
    (ready (pegTask 1 0 0)).pegIn 0 100 = false :=
  ⟨⟨by decide +kernel, by decide +kernel⟩, ⟨by decide +kernel, by decide +kernel⟩, by and_intros <;> decide +kernel⟩

theorem test_meets_PegTask :
    (ready (pegTask 1 99 7)).Starts ⟨0, 0⟩ (opPeg, 1) ⟨0, 0⟩ (pegTask 1 99 7)
      (inputsRead (ready (pegTask 1 99 7)) ⟨0, 0⟩ (pegTask 1 99 7)) ∧
    (ready (pegTask 2 99 7)).Starts ⟨0, 0⟩ (opPeg, 2) ⟨0, 0⟩ (pegTask 2 99 7)
      (inputsRead (ready (pegTask 2 99 7)) ⟨0, 0⟩ (pegTask 2 99 7)) ∧
    (ready (pegTask 3 100 7)).Starts ⟨0, 0⟩ (opPeg, 3) ⟨0, 0⟩ (pegTask 3 100 7)
      (inputsRead (ready (pegTask 3 100 7)) ⟨0, 0⟩ (pegTask 3 100 7)) :=
  ⟨starts_of (by decide +kernel),
   starts_of (by decide +kernel),
   starts_of (by decide +kernel)⟩

/-- A task whose operation was performed before an abort starts again. -/
theorem test_meets_PegTask_acted : let t : Task := { pegTask 1 99 7 with acted := true }
    (ready t).Starts ⟨0, 0⟩ (opPeg, 1) ⟨0, 0⟩ t (inputsRead (ready t) ⟨0, 0⟩ t) ∧ t.acted = true ∧
    (pegTask 1 99 7).acted = false :=
  ⟨starts_of (by decide +kernel), rfl, rfl⟩

/-- A watch on its way to the peg unit. -/
def watch (peg : Nat) : Watch :=
  { bay := ⟨0, 0⟩, queue := 0, peg := peg, thresh := 1, ctx := 0, arrived := false, woken := false }

/-- A module with a watch on its way. -/
def watching (peg : Nat) : State := { ready (pegTask 1 0 0) with watches := [watch peg] }

theorem test_meets_WatchArrive :
    ((watching 99).watches.find? fun x => decide (x.queue = 0 ∧ x.arrived = false)) = some (watch 99) ∧
    (watching 99).pegIn 0 99 = true ∧
    ((watching 100).watches.find? fun x => decide (x.queue = 0 ∧ x.arrived = false)) = some (watch 100) ∧
    (watching 100).pegIn 0 100 = false := by decide +kernel

/-- A module with a TIE task on tie 1, at which one of two members has arrived or none. -/
def tied (op n arrived : Nat) : State :=
  let s := ready (tieTask op n)
  { s with regs := s.regs ++ [(0x80004, BitVec.ofNat 32 (arrived + 2 * 2 ^ 8)), (0x84004, 5)] }

/-- The release, an arrival before it, and a reset of a tie; tie 10 is outside the partition and is not listed, so that
no task on it starts. -/
theorem test_meets_TieTask :
    (tied 1 1 1).Starts ⟨0, 0⟩ (opTie, 1) ⟨0, 0⟩ (tieTask 1 1) (inputsRead (tied 1 1 1) ⟨0, 0⟩ (tieTask 1 1)) ∧
    (tied 1 1 0).Starts ⟨0, 0⟩ (opTie, 1) ⟨0, 0⟩ (tieTask 1 1) (inputsRead (tied 1 1 0) ⟨0, 0⟩ (tieTask 1 1)) ∧
    (tied 2 1 1).Starts ⟨0, 0⟩ (opTie, 2) ⟨0, 0⟩ (tieTask 2 1) (inputsRead (tied 2 1 1) ⟨0, 0⟩ (tieTask 2 1)) :=
  ⟨starts_of (by decide +kernel), starts_of (by decide +kernel), starts_of (by decide +kernel)⟩

theorem test_meets_TieTask_release : (tied 1 1 1).tieIn 0 1 = true ∧
    (tied 1 1 1).fld (Reg.tieStatArrived 1) + 1 = (tied 1 1 1).fld (Reg.tieStatMembers 1) ∧
    (tied 1 1 1).fld (Reg.tieRelPeg 1) = 5 ∧ (tied 1 1 1).pegIn 0 5 = true ∧
    (tied 1 1 0).fld (Reg.tieStatArrived 1) + 1 ≠ (tied 1 1 0).fld (Reg.tieStatMembers 1) := by decide +kernel

theorem test_meets_TieTask_acted : let t : Task := { tieTask 1 1 with acted := true }
    let s : State := { tied 1 1 1 with bays := [(0, { BayState.empty with selected := [t] })] }
    s.Starts ⟨0, 0⟩ (opTie, 1) ⟨0, 0⟩ t (inputsRead s ⟨0, 0⟩ t) ∧ t.acted = true ∧ (tieTask 1 1).acted = false :=
  ⟨starts_of (by decide +kernel), rfl, rfl⟩

/-- The image with tie 10, which no context owns. -/
def foreignTie (op : Nat) : State :=
  { ready (tieTask op 10) with image := some { image with ties := [⟨10, 2, 5⟩] } }

theorem test_meets_TieTask_foreign :
    (foreignTie 1).Starts ⟨0, 0⟩ (opTie, 1) ⟨0, 0⟩ (tieTask 1 10) (inputsRead (foreignTie 1) ⟨0, 0⟩ (tieTask 1 10)) ∧
    (foreignTie 2).Starts ⟨0, 0⟩ (opTie, 2) ⟨0, 0⟩ (tieTask 2 10) (inputsRead (foreignTie 2) ⟨0, 0⟩ (tieTask 2 10)) ∧
    (foreignTie 1).tieIn 0 10 = false :=
  ⟨starts_of (by decide +kernel),
   starts_of (by decide +kernel),
   by decide +kernel⟩

/-- A module that runs the image with nothing to do. -/
def running : State := { ready (pegTask 1 0 0) with bays := [] }

/-- The bytes of a doorbell with a tail, ADD on peg 99 of 3. -/
def bell (tail add : Nat) : List (Option Byte) :=
  (toLe 16 (tail + (99 + add * 2 ^ 16) * 2 ^ 64 + 3 * 2 ^ 96)).map some

/-- What a doorbell write at an offset gives from the first byte of its queue's 64 bytes on. -/
def given (off : Nat) (data : List (Option Byte)) : List (Option Byte) := List.replicate (off % 0x40) none ++ data

/-- A whole doorbell at a full ring, one past it, one without byte 3, one that begins behind it, and one of a queue that
no image binds. -/
theorem test_meets_Doorbell : running.up = true ∧ 16383 * 0x40 + 0x3F < 0x100000 ∧ (16383 * 0x40 + 0x3F) / 0x40 = 16383 ∧
    (∀ i, i < 4 → ((given 0 (bell 32 1)).getD i none).isSome = true) ∧
    running.queueEntry 0 = some queue0 ∧ running.fld Reg.kpImgstatState = 3 ∧
    (le ((given 0 (bell 32 1)).map fun b => b.getD 0) 0 4 + 2 ^ 32 - (running.queue 0).head) % 2 ^ 32 ≤ 2 ^ queue0.log2 ∧
    2 ^ queue0.log2 < (le ((given 0 (bell 33 0)).map fun b => b.getD 0) 0 4 + 2 ^ 32 - (running.queue 0).head) % 2 ^ 32 ∧
    le ((given 0 (bell 0 0)).map fun b => b.getD 0) 0 4 = (running.queue 0).tail ∧
    le ((given 0 (bell 32 1)).map fun b => b.getD 0) 10 1 % 2 = 1 ∧ le ((given 0 (bell 32 0)).map fun b => b.getD 0) 10 1 % 2 = 0 ∧
    running.pegIn queue0.ctx (le ((given 0 (bell 32 1)).map fun b => b.getD 0) 8 2) = true ∧
    running.queueEntry 16383 = none ∧ ((given 0 ((bell 0 0).set 3 none)).getD 3 none).isSome = false ∧
    ((given 1 (bell 0 0)).getD 0 none).isSome = false := by decide +kernel

/-- An access of no byte, one that enables a byte while no image is loaded, and one of a loaded module that is not
whole. -/
theorem test_meets_Doorbell_refused : (∀ b ∈ given 8 [none, none], b = none) ∧ (∃ b ∈ given 1 (bell 0 0), b ≠ none) ∧
    on.up = true ∧ ¬(on.fld Reg.kpImgstatState = 3 ∨ on.fld Reg.kpImgstatState = 5) ∧
    (running.fld Reg.kpImgstatState = 3 ∨ running.fld Reg.kpImgstatState = 5) ∧
    ¬∀ i, i < 4 → ((given 1 (bell 0 0)).getD i none).isSome = true := by decide +kernel

/-- A job of a decoder's slot. -/
def job : Job :=
  { src := 0, dst := 0x1100, open_ := false, close := false, param := 0x8000, bay := ⟨0, 0⟩, ctx := 0, ovf := false,
    course := 0, ref := 0 }

/-- EVT_WRITE is 5 in rings of one record. -/
def rings : State := withRegs [(0x30008, 0), (0x3000C, 5), (0x30028, 0), (0x3002C, 5)]

theorem test_meets_EventReadIndex : rings.up = true ∧ rings.reach .host = true ∧
    (rings.fld Reg.evtWriteIndex + 2 ^ 32 - 4) % 2 ^ 32 ≤ 2 ^ rings.fld Reg.evtSizeLog2 ∧
    ¬(rings.fld Reg.evtWriteIndex + 2 ^ 32 - 4294967295) % 2 ^ 32 ≤ 2 ^ rings.fld Reg.evtSizeLog2 ∧
    (rings.fld Reg.evtCwriteIndex + 2 ^ 32 - 4) % 2 ^ 32 ≤ 2 ^ rings.fld Reg.evtCsizeLog2 ∧
    ¬(rings.fld Reg.evtCwriteIndex + 2 ^ 32 - 4294967295) % 2 ^ 32 ≤ 2 ^ rings.fld Reg.evtCsizeLog2 := by decide +kernel

theorem test_meets_EventRingEnable : on.fld Reg.evtCtlEn = 0 ∧ on.fld Reg.evtCtlCen = 0 ∧
    (withRegs [(0x30018, 3)]).fld Reg.evtCtlEn = 1 ∧ (withRegs [(0x30018, 3)]).fld Reg.evtCtlCen = 1 ∧
    (withRegs [(0x30018, 3)]).reach .bus = true ∧ (withRegs [(0x30018, 3)]).up = true := by decide +kernel

/-- A module with an enabled ring of eight records at 0x1000, of which `written` are written, and one record raised. -/
def raisedIn (written : Nat) (quiet : Bool) (buffered : Nat) : State :=
  { withRegs [(0x30000, 0x1000), (0x30008, 3), (0x3000C, written), (0x30018, 1)] with
    raised := [record]
    evtBuf := List.replicate buffered record
    transit := { Transit.idle with selfRefresh := quiet } }

/-- A byte of the same line is let in as well. -/
theorem writable_near (s : State) (a i : Nat) (h : s.writable a = true) (line : (a + i) / 128 = a / 128) :
    s.writable (a + i) = true := by
  have f (x : Nat) : x % 2 ^ 36 / 2 ^ 16 = x / 2 ^ 16 % 2 ^ 20 := by omega
  have g (x : Nat) : x / 2 ^ 16 = x / 128 / 2 ^ 9 := by omega
  have h36 (x : Nat) : x / 2 ^ 36 = x / 128 / 2 ^ 29 := by omega
  have e0 : (a + i) / 2 ^ 16 = a / 2 ^ 16 := by rw [g, g, line]
  have e1 : (a + i) % 2 ^ 36 / 2 ^ 16 = a % 2 ^ 36 / 2 ^ 16 := by rw [f, f, e0]
  have e2 : (a + i) / 2 ^ 36 = a / 2 ^ 36 := by rw [h36, h36, line]
  simp only [State.writable, State.retired, stackOf, memLimit, e1, e2, line] at h ⊢
  simp only [Bool.and_eq_true] at h ⊢
  have h0 := of_decide_eq_true h.1.1
  exact ⟨⟨decide_eq_true (by omega), h.1.2⟩, h.2⟩

/-- The slot that the collector writes next. -/
def slotAt (s : State) : Nat := s.evtBase + s.fld Reg.evtWriteIndex % 2 ^ s.fld Reg.evtSizeLog2 * 16

theorem slotAt_raised : slotAt (raisedIn 7 false 0) = 0x1070 := by decide +kernel

/-- The record is taken: into the ring, a full ring, a disabled one, and in self-refresh into the buffer, up to its
64th record. -/
theorem test_meets_EventCollector : ((raisedIn 7 false 0).up = true ∧
    ((raisedIn 7 false 0).raised.find? fun x => decide (x.src = ⟨30, 3⟩)) = some record ∧
    (raisedIn 7 false 0).flag Reg.evtCtlEn = true ∧ (raisedIn 7 false 0).evtFull = false ∧
    (raisedIn 7 false 0).fld Reg.kpBeaconRole ≠ 2 ∧
    (raisedIn 8 false 0).evtFull = true ∧ (raisedIn 0 true 63).evtBuf.length < 64 ∧
    64 ≤ (raisedIn 0 true 64).evtBuf.length ∧ (raisedIn 0 true 64).transit.selfRefresh = true) ∧
    (∀ i, i < 16 → (raisedIn 7 false 0).writable (slotAt (raisedIn 7 false 0) + i) = true) :=
  ⟨by decide +kernel, fun i h => writable_near _ _ i (by decide +kernel) (by rw [slotAt_raised]; omega)⟩

theorem test_meets_EventCollector_canonical : (raisedIn 7 false 8).Canonical ∧
    (raisedIn 7 false 1).evtBuf.length + ((raisedIn 7 false 1).fld Reg.evtWriteIndex + 2 ^ 32 -
      (raisedIn 7 false 1).fld Reg.evtReadIndex) % 2 ^ 32 ≤ 2 ^ (raisedIn 7 false 1).fld Reg.evtSizeLog2 :=
  ⟨⟨by decide +kernel, by decide +kernel, by decide +kernel, by decide +kernel⟩, by decide +kernel⟩

/-- The slot of a record that the buffer holds, when it comes to be written. -/
def slotOf (s : State) (k : Nat) : Nat := s.evtBase + (s.fld Reg.evtWriteIndex + k) % 2 ^ s.fld Reg.evtSizeLog2 * 16

theorem slotOf_raised : slotOf (raisedIn 7 false 1) 0 = 0x1070 := by decide +kernel

/-- One record is buffered and its slot is let in. -/
theorem test_meets_EventCollector_flush : (raisedIn 7 false 1).transit.selfRefresh = false ∧
    (raisedIn 7 false 1).flag Reg.evtCtlEn = true ∧ (raisedIn 7 false 1).fld Reg.evtSizeLog2 < 32 ∧
    ∀ k i, k < (raisedIn 7 false 1).evtBuf.length → i < 16 →
      (raisedIn 7 false 1).writable (slotOf (raisedIn 7 false 1) k + i) = true :=
  ⟨by decide +kernel, by decide +kernel, by decide +kernel, fun k i hk h => by
    have e : (raisedIn 7 false 1).evtBuf.length = 1 := rfl
    have h0 : k = 0 := by omega
    subst h0
    exact writable_near _ _ i (by decide +kernel) (by rw [slotOf_raised]; omega)⟩

/-- A cascade of which the module is the second member on X; its upstream port is 1 and beacons go out on port 0. -/
def cascade : Cascade :=
  { coord := 1 + 2 ^ 16, cut := 1, upPort := 1, downMask := 1, useMask := 3, windows := [⟨30, 0x400000, 0x40FFFF, 0⟩] }

/-- A member or ridge module that runs the image. -/
def member (role lock : Nat) : State :=
  { withRegs [(4, 7), (0x1001C, 3), (0x20010, role + lock * 4 + 8)] with
    image := some { image with cascade := some cascade }
    course := { Course.reset with good := 16, missing := 4 } }

theorem test_meets_CourseBoundary : on.up = true ∧ on.fld Reg.kpBeaconRole = 0 ∧ on.clocked = true ∧
    (member 1 0).fld Reg.kpBeaconRole = 1 ∧ (member 2 1).fld Reg.kpBeaconRole = 2 ∧
    (member 2 1).fld Reg.kpBeaconLock = 1 ∧ ((member 2 1).image.bind Image.cascade) = some cascade ∧
    (member 2 1).up = true := by decide +kernel

/-- Modules that send no beacon: a member that is not locked, and the reserved role. -/
theorem test_meets_CourseBoundary_silent :
    ¬((member 2 0).fld Reg.kpBeaconRole = 1 ∨ (member 2 0).fld Reg.kpBeaconRole = 2 ∧
      (member 2 0).fld Reg.kpBeaconLock = 1) ∧
    ¬((member 3 1).fld Reg.kpBeaconRole = 1 ∨ (member 3 1).fld Reg.kpBeaconRole = 2 ∧
      (member 3 1).fld Reg.kpBeaconLock = 1) ∧ (member 3 1).fld Reg.kpBeaconRole = 3 ∧
    (member 2 0).up = true ∧ (member 3 1).up = true := by decide +kernel

/-- A ridge module whose port 0, on its mask, is UP; port 1 is not on the mask. -/
theorem test_meets_CourseBoundary_port :
    let s := (member 1 0).setFld (Reg.eavStateState 0) 2
    s.up = true ∧ s.fld Reg.kpBeaconRole = 1 ∧ bits cascade.downMask 0 1 = 1 ∧ hasLinkLayer 0 = true ∧
      s.pstate 0 = 2 ∧ bits cascade.downMask 1 1 = 0 := by decide +kernel

theorem test_meets_Beacons : (member 2 0).up = true ∧ (member 2 0).fld Reg.kpBeaconRole = 2 ∧
    (member 2 0).fld Reg.kpBeaconUpport = 1 ∧ (member 2 0).fld Reg.kpBeaconLock = 0 ∧ 16 ≤ (member 2 0).course.good ∧
    4 ≤ (member 2 0).course.missing ∧ on.course.good < 16 ∧ on.course.missing < 4 := by decide +kernel

/-- A beacon that comes 1 ns after the own boundary, 0.25 ns of them carried: 0.75 ns late, which is 0 ns; 0.25 ns early is
-1 ns. -/
theorem test_beacon_error :
    ((after (.beaconReceive 1 0 0 ⟨8, 2⟩) (member 2 0)).fld Reg.kpBeaconError = 0) ∧
    ((after (.beaconReceive 1 0 0 ⟨0, 2⟩) (member 2 0)).fld Reg.kpBeaconError = 0xFFFF) := by decide +kernel


/-! ### Hypotheses that are met: arbiters and restarting reads (statements O30 to O33) -/

/-- The first arbiter block of die 0. -/
def blk0 : Nat := 0x10D0000

/-- Window 63 and the after-reset lanes: a shadow set that a commit refuses. -/
def narrow : State :=
  { expertOn with regs := expertOn.regs ++ [((Reg.vlyQuotaWindow blk0).off, 63)] }

/-- The output to the east of Kingpost die 30, which has no registers. -/
def router : Nat := 0xD0000 + 97 * 0x200

/-- A block with registers and one without. -/
theorem test_meets_ArbiterGrant : RegMap.arbBlock blk0 = some blk0 ∧ isRouter router = true ∧
    (on.arb blk0).pos < on.arbWindow blk0 ∧ on.arbRuns blk0 = true ∧ asleep.arbRuns blk0 = false ∧ on.arbRuns router = true ∧ (on.askWords blk0 [.unit ⟨0, none⟩]).1 = 1 := by decide +kernel

theorem test_meets_QuotaWindowAndSlots :
    on.arbWindow blk0 ≤ ({ on with arbs := [(blk0, { ArbState.empty with pos := on.arbWindow blk0 })] }.arb blk0).pos ∧
    on.arbRuns blk0 = true ∧ asleep.arbRuns blk0 = false ∧ on.up = true ∧ ({ Course.reset with phase := 992 } : Course).phase.toNat / 16 < 63 := by decide +kernel

/-- Window 0x40 stands at its lower bound, window 0x3F below it. -/
theorem test_meets_ArbiterCommit : expertOn.expert = true ∧ on.expert = false ∧ 0x2C ∈ arbShadows ∧
    narrow.fld (Reg.vlyQuotaWindow blk0) < 0x40 ∧
    ¬(expertOn.fld (Reg.vlyQuotaWindow blk0) < 0x040 ∨ 0xFFF < expertOn.fld (Reg.vlyQuotaWindow blk0) ∨
      (∃ l ∈ (List.range 32).filter (fun l => 1 ≤ (expertOn.shadowLane blk0 l).1), (expertOn.shadowLane blk0 l).2 = 0) ∨
      expertOn.fld (Reg.vlyQuotaWindow blk0) < (((List.range 32).filter fun l =>
        1 ≤ (expertOn.shadowLane blk0 l).1).map fun l => (expertOn.shadowLane blk0 l).2).sum + 32) := by decide +kernel

/-- The paths carry accesses to a shadow register and the commit register. -/
theorem test_meets_ArbiterCommit_carried : ∀ s ∈ [expertOn, on, narrow], ∀ off ∈ [blk0 + 0x2C, (Reg.vlyCommitGo blk0).off],
    s.Carries .host off := by
  simp only [State.Carries]
  decide +kernel

theorem test_meets_RestartingReads : ∀ off ∈ [(Reg.vlyWaitmaxOpp blk0).off, (Reg.bayWaitmaxLc ⟨23, 8⟩).off,
    (Reg.eavCredAvail 31).off, Reg.flPinW.off], on.Carries .host off ∧ on.Carries .bus off := by
  simp only [State.Carries]
  decide +kernel

/-! ### Hypotheses that are met: tasks (statements O34 to O38) -/

/-- BF16 operands of one element at 0x1000, 0x1100 and 0x1200, a window of extent 1 and the shape 1. -/
def windowBody : List (Nat × Nat) :=
  [(32, 0x1000 + 2 ^ 40), (40, 0x1100 + 2 ^ 40), (48, 0x1200 + 2 ^ 40),
   (80, 1 + 2 ^ 4 + 2 ^ 9 + 2 ^ 14 + 2 ^ 18 + 2 ^ 22 + 2 ^ 26 + 2 ^ 33 + 2 ^ 40), (96, 1), (112, 1), (114, 1), (116, 1),
   (118, 1), (120, 1), (122, 1)]

def gemmTask : Task := taskOf (descOf opGemm
  [(32, 0x1000 + 2 ^ 40), (40, 0x1100 + 2 ^ 40), (48, 0x1200), (88, 1), (91, 1), (94, 1)])
def convTask : Task := taskOf (descOf opConv windowBody)
def dwconvTask : Task := taskOf (descOf opDwconv windowBody)
def poolTask : Task := taskOf (descOf opPool (windowBody.filter fun x => x.1 ≠ 48))
/-- ATTN of one query row over one partial array, and no key. -/
def attnTask : Task := taskOf (descOf opAttn
  [(32, 0x1000 + 2 ^ 40), (40, 2 ^ 40), (56, 0x1200), (72, 0x5000), (80, 1), (92, 0x3F800000), (106, 1), (107, 1),
   (108, 4)])
def elemTask : Task := taskOf (descOf opElem
  [(32, 0x1000 + 2 ^ 40), (40, 0x1100 + 2 ^ 40), (56, 0x1200 + 2 ^ 40), (68, 1), (72, 1), (76, 1)])
def sfuTask : Task := taskOf (descOf opSfu [(32, 0x1000 + 2 ^ 40), (40, 0x1100 + 2 ^ 40), (48, 1), (52, 1)])
def normTask : Task := taskOf (descOf opNorm
  [(32, 0x1000 + 2 ^ 40), (40, 0x1100 + 2 ^ 40), (48, 0x1200 + 2 ^ 40), (64, 0x3F800000), (72, 1), (76, 1)])
def moveTask : Task := taskOf (descOf opMove
  [(32, 0x1000 + 2 ^ 40), (40, 0x1100 + 2 ^ 40), (68, 1), (72, 1), (76, 1)])
def kvappendTask : Task := taskOf (descOf opKvappend
  [(32, 0x1000 + 2 ^ 40), (40, 0x1100 + 2 ^ 40), (48, 0x5000 + 2 ^ 40), (56, 0x5008), (67, 1), (70, 1)])

/-- A module with one valid page in the key table at 0x5000 and in the value table at 0x5008. -/
def paged (t : Task) : State :=
  { ready t with mem := [(0x5001, 0x60), (0x5007, 0x80), (0x5009, 0x60), (0x500A, 1), (0x500F, 0x80)] }

theorem test_meets_TaskRuns_truss :
    (ready gemmTask).Starts ⟨0, 0⟩ (opGemm, 0) ⟨0, 0⟩ gemmTask (inputsRead (ready gemmTask) ⟨0, 0⟩ gemmTask) ∧
    (ready convTask).Starts ⟨0, 0⟩ (opConv, 0) ⟨0, 0⟩ convTask (inputsRead (ready convTask) ⟨0, 0⟩ convTask) ∧
    (ready dwconvTask).Starts ⟨0, 0⟩ (opDwconv, 0) ⟨0, 0⟩ dwconvTask
      (inputsRead (ready dwconvTask) ⟨0, 0⟩ dwconvTask) ∧
    (ready poolTask).Starts ⟨0, 0⟩ (opPool, 0) ⟨0, 0⟩ poolTask (inputsRead (ready poolTask) ⟨0, 0⟩ poolTask) ∧
    dOp gemmTask.desc = opGemm :=
  ⟨starts_of (by decide +kernel),
   starts_of (by decide +kernel),
   starts_of (by decide +kernel),
   starts_of (by decide +kernel),
   by decide +kernel⟩

theorem test_meets_TaskRuns_cache :
    (ready attnTask).Starts ⟨0, 0⟩ (opAttn, 0) ⟨0, 0⟩ attnTask (inputsRead (ready attnTask) ⟨0, 0⟩ attnTask) ∧
    (paged kvappendTask).Starts ⟨0, 0⟩ (opKvappend, 0) ⟨0, 0⟩ kvappendTask
      (inputsRead (paged kvappendTask) ⟨0, 0⟩ kvappendTask) :=
  ⟨starts_of (by decide +kernel),
   starts_of (by decide +kernel)⟩

theorem test_meets_TaskRuns_vector :
    (ready elemTask).Starts ⟨0, 0⟩ (opElem, 0) ⟨0, 0⟩ elemTask (inputsRead (ready elemTask) ⟨0, 0⟩ elemTask) ∧
    (ready sfuTask).Starts ⟨0, 0⟩ (opSfu, 0) ⟨0, 0⟩ sfuTask (inputsRead (ready sfuTask) ⟨0, 0⟩ sfuTask) ∧
    (ready normTask).Starts ⟨0, 0⟩ (opNorm, 0) ⟨0, 0⟩ normTask (inputsRead (ready normTask) ⟨0, 0⟩ normTask) ∧
    (ready moveTask).Starts ⟨0, 0⟩ (opMove, 0) ⟨0, 0⟩ moveTask (inputsRead (ready moveTask) ⟨0, 0⟩ moveTask) :=
  ⟨starts_of (by decide +kernel),
   starts_of (by decide +kernel),
   starts_of (by decide +kernel),
   starts_of (by decide +kernel)⟩

/-- REDUCE of two FP32 elements by kind and scope, along X. -/
def reduceTask (kind scope : Nat) : Task := taskOf (descOf opReduce
  [(32, 0x1000), (40, 0x1100), (49, kind), (50, scope), (52, 2)])

/-- A module of a cascade of two on X, with ports 0 and 4 UP and the shift kinds agreed. -/
def linked (t : Task) : State :=
  { withRegs [(4, 7), (0x80, 8), (0x94, 1), (0x1001C, 3), ((Reg.kpCoordX).off, 1 + 2 ^ 16), (0x3000000, 2),
      (0x3040000, 2)] with
    image := some { image with cascade := some cascade }
    bays := [(0, { BayState.empty with selected := [t] })] }

theorem test_meets_ReduceRuns_group :
    (ready (reduceTask 0 0)).Starts ⟨0, 0⟩ (opReduce, 0) ⟨0, 0⟩ (reduceTask 0 0)
      (inputsRead (ready (reduceTask 0 0)) ⟨0, 0⟩ (reduceTask 0 0)) ∧
    (ready (reduceTask 1 0)).Starts ⟨0, 0⟩ (opReduce, 1) ⟨0, 0⟩ (reduceTask 1 0)
      (inputsRead (ready (reduceTask 1 0)) ⟨0, 0⟩ (reduceTask 1 0)) ∧
    (ready (reduceTask 2 0)).Starts ⟨0, 0⟩ (opReduce, 2) ⟨0, 0⟩ (reduceTask 2 0)
      (inputsRead (ready (reduceTask 2 0)) ⟨0, 0⟩ (reduceTask 2 0)) ∧
    (ready (reduceTask 3 0)).Starts ⟨0, 0⟩ (opReduce, 3) ⟨0, 0⟩ (reduceTask 3 0)
      (inputsRead (ready (reduceTask 3 0)) ⟨0, 0⟩ (reduceTask 3 0)) ∧
    (ready (reduceTask 3 0)).waitingColl ⟨0, 0⟩ 3 = none :=
  ⟨starts_of (by decide +kernel),
   starts_of (by decide +kernel),
   starts_of (by decide +kernel),
   starts_of (by decide +kernel),
   by decide +kernel⟩

/-- The state in which a REDUCE of a span waits for the other dies. -/
def spanWaits (t : Task) (r : Running) : State :=
  let a := inputsRead (ready t) ⟨0, 0⟩ t
  a.setBay ⟨0, 0⟩ { a.bay ⟨0, 0⟩ with running := (a.bay ⟨0, 0⟩).running ++ [r] }

/-- A task that waits for its collective. -/
def waits (t : Task) : Running :=
  { task := t, half := 2, course := 0, outs := [], flags := 0, sflags := [], slipped := false, waiting := true,
    phase := 0, got := 0, tags := [], overlaps := false, coll := none }

/-- A span of one die, whose one member is the task itself. -/
theorem test_meets_ReduceRuns_span :
    (ready (reduceTask 0 1)).Starts ⟨0, 0⟩ (opReduce, 0) ⟨0, 0⟩ (reduceTask 0 1)
      (inputsRead (ready (reduceTask 0 1)) ⟨0, 0⟩ (reduceTask 0 1)) ∧
    redScope (reduceTask 0 1).desc = 1 ∧
    (inputsRead (ready (reduceTask 0 1)) ⟨0, 0⟩ (reduceTask 0 1)).spanDies 0 = [0] ∧
    (spanWaits (reduceTask 0 1) (waits (reduceTask 0 1))).spanMember 0
      ((inputsRead (ready (reduceTask 0 1)) ⟨0, 0⟩ (reduceTask 0 1)).spanKey (reduceTask 0 1)) =
      some (⟨0, 0⟩, waits (reduceTask 0 1)) ∧
    (spanWaits (reduceTask 0 1) (waits (reduceTask 0 1))).spanMember 1
      ((inputsRead (ready (reduceTask 0 1)) ⟨0, 0⟩ (reduceTask 0 1)).spanKey (reduceTask 0 1)) = none :=
  ⟨starts_of (by decide +kernel),
   by decide +kernel, by decide +kernel, by decide +kernel, by decide +kernel⟩

theorem test_meets_ReduceRuns_axis :
    (linked (reduceTask 0 2)).Starts ⟨0, 0⟩ (opReduce, 0) ⟨0, 0⟩ (reduceTask 0 2)
      (inputsRead (linked (reduceTask 0 2)) ⟨0, 0⟩ (reduceTask 0 2)) ∧
    (linked (reduceTask 4 2)).Starts ⟨0, 0⟩ (opReduce, 4) ⟨0, 0⟩ (reduceTask 4 2)
      (inputsRead (linked (reduceTask 4 2)) ⟨0, 0⟩ (reduceTask 4 2)) ∧
    (linked (reduceTask 5 2)).Starts ⟨0, 0⟩ (opReduce, 5) ⟨0, 0⟩ (reduceTask 5 2)
      (inputsRead (linked (reduceTask 5 2)) ⟨0, 0⟩ (reduceTask 5 2)) ∧
    1 < ((linked (reduceTask 0 2)).collOf ⟨0, 0⟩ (reduceTask 0 2) 0).n ∧
    (∀ p, (inputsRead (linked (reduceTask 5 2)) ⟨0, 0⟩ (reduceTask 5 2)).waysOf 0 p ≠ []) ∧
    (linked (reduceTask 5 2)).waitingColl ⟨0, 0⟩ 5 = none :=
  ⟨starts_of (by decide +kernel),
   starts_of (by decide +kernel),
   starts_of (by decide +kernel),
   by decide +kernel, fun p => by cases p <;> decide +kernel, by decide +kernel⟩

theorem test_meets_ReduceRuns_axis_more :
    (linked (reduceTask 1 2)).Starts ⟨0, 0⟩ (opReduce, 1) ⟨0, 0⟩ (reduceTask 1 2)
      (inputsRead (linked (reduceTask 1 2)) ⟨0, 0⟩ (reduceTask 1 2)) ∧
    (linked (reduceTask 2 2)).Starts ⟨0, 0⟩ (opReduce, 2) ⟨0, 0⟩ (reduceTask 2 2)
      (inputsRead (linked (reduceTask 2 2)) ⟨0, 0⟩ (reduceTask 2 2)) ∧
    (linked (reduceTask 3 2)).Starts ⟨0, 0⟩ (opReduce, 3) ⟨0, 0⟩ (reduceTask 3 2)
      (inputsRead (linked (reduceTask 3 2)) ⟨0, 0⟩ (reduceTask 3 2)) ∧
    ((linked (reduceTask 2 2)).bay ⟨0, 0⟩).running = [] ∧ (reduceTask 2 2).coll = none :=
  ⟨starts_of (by decide +kernel),
   starts_of (by decide +kernel),
   starts_of (by decide +kernel),
   by decide +kernel, by decide +kernel⟩

/-- A module that is alone on Y, on which an aborted REDUCE, of number 5, runs again. -/
def aloneTask : Task :=
  { taskOf (descOf opReduce [(32, 0x1000), (40, 0x1100), (50, 2), (51, 1), (52, 2)]) with coll := some 5 }
def alone : State := { linked aloneTask with image := some { image with cascade := some { cascade with cut := 5 } } }

theorem test_meets_ReduceRuns_alone :
    alone.Starts ⟨0, 0⟩ (opReduce, 0) ⟨0, 0⟩ aloneTask (inputsRead alone ⟨0, 0⟩ aloneTask) ∧
    redScope aloneTask.desc = 2 ∧ (alone.collOf ⟨0, 0⟩ aloneTask 5).n ≤ 1 ∧ aloneTask.coll ≠ none :=
  ⟨starts_of (by decide +kernel), by decide +kernel, by decide +kernel, by decide⟩

/-- A shift along X, number 5, that waits on its bay, with the pieces given in the pool. -/
def shifting (held : List Held) : State :=
  { linked (reduceTask 4 2) with
    bays := [(0, { BayState.empty with running := [{ waits (reduceTask 4 2) with coll := some 5 }] })]
    held := held }

/-- A piece of that shift that came on port 4. -/
def heldPiece : Held := { port := 4, msg := { msg with dest := 1, collseq := 5 }, spent := false }

/-- It is found when its row comes again, and may send its one piece and pass one on: with nothing held, and with one piece. -/
theorem test_meets_ReduceRuns_goes_on : (shifting []).physical ⟨0, 0⟩ = some ⟨0, 0⟩ ∧
    (shifting []).waitingColl ⟨0, 0⟩ 4 = some { waits (reduceTask 4 2) with coll := some 5 } ∧
    let c := (shifting []).collOf ⟨0, 0⟩ (reduceTask 4 2) 5
    c.starts.length * c.pieces = 1 ∧
    ((shifting []).bay c.bay).running.filter (fun x => x.waiting && decide (x.task.queue = c.task.queue)) =
      [{ waits (reduceTask 4 2) with coll := some 5 }] ∧
    (shifting []).held.filter c.owns = [] ∧ (shifting [heldPiece]).held.filter c.owns = [heldPiece] ∧
    c.has (shifting [heldPiece]) heldPiece = false := by decide +kernel

theorem test_meets_ReduceRuns_may_send : ((shifting []).collOf ⟨0, 0⟩ (reduceTask 4 2) 5).MaySend (shifting []) 2 := by
  intro plus
  refine ⟨by cases plus <;> decide +kernel, fun e port h => ?_⟩
  have hw : (shifting []).waysOf ((shifting []).collOf ⟨0, 0⟩ (reduceTask 4 2) 5).axis plus = [if plus then 0 else 4] := by
    cases plus <;> decide +kernel
  rw [hw] at h ⊢
  have he : e = 0 := by
    cases e with
    | zero => rfl
    | succ n => simp at h
  subst he
  have hp : port = if plus then 0 else 4 := by simpa using h.symm
  subst hp
  cases plus <;> decide +kernel

/-- MEDIA by kind: source 0x1000, target 0x1100, slot 0 of engine 0 of Gable die 28. -/
def mediaTask (kind : Nat) : Task := taskOf (descOf opMedia
  [(32, 0x1000 + 2 ^ 40), (40, 0x1100 + 2 ^ 40), (49, kind), (56, 0x8000)])

/-- A module with slot 0 of decode engine 0 and of encode engine 0 of die 28 open, with a number of jobs. -/
def coded (kind jobs : Nat) : State :=
  { ready (mediaTask kind) with
    media := [(0, { Session.closed with isOpen := true, jobs := List.replicate jobs job }),
      (64, { Session.closed with isOpen := true, jobs := List.replicate jobs job })] }

theorem test_meets_MediaTask :
    (coded 0 3).Starts ⟨0, 0⟩ (opMedia, 0) ⟨0, 0⟩ (mediaTask 0) (inputsRead (coded 0 3) ⟨0, 0⟩ (mediaTask 0)) ∧
    (coded 1 4).Starts ⟨0, 0⟩ (opMedia, 1) ⟨0, 0⟩ (mediaTask 1) (inputsRead (coded 1 4) ⟨0, 0⟩ (mediaTask 1)) ∧
    (coded 2 3).Starts ⟨0, 0⟩ (opMedia, 2) ⟨0, 0⟩ (mediaTask 2) (inputsRead (coded 2 3) ⟨0, 0⟩ (mediaTask 2)) ∧
    ((coded 0 3).session ⟨0, .decode, 0⟩ 0).jobs.length < 4 ∧
    ((coded 0 3).session ⟨0, .decode, 0⟩ 0).refuses .decode false = false ∧
    4 ≤ ((coded 1 4).session ⟨0, .encode, 0⟩ 0).jobs.length ∧
    (on.session ⟨0, .decode, 0⟩ 0).refuses .decode false = true :=
  ⟨starts_of (by decide +kernel),
   starts_of (by decide +kernel),
   starts_of (by decide +kernel),
   by decide +kernel, by decide +kernel, by decide +kernel, by decide +kernel⟩

theorem test_meets_MediaTask_acted : let t : Task := { mediaTask 1 with acted := true }
    (ready t).Starts ⟨0, 0⟩ (opMedia, 1) ⟨0, 0⟩ t (inputsRead (ready t) ⟨0, 0⟩ t) ∧ t.acted = true ∧
    (mediaTask 1).acted = false :=
  ⟨starts_of (by decide +kernel), rfl, rfl⟩

/-- A task runs on an idle bay, whatever its operands' words are. -/
theorem test_meets_TaskRuns_word : PBay.wf ⟨0, 0⟩ = true ∧
    ((inputsRead (ready gemmTask) ⟨0, 0⟩ gemmTask).bay ⟨0, 0⟩).running = [] ∧
    ((inputsRead (ready moveTask) ⟨0, 0⟩ moveTask).bay ⟨0, 0⟩).running = [] ∧
    ((inputsRead (ready (reduceTask 0 0)) ⟨0, 0⟩ (reduceTask 0 0)).bay ⟨0, 0⟩).running = [] := by decide +kernel

/-- A task without a budget, an SFU task of no element, and one of more elements than its plan record allows. -/
def brokenTask (op : Nat) (sub : Nat) : Task := taskOf (op + (op - 1) * 2 ^ 16 + sub * 2 ^ (8 * 34))
def emptyTask : Task := taskOf (descOf opSfu [(32, 0x1000 + 2 ^ 40), (40, 0x1100 + 2 ^ 40), (48, 1)])
def longTask : Task := taskOf (descOf opSfu [(32, 0x1000 + 2 ^ 40), (40, 0x1100 + 2 ^ 40), (48, 1), (52, 257)])

/-- What the checks make of the task on bay 0. -/
def checkedIn (t : Task) : Verdict := ((ready t).readTask ⟨0, 0⟩ t).2.1

/-- A module whose sector at 0x5000 is poisoned, with a task that reads it as a key page. -/
def poisonedTable : State := { paged kvappendTask with poison := [0x5000] }

theorem test_meets_TaskStoppedByCheck :
    (ready (brokenTask opConv 0)).frontTask ⟨0, 0⟩ (opConv, 0) = some (⟨0, 0⟩, brokenTask opConv 0) ∧
    checkedIn (brokenTask opConv 0) = .malformed (some 4) ∧
    (ready (brokenTask opElem 0)).frontTask ⟨0, 0⟩ (opElem, 0) = some (⟨0, 0⟩, brokenTask opElem 0) ∧
    (ready emptyTask).frontTask ⟨0, 0⟩ (opSfu, 0) = some (⟨0, 0⟩, emptyTask) ∧ checkedIn emptyTask = .noop ∧
    (ready (brokenTask opPeg 2)).frontTask ⟨0, 0⟩ (opPeg, 2) = some (⟨0, 0⟩, brokenTask opPeg 2) ∧
    checkedIn (brokenTask opPeg 2) = .malformed (some 4) ∧
    (ready (brokenTask opTie 1)).frontTask ⟨0, 0⟩ (opTie, 1) = some (⟨0, 0⟩, brokenTask opTie 1) ∧
    dStatEn emptyTask.desc = false ∧ dSigEn emptyTask.desc = false := by
  and_intros <;> decide +kernel

/-- A sector that the sequencer reads of a task that its checks pass is poisoned, and none of a task that a check
stops. -/
theorem test_meets_TaskStoppedByCheck_poisoned : (poisonedTable.readTask ⟨0, 0⟩ kvappendTask).2.1 = .runs ∧
    (poisonedTable.readTask ⟨0, 0⟩ kvappendTask).2.2 = true ∧
    ((ready emptyTask).readTask ⟨0, 0⟩ emptyTask).2.2 = false ∧
    poisonedTable.frontTask ⟨0, 0⟩ (opKvappend, 0) = some (⟨0, 0⟩, kvappendTask) := by decide +kernel

/-- A task that exceeds its plan record, and one whose key page is not valid. -/
theorem test_meets_TaskStoppedByCheck_more : checkedIn longTask = .refused 1 ∧
    checkedIn kvappendTask = .pageFault 0 ∧ (((ready emptyTask).teamOf ⟨0, 0⟩ emptyTask).map bayKey).Nodup := by
  decide +kernel


/-! ### Hypotheses that are met: completion, faults, swaps and passes (statements O38 to O42) -/

/-- A PEG task that asks for its status at 0x2000 and signals peg 9 by 2. -/
def signalTask : Task := taskOf (descOf opPeg [(1, 6), (10, 9), (16, 2), (24, 0x2000), (32, 1), (34, 1)])

/-- The same without status and signal. -/
def silentTask : Task := taskOf (descOf opPeg [(32, 1), (34, 1)])

/-- An output of one byte, for memory at 0x7FF or for the last byte of the Lath of bay 0. -/
def memOut : OutWrite :=
  { bay := ⟨0, 0⟩, gutters := [127], entry := (0, 0), space := .mem, addr := 0x7FF, data := [some 3] }
def lathOut : OutWrite :=
  { bay := ⟨0, 0⟩, gutters := [127], entry := (1, 0), space := .lath ⟨0, 0⟩, addr := 0x3FFFFF, data := [some 3] }

/-- A running task. -/
def runner (t : Task) (outs : List OutWrite) (tags : List (Nat × Nat)) (slipped : Bool) : Running :=
  { task := t, half := 2, course := 0, outs := outs, flags := 0, sflags := [], slipped := slipped, waiting := false,
    phase := 0, got := 0, tags := tags, overlaps := false, coll := none }

/-- A module with one task that runs on bay 0 of die 0, in a course. -/
def busy (r : Running) (course : Nat) : State :=
  { running with
    bays := [(0, { BayState.empty with running := [r] })]
    course := { Course.reset with count := BitVec.ofNat 48 course } }

/-- The state in which the outputs of a task have been written. -/
def written (r : Running) : State := (joinOuts r.outs).foldl State.emitOut (busy r 0)

/-- A module with a task that slipped, its one output not yet written. -/
def slipping : State := busy (runner signalTask [memOut] [] true) 1

/-- A task of which bay 0 raised INEXACT. -/
def flagged : Running := { runner silentTask [] [] false with sflags := [(⟨0, 0⟩, 1)] }

theorem test_meets_TaskComplete : slipping.physical ⟨0, 0⟩ = some ⟨0, 0⟩ ∧
    slipping.completing ⟨0, 0⟩ 0 = some (runner signalTask [memOut] [] true) ∧
    flagged.bays = [⟨0, 0⟩] ∧ (busy flagged 1).completing ⟨0, 0⟩ 0 = some flagged ∧
    (((busy flagged 1).bay ⟨0, 0⟩).truss.half flagged.half).idle = true ∧ slipping.slotOf signalTask = none ∧
    (runner signalTask [memOut] [] true).sflags = [] ∧
    (busy (runner silentTask [] [(5, 0)] false) 1).completing ⟨0, 0⟩ 0 = none := by decide +kernel

theorem test_meets_TaskComplete_ends : dSigEn signalTask.desc = true ∧
    slipping.pegIn 0 (dSigPeg signalTask.desc) = true ∧ dStatEn signalTask.desc = true ∧
    dStatus signalTask.desc = 0x2000 ∧ dSigEn silentTask.desc = false ∧ dStatEn silentTask.desc = false ∧
    (busy (runner silentTask [] [] false) 1).slotOf silentTask = none := by decide +kernel

theorem test_meets_TaskComplete_status : (busy (runner signalTask [memOut] [] true) 0).Canonical ∧
    ∀ i, i < 8 → (written (runner signalTask [memOut] [] true)).writable (0x2000 + i) = true :=
  ⟨⟨by decide, by decide, by decide, by decide⟩,
    fun i h => writable_near _ _ i (by decide +kernel) (by omega)⟩

/-- A half that holds entry (0, 0) or (1, 0) in gutter 127 and nothing else. -/
def oneEntry (row : Nat) : TrussHalf :=
  { TrussHalf.empty with gutters := TrussHalf.empty.gutters.set 127 [{ num := 0, row := row, col := 0, pace := 1 }] }

/-- A module with a task one of whose outputs stands in that gutter. -/
def entryOf (w : OutWrite) : State :=
  let s := busy (runner silentTask [w] [] false) 0
  s.setBay ⟨0, 0⟩ { s.bay ⟨0, 0⟩ with truss := { Truss.empty with low := oneEntry w.entry.1 } }

/-- The gutter itself. -/
def gutter127 : GutterPort := { half := 0, column := 127 }

/-- An entry for memory leaves; one for the Lath leaves where its bank is free, and stays where the stationary path takes
it. -/
theorem test_meets_GutterWrite :
    ((entryOf lathOut).entryTask ⟨0, 0⟩ 0 127 (1, 0)).map (fun x => x.2.2.outs) = some [lathOut] ∧
    (entryOf memOut).headAsks ⟨0, 0⟩ gutter127 = [((0, 127), [])] ∧
    (entryOf lathOut).headAsks ⟨0, 0⟩ gutter127 = [((0, 127), [0x3FFFE0])] ∧
    (slotT (stationAsks []) [0x3FFFE0]).1.granted = [0x3FFFE0] ∧
    (slotT (stationAsks [0x3FFFE0]) [0x3FFFE0]).1.granted = [] ∧
    (entryOf lathOut).dieRuns 0 = true ∧ (on.setFld Reg.kpDormerState 1).dieRuns 0 = false ∧
    ((entryOf lathOut).bay ⟨0, 0⟩).truss.heldBy 0 127 = false ∧
    entryOuts ⟨0, 0⟩ 127 (1, 0) [lathOut] = [lathOut] ∧ lathOut.addr + lathOut.data.length ≤ lathSize := by decide +kernel

/-- No other gutter holds an entry. -/
theorem test_meets_GutterWrite_alone : ((List.range 2).all fun h => (List.range 128).all fun j =>
    decide ((h, j) = (0, 127)) ||
      (((((entryOf memOut).bay ⟨0, 0⟩).truss.half h).gutters).getD j []).isEmpty) = true := by decide +kernel

theorem test_meets_GutterWrite_canonical : (entryOf memOut).Canonical := ⟨by decide, by decide, by decide, by decide⟩

/-- A task with a transfer on port 5, which is in REPLAY. -/
def stalled : State :=
  { busy (runner silentTask [] [(5, 0)] false) 2 with regs := [(4, 7), (0x1001C, 3), (0x3050000, 3)] }

/-- One boundary and two after the task's course, with a port in REPLAY and without; and an idle bay. -/
theorem test_meets_BayFaults : PBay.wf ⟨0, 0⟩ = true ∧
    ((busy (runner silentTask [] [] false) 2).bay ⟨0, 0⟩).faulty = none ∧
    (busy (runner silentTask [] [] false) 2).bayRetired ⟨0, 0⟩ = false ∧
    (busy (runner silentTask [] [] false) 2).physical ⟨0, 0⟩ = some ⟨0, 0⟩ ∧
    (((busy (runner silentTask [] [] false) 2).bay ⟨0, 0⟩).running.find? fun x => decide (x.task.queue = 0)) =
      some (runner silentTask [] [] false) ∧
    (busy (runner silentTask [] [] false) 1).course.count.toNat < 0 + 2 ∧
    0 + 2 ≤ (busy (runner silentTask [] [] false) 2).course.count.toNat ∧
    (busy (runner silentTask [] [] false) 2).stalledPorts (runner silentTask [] [] false) = [] ∧
    (busy (runner silentTask [] [] false) 2).groupOf silentTask = [⟨0, 0⟩] ∧
    stalled.stalledPorts (runner silentTask [] [(5, 0)] false) ≠ [] ∧
    (busy (runner silentTask [] [] false) 2).dieRuns 0 = true ∧
    (busy (runner silentTask [] [] false) 2).runningOn ⟨0, 0⟩ ≠ [] ∧ running.runningOn ⟨0, 0⟩ = [] := by
  decide +kernel

/-- Die 0 prepares its spare, bay 8, for bay 0, whose occupant is context 0. -/
def preparing : State :=
  { running with
    regs := [(4, 7), (0x1001C, 3), ((Reg.baySchedOcc ⟨0, 0⟩).off, 64)]
    reliab := { Reliab.reset with preparing := [(0, 0, 0, 1, false)] } }

/-- A swap of bay 0 to context 0 that has passed a boundary. -/
def swapping : State :=
  { running with
    bays := [(0, { BayState.empty with swap := some { out := none, into := 0, overrun := true, done := false } })] }

theorem test_meets_SparesAndSwaps :
    (preparing.reliab.preparing.find? fun e => decide (e.1 = 0) && !e.2.2.2.2) = some (0, 0, 0, 1, false) ∧
    preparing.spareOf 0 = some ⟨0, 8⟩ ∧ (preparing.occupant ⟨0, 0⟩).bind preparing.context = some context ∧
    context.lathSave ≤ context.lathLoad ∧ context.lathLoad ≤ lathSize ∧ swapping.physical ⟨0, 0⟩ = some ⟨0, 0⟩ ∧
    (swapping.bay ⟨0, 0⟩).swap = some { out := none, into := 0, overrun := true, done := false } ∧
    swapping.context 0 = some context ∧ swapping.clocked = true ∧ preparing.clocked = true ∧ PBay.wf ⟨0, 0⟩ = true ∧ (swapping.bay ⟨0, 0⟩).faulty = none ∧
    swapping.bayRetired ⟨0, 0⟩ = false := by decide +kernel

/-- Context 1 keeps the bytes that context 0 keeps, elsewhere. -/
def context1 : Context := { context with saveBase := 0x400000, preBase := 0x500000 }

/-- A swap of bay 0 from context 1 to context 0; granule 0 of its Lath is stale. -/
def swappingOut : State :=
  { running with
    image := some { image with contexts := [context, context1] }
    lath := [(0, 7)]
    bays := [(0, { BayState.empty with
      swap := some { out := some 1, into := 0, overrun := false, done := false }, stale := [0] })] }

theorem test_meets_SparesAndSwaps_out : swappingOut.physical ⟨0, 0⟩ = some ⟨0, 0⟩ ∧ swappingOut.clocked = true ∧
    (swappingOut.bay ⟨0, 0⟩).swap = some { out := some 1, into := 0, overrun := false, done := false } ∧
    swappingOut.context 0 = some context ∧ swappingOut.context 1 = some context1 ∧
    saveAddr context1 ⟨0, 0⟩ = 0x400000 ∧ swappingOut.writable 0x400003 = true ∧
    0 ∈ (swappingOut.bay ⟨0, 0⟩).stale ∧ 0 * granule < context1.lathSave := by decide +kernel

theorem test_meets_SparesAndSwaps_canonical : swappingOut.Canonical := ⟨by decide, by decide, by decide, by decide⟩

/-- What the swap saves stands in the outgoing context's save area. -/
theorem test_swap_saves : (after (.swapComplete ⟨⟨0, 0⟩, 0, ⟨0, none⟩⟩ 0) swappingOut).peek 0x400000 = 7 := by
  decide +kernel

/-- A pass in the whole array, its stationary operand there from cycle 9 on. -/
def pass : PassArgs :=
  { bay := ⟨0, 0⟩, half := 2, step := .score, first := 0, blk := 0, place := 0, rows := 0, loadFrom := 9, held := [12]
    entryReady := 0, deps := [0], late := [], busy := [], corrected := 0 }

/-- A GEMM that runs on an array at rest. -/
def resting : State := busy (runner gemmTask [] [] false) 0

theorem test_meets_PassStart : pass.bay.wf = true ∧ pass.half < 3 ∧
    resting.passTask ⟨0, 0⟩ 2 = some (⟨0, 0⟩, runner gemmTask [] [] false) ∧
    resting.passKind gemmTask ⟨0, 0⟩ pass TrussHalf.empty = some { cls := 0, l := 1, tally := false, ktiles := 1, rows := 128 } ∧
    ({ cls := 0, l := 1, tally := false, ktiles := 1, rows := 128 } : PassKind).maxRows 2 = some 512 ∧
    resting.lockStep ⟨0, 0⟩ ⟨0, 0⟩ gemmTask 2 { cls := 0, l := 1, tally := false, ktiles := 1, rows := 128 } = true := by
  decide +kernel

/-- No task runs on the half, and a task that makes no pass. -/
theorem test_meets_PassStart_none : running.passTask ⟨0, 0⟩ 2 = none ∧
    running.passKind silentTask ⟨0, 0⟩ pass TrussHalf.empty = none := by decide +kernel

/-- ATTN of one query row over 128 keys in the whole array, whose second key block does not run. -/
def longAttn : Task := taskOf (descOf opAttn
  [(32, 0x1000 + 2 ^ 40), (40, 2 ^ 40), (56, 0x1200), (72, 0x5000), (80, 1), (83, 128), (92, 0x3F800000), (106, 1), (107, 1),
   (108, 4)])

/-- A pass of each kind that may be skipped, over key block 0 and over key block 1, past the last key. -/
theorem test_meets_PassStart_skipped :
    (busy (runner longAttn [] [] false) 0).passTask ⟨0, 0⟩ 2 = some (⟨0, 0⟩, runner longAttn [] [] false) ∧
    dOp longAttn.desc = opAttn ∧ (((busy (runner longAttn [] [] false) 0).bay ⟨0, 0⟩).truss.half 2).ktile = 0 ∧
    (attnOf longAttn.desc).groupsIn 0 128 = [0] ∧ (attnOf longAttn.desc).runs 0 0 = true ∧
    (attnOf longAttn.desc).runs 0 1 = false ∧
    ((busy (runner longAttn [] [] false) 0).passKind longAttn ⟨0, 0⟩ { pass with rows := 128 }
      TrussHalf.empty).isSome = true := by decide +kernel

/-- The array is at rest, with a bank that is whole in cycle 138. -/
theorem test_meets_PassStart_rest : (resting.bay ⟨0, 0⟩).truss.low.passes = [] ∧
    (resting.bay ⟨0, 0⟩).truss.high.passes = [] ∧ (∀ g ∈ (resting.bay ⟨0, 0⟩).truss.low.gutters, g = []) ∧
    (∀ g ∈ (resting.bay ⟨0, 0⟩).truss.high.gutters, g = []) ∧
    (loadRows none pass.loadFrom pass.held 128).length = 128 ∧
    (loadRows none pass.loadFrom pass.held 128).foldl (fun m c => max m (c + 1)) 0 = 138 := by decide +kernel

/-- 05 R128: a bank of a half that no access holds back is written in 64 cycles, a row a cycle. -/
theorem test_load_rows : loadRows none 3 [] 64 = (List.range 64).map (3 + ·) := by decide +kernel

/-! ### Hypotheses that are met: what else a course boundary does (statement O28) -/

/-- A clock is planned: the lowest that R470 does not apply to. -/
def planned : State := { on with reliab := { Reliab.reset with mhz := some 1424 } }

/-- A swap that has ended. -/
def swapped : State :=
  { running with
    bays := [(0, { BayState.empty with swap := some { out := none, into := 0, overrun := false, done := true } })] }

/-- A Loft line inside a keep window of die 0, and one outside. -/
def keeping : State :=
  { lofted with regs := [((Reg.loftKeepLimit 0 0).off, 127)] ++ lofted.regs }

/-- A marked lane of the link that leaves die 0 to the east. -/
def laneMarked : State := { on with reliab := { Reliab.reset with marked := [(0, 1, false, 3)] } }

theorem test_meets_CourseBoundary_clock : planned.up = true ∧ planned.reliab.mhz = some 1424 ∧ on.reliab.mhz = none := by
  decide

theorem test_meets_CourseBoundary_swaps : swapped.clocked = true ∧ swapped.reliab.preparing = [] ∧
    swapped.reliab.losing = [] ∧ PBay.wf ⟨0, 0⟩ = true ∧
    (swapped.bay ⟨0, 0⟩).swap = some { out := none, into := 0, overrun := false, done := true } ∧
    (swapping.bay ⟨0, 0⟩).swap = some { out := none, into := 0, overrun := true, done := false } := by decide +kernel

theorem test_meets_CourseBoundary_loft : keeping.up = true ∧ keeping.loftKept 0 0 = true ∧ keeping.loftKept 0 128 = false ∧
    keeping.loft.length = 1 := by decide +kernel

theorem test_meets_CourseBoundary_lane : laneMarked.up = true ∧ (0, 1, false, 3) ∈ laneMarked.reliab.marked ∧
    ((laneMarked.reliab.marked ++ laneMarked.reliab.repaired).filter fun y => decide (y.1 = 0 ∧ y.2.1 = 1 ∧ y.2.2.1 = false)).length ≤ 2 := by
  decide

/-- Bay 0 of die 0 is faulty, with a task that it aborted, and the spare of the die has been prepared for it. -/
def isolating : State :=
  { preparing with
    reliab := { Reliab.reset with preparing := [(0, 0, 0, 1, true)] }
    bays := [(0, { BayState.empty with aborted := [(runner silentTask [] [] false).aborted ⟨0, 0⟩ 2] })] }

theorem test_meets_CourseBoundary_isolation : isolating.up = true ∧ isolating.clocked = true ∧
    (0, 0, 0, 1, true) ∈ isolating.reliab.preparing ∧ (∀ e ∈ isolating.reliab.losing, e.1 ≠ 0) ∧
    (∀ e ∈ isolating.reliab.preparing, e.1 = 0 → e = (0, 0, 0, 1, true)) ∧ isolating.spareOf 0 = some ⟨0, 8⟩ ∧
    isolating.runningOn ⟨0, 0⟩ = [] ∧ (isolating.bay ⟨0, 0⟩).swap = none ∧
    ((runner silentTask [] [] false).aborted ⟨0, 0⟩ 2).overlaps = false := by decide +kernel

/-- One PEG task in the ring of queue 0, whose context occupies the bay. -/
def offering : State :=
  { running with
    mem := (List.range 128).filterMap fun i =>
      if silentTask.desc.getD i 0 = 0 then none else some (0x300000 + i, silentTask.desc.getD i 0)
    regs := [(4, 7), (0x1001C, 3), ((Reg.baySchedOcc ⟨0, 0⟩).off, 64)]
    queues := [(0, { QueueState.empty with tail := 1 })] }

/-- The module when it selects, at the boundary of a course. -/
def atBoundary (s : State) : State :=
  (((s.advanceCourse.applyClock.applyCommits.sendBeacons).adoptCount []).noteRecovery.rafterBoundary).repairLanes.resetBoundary.dormerBoundary


/-- The same, while another context holds the bay: a swap begins. -/
def unseated : State :=
  { offering with
    regs := [(4, 7), (0x1001C, 3), (0x10080, 0x100), ((Reg.baySchedOcc ⟨0, 0⟩).off, 65)]
    image := some { image with contexts := [context, context1] } }

/-- It is the sole candidate; its head is ready, and in the module without an image nothing is selected. -/
theorem test_meets_CourseBoundary_selection : let u := (atBoundary offering).swapPass
    (atBoundary offering).stopped = false ∧ (atBoundary offering).reliab.fatal = false ∧
    u.queueEntry 0 = some queue0 ∧ queue0.prio < 16 ∧
    (u.candidate 0).map (fun x => (x.1, x.2.1.die, x.2.2)) = some (silentTask, 0, [⟨0, 0⟩]) ∧
    dBudget silentTask.desc ≤ u.selectLimit ∧ (u.queue 0).head < 2 ^ 32 ∧ (u.queue 0).tail < 2 ^ 32 ∧
    (atBoundary on).stopped = true := by decide +kernel

theorem test_meets_CourseBoundary_sole (q : Nat) (h : q ≠ 0) : (atBoundary offering).swapPass.candidate q = none := by
  have e : (atBoundary offering).swapPass.image = some image := by decide +kernel
  have n : (atBoundary offering).swapPass.queueEntry q = none := by
    cases q with
    | zero => exact absurd rfl h
    | succ k => simp [State.queueEntry, e, image]
  simp [State.candidate, State.offered, n]

theorem test_meets_CourseBoundary_waits : (unseated.readyHead 0).isSome = true ∧ (unseated.queue 0).rerun = [] ∧
    ((atBoundary unseated).bay ⟨0, 0⟩).swap = none ∧ (atBoundary unseated).stopped = false ∧
    (atBoundary unseated).flag Reg.kpSchedExcl = false := by decide +kernel

/-- 12 R334: a swap for the context of a ready head begins on a bay that it does not hold. -/
theorem test_swap_begins : (unseated.swapPass.bay ⟨0, 0⟩).swap.map Swap.into = some 0 := by
  decide +kernel

/-- A selection on one bay, the head-report address in memory that is let in. -/
theorem test_meets_CourseBoundary_select : PBay.wf ⟨0, 0⟩ = true ∧ offering.queueEntry silentTask.queue = some queue0 ∧
    (offering.queue 0).rerun = [] ∧ ∀ i, i < 4 → offering.writable (queue0.headRep + i) = true := by decide +kernel

theorem test_meets_CourseBoundary_canonical : offering.Canonical :=
  ⟨by decide +kernel, by decide, by decide, by decide⟩

/-! ### Hypotheses that are met: media sessions (statements O43 and O44) -/

/-- A parameter block: LIVE or not, coded data at 0x9000 in a ring of 1,024 bytes with its counts at 0x2100, picture
records at 0x2000 in a ring of one, DONEPEG 9. -/
def blockOf (live : Nat) : List Byte :=
  toLe 128 (live * 2 + (0x9000 + 10 * 2 ^ 40) * 2 ^ 192 + 0x2100 * 2 ^ 256 + 0x2000 * 2 ^ 320 + 9 * 2 ^ 384)

/-- A decode, an encode and a pre-process engine of die 28. -/
def decoder : Eng := ⟨0, .decode, 0⟩
def encoder : Eng := ⟨0, .encode, 0⟩
def pre : Eng := ⟨0, .preprocess, 0⟩

/-- A module whose slot 0 of each engine has the jobs given, coding or not; one byte has been produced. -/
def sessions (coding : Bool) (live : Nat) (jobs : List Job) : State :=
  { running with
    mem := [(0x2100, 1)]
    media := [(0, { Session.closed with isOpen := true, coding := coding, block := blockOf live, jobs := jobs, started := true }),
      (64, { Session.closed with isOpen := true, coding := coding, block := blockOf live, jobs := jobs }),
      (256, { Session.closed with jobs := jobs })] }

/-- A slot in error, with a job that does not open it. -/
def broken : State :=
  { running with media := [(0, { Session.closed with isOpen := true, error := true, jobs := [job] })] }

/-- Jobs with and without OPEN, a slot in error, and a slot that is closed. -/
theorem test_meets_MediaSession : (sessions false 0 [job]).gableUp decoder = true ∧
    ((sessions false 0 [job]).session pre 0).jobs = [job] ∧ ((sessions false 0 [job]).session pre 0).coding = false ∧
    pre.kind = .preprocess ∧ decoder.kind ≠ .preprocess ∧ encoder.kind = .encode ∧
    ((sessions false 0 [{ job with open_ := true }]).session decoder 0).jobs = [{ job with open_ := true }] ∧
    ((sessions false 0 [job]).session decoder 0).jobs = [job] ∧ job.open_ = false ∧
    ((sessions false 0 [job]).session decoder 0).error = false ∧
    ((sessions false 0 [job]).session decoder 0).isOpen = true ∧
    ((sessions true 0 [job]).session decoder 0).coding = true ∧
    ((sessions true 0 [job]).session encoder 0).coding = true ∧
    (broken.session decoder 0).jobs = [job] ∧ (broken.session decoder 0).error = true ∧
    (broken.session decoder 0).coding = false ∧ (running.session decoder 0).isOpen = false := by decide +kernel

/-- The bytes ahead of the decoder: the one that has been produced. -/
def ahead (live : Nat) : List Byte :=
  (sessions true live [job]).ringBytes (blockOf live) 0 ((sessions true live [job]).peerCount decoder (blockOf live))

/-- The deadline of a live job is its acceptance here: cycle 0, which is now, or cycle 1. -/
theorem test_meets_PictureRecorded : decoder.wf = true ∧ encoder.wf = true ∧ pre.wf = true ∧
    (sessions true 1 [job]).gableUp decoder = true ∧
    ((sessions true 1 [job]).session decoder 0).jobs = [job] ∧ ((sessions true 1 [job]).session decoder 0).coding = true ∧
    ((sessions true 1 [job]).session decoder 0).waiting = false ∧
    passStarts ((sessions true 1 [job]).session decoder 0) 0 (ahead 1) = (0, 0) ∧
    ((sessions true 1 [job]).session decoder 0).skipping = 0 ∧ ahead 0 = [0] ∧ ahead 1 = [0] ∧
    blkLive (blockOf 0) = false ∧ blkLive (blockOf 1) = true ∧
    deadlineOf (blockOf 1) job ≤ (sessions true 1 [job]).refNow ∧
    (sessions true 1 [job]).refNow < deadlineOf (blockOf 1) { job with ref := 1 } ∧ job.close = false ∧
    (sessions true 1 [job]).pegIn job.ctx (blkDonePeg (blockOf 1)) = true := by decide +kernel

/-- Whatever the codec makes of the bytes ahead (open functions), one of the clauses has its hypotheses. -/
theorem test_meets_PictureRecorded_decode (v w : Session) (bs : List Byte) :
    firstPrefix (Config.pictureEnd v.block v.codec) bs = none ∨
      ∃ n, firstPrefix (Config.pictureEnd v.block v.codec) bs = some n ∧
      let p := bs.take (max n 1)
      let h := headersOf w p
      let r := Config.decodeCoded v.block h.codec p
      foreignStream v.block h = true ∨ (foreignStream v.block h = false ∧ preRap v h = true) ∨
        (foreignStream v.block h = false ∧ preRap v h = false ∧
          ((h.error = false ∧ r.error = false) ∨ h.error = true ∨ r.error = true)) := by
  cases firstPrefix (Config.pictureEnd v.block v.codec) bs with
  | none => exact .inl rfl
  | some n =>
    refine .inr ⟨n, rfl, ?_⟩
    dsimp only
    generalize foreignStream _ _ = f
    generalize preRap v _ = q
    generalize (headersOf w _).error = a
    generalize (Config.decodeCoded _ _ _).error = b
    revert f q a b
    decide

/-- With no byte ahead no picture is whole, no header has come, and the starts to pass over are still missing. -/
theorem test_meets_PictureRecorded_nothing (f : List Byte → Option Nat) (v : Session) :
    firstPrefix f [] = none ∧ nextHeaders v [] = none ∧ passStarts v 2 [] = (0, 2) := by
  simp [firstPrefix, nextHeaders, passStarts]

/-- Whatever headers come, their picture is one before the first random access point or not. -/
theorem test_meets_PictureRecorded_rap (v : Session) (h : Option Config.Headers) :
    (∃ x, h = some x ∧ preRap v x = true) ∨ ∀ x, h = some x → preRap v x = false := by
  cases h with
  | none => exact .inr fun x e => nomatch e
  | some y =>
    cases e : preRap v y with
    | true => exact .inl ⟨y, rfl, e⟩
    | false => exact .inr fun x g => Option.some.inj g ▸ e

/-- A job behind the head that opens the slot, and none. -/
theorem test_meets_PictureRecorded_opens :
    ((sessions true 1 [job, { job with open_ := true }]).session decoder 0).jobs = job :: [{ job with open_ := true }] ∧
    (([{ job with open_ := true }].head?.map Job.open_).getD false && decide (decoder.kind ≠ .preprocess)) = true ∧
    ((([] : List Job).head?.map Job.open_).getD false && decide (decoder.kind ≠ .preprocess)) = false := by decide +kernel

/-- Whatever the encoder makes of a picture, it fits its ring or does not. -/
theorem test_meets_PictureRecorded_encode :
    ((sessions true 1 [job]).session encoder 0).jobs = [job] ∧ ((sessions true 1 [job]).session encoder 0).waiting = false ∧
    ∀ free n : Nat, free < n ∨ n ≤ free :=
  ⟨by decide +kernel, by decide +kernel, Nat.lt_or_ge⟩

theorem entryAt : blkPicRec (blockOf 1) + 0 % 2 ^ blkPicLog2 (blockOf 1) * 16 = 0x2000 := by decide +kernel

theorem test_meets_PictureRecorded_ring : (sessions true 1 [job]).Canonical ∧
    ∀ i, i < 16 →
      (sessions true 1 [job]).writable (blkPicRec (blockOf 1) + 0 % 2 ^ blkPicLog2 (blockOf 1) * 16 + i) = true :=
  ⟨⟨by decide, by decide, by decide, by decide⟩,
    fun i h => writable_near _ _ i (by decide +kernel) (by rw [entryAt]; omega)⟩

/-! ### Hypotheses that are met: ports and messages (statements O45 to O49) -/

/-- Port 0 in a state, in use on X, with lanes 0 to 7, and light on its unit. -/
def portIn (st : Nat) : State :=
  { withRegs [(0x94, 1), (0x10200C, 0), (0x100110, 0x1E), (0x3000000, st + 0xFF * 8)] with ports := [] }

/-- The far end of port 0 in a cascade of one module on X: port 4 of the module itself. -/
def farEnd : Identity := { coord := 0, port := 4, feats := [0, 0, 0, 0], free := [1, 2, 3] }

theorem test_meets_PortStates : (portIn 2).pstate 0 = 2 ∧ hasLinkLayer 0 = true ∧ (portIn 3).pstate 0 = 3 ∧
    (portIn 3).inUse 0 = true ∧ (portIn 3).lit 0 = true ∧ 8 ≤ (lanesOf 0xFF).length ∧
    (portIn 0).pstate 0 ∈ [0, 1, 3, 4, 5] ∧ (portIn 1).pstate 0 = 1 := by decide +kernel

/-- A peer that fits and one whose feature words differ; a lane in use, and the spare. -/
theorem test_meets_PortStates_peer :
    (farEnd.coord = (portIn 1).neighbour (portAxis 0) (portPlus 0) ∧ farEnd.port = farPort 0) ∧
    farEnd.feats = (portIn 1).agreedWords ∧ { farEnd with feats := [1, 0, 0, 0] }.feats ≠ (portIn 1).agreedWords ∧
    7 ∈ lanesOf ((portIn 2).fld (Reg.eavStateLanes 0)) ∧ 8 ∉ lanesOf ((portIn 2).fld (Reg.eavStateLanes 0)) ∧
    8 ∉ lanesOf ((portIn 2).port 0).bad := by decide +kernel

/-- The endpoint's port, with a data-link layer of its own, in REPLAY. -/
theorem test_meets_PortStates_host : isHostPort 28 = true ∧ on.hostPort = 28 ∧
    (on.setFld (Reg.eavStateState 28) 3).pstate 28 = 3 := by decide +kernel

/-- A piece flit of nothing. -/
def flit (seq : Nat) : Flit := { seq := seq, typ := 1, queue := none, payload := List.replicate 240 0 }

/-- Bytes of nothing that wait. -/
def zeros : Wait := { typ := 1, queue := none, bytes := List.replicate 16 0, via := none }

/-- Port 0 UP with bytes waiting, flits unacknowledged, and credits of each class. -/
def sending (waiting : List Wait) (unacked : List Flit) (credits : Nat) : State :=
  { portIn 2 with
    ports := [(0, { Port.empty with waiting := waiting, unacked := unacked, credits := [credits, credits, credits] })] }

theorem test_meets_FlitSending : (sending [zeros] [flit 1] 1).pstate 0 = 2 ∧ isHostPort 0 = false ∧ hasLinkLayer 0 = true ∧
    ((sending [zeros] [] 1).port 0).waiting = [zeros] ∧
    ((sending [zeros] (List.replicate 1023 (flit 1)) 1).port 0).unacked.length < 1024 ∧
    (sending [zeros] [] 1).hasCredit 0 1 none = true ∧ (sending [zeros] [] 0).hasCredit 0 1 none = false ∧
    zeros.typ < 16 ∧ ((sending [] [] 1).port 0).waiting = [] := by decide +kernel

/-- A NAK finds the second of three flits. -/
theorem test_meets_FlitSending_nak :
    ((sending [] [flit 1, flit 2, flit 3] 1).port 0).unacked = [flit 1] ++ flit 2 :: [flit 3] ∧ (flit 2).seq = 2 ∧
    (∀ g ∈ [flit 1], g.seq ≠ 2) := by decide +kernel

/-- The endpoint's port UP, and the other. -/
theorem test_meets_FlitSending_host : ((on.setFld (Reg.eavStateState 28) 2).pstate 28 = 2 ∧ on.hostPort = 28) ∧
    (on.setFld (Reg.eavStateState 29) 2).pstate 29 = 2 ∧ isHostPort 29 = true ∧ on.hostPort ≠ 29 := by decide +kernel

/-- In order, out of order, acknowledging a flit, voided, and codewords at 15 and 16 symbol errors. -/
theorem test_meets_FlitAccepted : (sending [] [flit 1, flit 2] 0).pstate 0 = 2 ∧ 4095 < 4096 ∧ 2047 < 2048 ∧
    (List.replicate 240 (0 : Byte)).length = 240 ∧ 1 ∈ [1, 2, 3, 4, 8] ∧ 8 ∈ [1, 2, 3, 4, 8] ∧
    (¬∃ c ∈ [15, 0], 15 < c) ∧ (∃ c ∈ [0, 16], 15 < c) ∧
    (on.port 0).expect = 0 ∧ (on.port 0).expect ≠ 1 ∧
    ((sending [] [flit 1, flit 2] 0).port 0).unacked = [flit 1] ++ flit 2 :: [] := by decide +kernel

/-- The first lane of a list whose control payload is a given one. -/
theorem firstLane (f : Nat → List Byte) (n : Nat) : ∃ lane, lane ≤ n ∧ f lane = f n ∧ ∀ l, l < lane → f l ≠ f n := by
  by_cases h : ∃ l, l < n ∧ f l = f n
  · obtain ⟨l, hl, e⟩ := h
    obtain ⟨k, hk, ek, least⟩ := firstLane f l
    exact ⟨k, by omega, ek.trans e, fun x hx => e ▸ least x hx⟩
  · exact ⟨n, Nat.le_refl n, rfl, fun l hl e => h ⟨l, hl, e⟩⟩
termination_by n

/-- Whatever the layout of a control flit is (an open function), one asks for the spare of a lane that is in use. -/
theorem test_meets_FlitAccepted_spare :
    (∃ lane, lane ∈ lanesOf ((portIn 2).fld (Reg.eavStateLanes 0)) ∧
      ∀ l, l < lane → fit 240 (Config.controlPayload 0 [l]) ≠ fit 240 (Config.controlPayload 0 [lane])) ∧
    ∃ x, x < 9 ∧ x ∉ lanesOf ((portIn 2).fld (Reg.eavStateLanes 0)) ∧ x ∉ lanesOf ((portIn 2).port 0).bad := by
  have used : lanesOf ((portIn 2).fld (Reg.eavStateLanes 0)) = List.range 8 := by decide +kernel
  obtain ⟨lane, hl, e, least⟩ := firstLane (fun l => fit 240 (Config.controlPayload 0 [l])) 7
  refine ⟨⟨lane, by rw [used, List.mem_range]; omega, fun l h => ?_⟩, 8, by decide +kernel⟩
  have := least l h
  exact fun x => this (x.trans e)

/-- Of two flits that differ in their stored CRC alone, one fails. -/
theorem test_meets_FlitAccepted_damaged :
    ∃ bad : List Byte, bad.length = 256 ∧ crc64 (bad.take 248) ≠ le bad 248 8 := by
  have len (x : Byte) : (List.replicate 248 0 ++ x :: List.replicate 7 (0 : Byte)).length = 256 := by
    rw [List.length_append, List.length_cons, List.length_replicate, List.length_replicate]
  have head (x : Byte) : (List.replicate 248 0 ++ x :: List.replicate 7 (0 : Byte)).take 248 = List.replicate 248 0 :=
    List.take_left' List.length_replicate
  have zero : le (List.replicate 248 0 ++ (0 : Byte) :: List.replicate 7 (0 : Byte)) 248 8 = 0 := by decide +kernel
  have one : le (List.replicate 248 0 ++ (1 : Byte) :: List.replicate 7 (0 : Byte)) 248 8 = 1 := by decide +kernel
  by_cases h : crc64 (List.replicate 248 0) = 0
  · exact ⟨_, len 1, by rw [head, one, h]; decide⟩
  · exact ⟨_, len 0, by rw [head, zero]; exact h⟩

/-- Port 0 with a live transfer at index 4095, and one in quarantine until course 5 at index 7. -/
def tagged (course : Nat) : State :=
  { portIn 2 with
    course := { Course.reset with count := BitVec.ofNat 48 course }
    ports := [(0, { Port.empty with
      tags := [(4095, { epoch := 15, live := some 0, until_ := 0 }), (7, { epoch := 1, live := none, until_ := 5 })] })] }

theorem test_meets_Transfers :
    ((tagged 0).tagEntry 0 (65535 % 4096)).live.isSome = true ∧ ((tagged 0).tagEntry 0 (65535 % 4096)).epoch = 65535 / 4096 % 16 ∧
    ((tagged 0).tagEntry 0 (4095 % 4096)).epoch ≠ 4095 / 4096 % 16 ∧
    ((tagged 5).tagEntry 0 7).live = none ∧ ((tagged 5).tagEntry 0 7).until_ ≠ 0 ∧
    ((tagged 5).tagEntry 0 7).until_ ≤ (tagged 5).course.count.toNat ∧
    (tagged 4).course.count.toNat < ((tagged 4).tagEntry 0 7).until_ := by decide +kernel

/-- A piece of the collective that runs next, one of another number, and one of a context that no image has. -/
theorem test_meets_Transfers_piece : running.up = true ∧ msg.dest = running.ownCoord ∧
    (running.context msg.ctx).isSome = true ∧ running.nextColl msg.ctx (portAxis 27) = msg.collseq ∧
    running.nextColl msg.ctx (portAxis 27) ≠ ({ msg with collseq := 65535 } : Msg).collseq ∧
    running.collRuns msg.ctx (portAxis 27) 65535 = false ∧ (running.context 63).isSome = false := by decide +kernel

/-- A module with a stream window of 16 bytes on port 30, a ridge or a member of a cascade of two on X. -/
def windowed (role : Nat) (raisedRing : List (Nat × Nat)) : State :=
  { withRegs ([(0x20010, role), ((Reg.kpCoordX).off, 2 ^ 16), (0x3000000, 2)] ++ raisedRing) with
    image := some { image with cascade := some { cascade with windows := [⟨30, 0x400000, 0x40000F, 0⟩] } }
    inTransit := [(4, { msg with dest := 1 })] }

/-- A stream message at the last byte of the window, and past it. -/
theorem test_meets_Messages : (windowed 1 []).up = true ∧
    ((windowed 1 []).window 30 { msg with offset := 14 } 2).isSome = true ∧ msg.data.length = msg.len ∧
    ((windowed 1 []).window 30 { msg with offset := 8, data := toLe 8 1 } 8).isSome = true ∧
    (windowed 1 []).window 30 { msg with offset := 15 } 2 = none ∧
    (windowed 1 []).window 30 { msg with offset := 9 } 8 = none := by decide +kernel

/-- An event message to the ridge with its ring enabled, disabled and full. -/
theorem test_meets_Messages_event : (windowed 1 []).fld Reg.kpBeaconRole = 1 ∧
    msg.dest = (windowed 1 []).ownCoord ∧ (windowed 1 []).fld Reg.evtCtlCen = 0 ∧
    (windowed 1 [(0x30018, 2)]).fld Reg.evtCtlCen = 1 ∧ (windowed 1 [(0x30018, 2)]).fld Reg.evtCwriteIndex = 0 ∧
    2 ^ (windowed 1 [(0x30018, 2), (0x30028, 0), (0x3002C, 1)]).fld Reg.evtCsizeLog2 ≤
      ((windowed 1 [(0x30018, 2), (0x30028, 0), (0x3002C, 1)]).fld Reg.evtCwriteIndex + 2 ^ 32 - 0) % 2 ^ 32 := by
  decide +kernel

/-- The slot of the cascade ring lies in memory that is let in. -/
theorem test_meets_Messages_slot (i : Nat) (h : i < 32) :
    let s := windowed 1 [(0x30018, 2)]
    s.writable ((s.fld Reg.evtCbaseAddrLo + s.fld Reg.evtCbaseHiAddrHi * 2 ^ 32) / 4096 * 4096 +
      s.fld Reg.evtCwriteIndex % 2 ^ s.fld Reg.evtCsizeLog2 * 32 + i) = true := by
  have e : ((windowed 1 [(0x30018, 2)]).fld Reg.evtCbaseAddrLo +
      (windowed 1 [(0x30018, 2)]).fld Reg.evtCbaseHiAddrHi * 2 ^ 32) / 4096 * 4096 +
      (windowed 1 [(0x30018, 2)]).fld Reg.evtCwriteIndex %
        2 ^ (windowed 1 [(0x30018, 2)]).fld Reg.evtCsizeLog2 * 32 = 0 := by decide +kernel
  exact writable_near _ _ i (by rw [e]; decide +kernel) (by rw [e]; omega)

/-- A message that waits in transit at port 0, none of it sent yet. -/
def crossing : State :=
  let m : Msg := { msg with dest := 1 }
  { windowed 2 [] with
    inTransit := []
    ports := [(0, { Port.empty with waiting := [{ typ := 2, queue := none, bytes := msgBytes m, via := some (4, m) }] })] }

/-- Messages to the other member of X: one for which the way is up, one for which there is none, one that waits before
its port, one that waits at it, and one that waits nowhere. -/
theorem test_meets_Messages_transit : ({ msg with dest := 1 } : Msg).dest ≠ (windowed 2 []).ownCoord ∧
    (windowed 2 []).route (some 4) 1 0 = some 0 ∧ (windowed 2 []).pstate 0 = 2 ∧ on.route (some 4) 1 0 = none ∧
    (4, { msg with dest := 1 }) ∈ (windowed 2 []).inTransit ∧ (4, msg) ∉ (windowed 2 []).inTransit ∧
    (4, { msg with dest := 1 }) ∉ crossing.inTransit ∧
    (∃ w ∈ (crossing.port 0).waiting, w.via = some (4, { msg with dest := 1 }) ∧ w.bytes.length = 16 + msg.data.length) ∧
    ∀ o, o < 28 → ((windowed 2 []).port o).waiting = [] := by decide +kernel

theorem test_meets_Messages_canonical : (windowed 1 []).Canonical := ⟨by decide, by decide, by decide, by decide⟩
/-! ### Hypotheses that are met: the module's life (statements O50 to O60) -/

/-- A module with lanes marked on a link of die 0, at a course count. -/
def marked (n course : Nat) : State :=
  { on with
    reliab := { Reliab.reset with marked := (List.range n).map fun l => (0, 1, false, l), repaired := [(3, 0, true, 8)] }
    course := { Course.reset with count := BitVec.ofNat 48 course } }

theorem test_meets_LanesAndWeathering : (marked 3 0).up = true ∧ (1, 0, false, 0) ∉ (marked 3 0).reliab.marked ∧
    (1, 0, false, 0) ∉ (marked 3 0).reliab.repaired ∧ (0, 1, false, 2) ∈ (marked 3 0).reliab.marked ∧
    (3, 0, true, 8) ∈ (marked 3 0).reliab.repaired ∧ 3 ≤ (marked 3 0).lanesSpent 0 (0 = 1) ∧
    (marked 2 0).lanesSpent 0 (0 = 1) < 3 ∧ (marked 2 0).lanesSpent 3 (1 = 1) < 3 := by decide +kernel

theorem test_meets_LanesAndWeathering_course : (marked 0 0).course.count = 0 ∧
    (marked 0 (2 ^ 20 + 1)).course.count.toNat % 2 ^ 20 ≠ 0 ∧ (marked 0 (2 ^ 20)).course.count.toNat % 2 ^ 20 = 0 ∧
    (marked 0 (2 ^ 20)).course.count ≠ 0 ∧ (marked 0 0).transit.diesOff = false := by decide +kernel

/-- The readings of a die with 24 ps on bay 0 and 41 ps on the others, each step giving 1 ps; one copy written or none. -/
def readings (copy : Bool) : Readings :=
  { slack := (List.range 8).map fun p => (⟨0, p⟩, if p = 0 then 24 else 41), gain := [(0, 1)], laser := [], rx := [],
    eye := [], copy0 := copy, copy1 := false }

theorem test_meets_LanesAndWeathering_end : (readings true).copy0 = true ∧ (readings false).copy0 = false ∧
    (readings false).copy1 = false ∧ (marked 0 (2 ^ 20)).dieSlack (readings true) 0 [] = some 24 ∧
    (marked 0 (2 ^ 20)).plannedMhz = 1600 ∧ (marked 0 (2 ^ 20)).lacking (readings true) [] = [⟨0, 0⟩] ∧
    (marked 0 (2 ^ 20)).spareOf 0 = some ⟨0, 8⟩ ∧ (marked 0 (2 ^ 20)).spareTaken 0 = false ∧
    (marked 0 (2 ^ 20)).allKeep (readings true) [(0, 1)] [] 1600 1600 25 = true ∧
    (marked 0 (2 ^ 20)).allKeep (readings true) [(0, 0)] [] 1600 1600 25 = false ∧
    ({ marked 0 (2 ^ 20) with transit := { Transit.idle with diesOff := true } } : State).up = true := by decide +kernel

/-- Start-up at a stage, with unit 3 lit and port 28 UP, the accepted CORE bit or not, the words locked or not. -/
def stageAt (stage core locked : Nat) : State :=
  withRegs [(4, stage), (0x10, 1), (0x50, core), (0x94, locked), (0x100110, 0x10), ((Reg.eavStateState 28).off, 2)]

/-- The results of a stage, with so many failing lanes on one link. -/
def staged (ok slot0 slot1 : Bool) (failing : Nat) : StageResult :=
  { ok := ok, ecode := 255, slot0 := slot0, slot1 := slot1
    mesh := ⟨(List.range failing).map fun l => (0, 1, false, l)⟩ }

theorem test_meets_BringupAndFeatures : (stageAt 0 0 0).up = true ∧ (stageAt 0 0 0).reach .host = true ∧
    (stageAt 0 0 0).fld Reg.kpReadyError = 0 ∧ (stageAt 0 0 0).fld Reg.kpReadyStage = 0 ∧
    (stageAt 0 0 0).fld Reg.flFwstatSlot = 0 ∧ (stageAt 3 0 0).fld Reg.kpReadyStage = 3 ∧
    (stageAt 3 0 0).hostPortUp = true ∧ (stageAt 4 0 0).fld Reg.kpReadyStage < 5 ∧
    5 ≤ (stageAt 5 0 0).fld Reg.kpReadyStage := by decide +kernel

/-- A slot that verifies runs when its version is not below the fused one; the after-reset versions are 0, and SVN is
0, or 1. -/
theorem test_meets_BringupAndFeatures_firmware :
    (stageAt 0 0 0).fld Reg.flFwstatSvn ≤ (stageAt 0 0 0).mgmt.fwVer.getD 1 0 ∧
    ¬(withRegs [(0x180040, 0x100)]).fld Reg.flFwstatSvn ≤ (withRegs [(0x180040, 0x100)]).mgmt.fwVer.getD 0 0 ∧
    (staged true true false 0).slot0 = true ∧ (staged true false true 0).slot1 = true ∧
    (staged false true true 0).ok = false ∧ (staged false true true 0).ecode < 256 := by decide +kernel

/-- A link keeps two failing lanes, and not three. -/
theorem test_meets_BringupAndFeatures_mesh :
    (∃ x ∈ (staged true true true 3).mesh.failed, 2 < ((staged true true true 3).mesh.failed.eraseDups.filter fun y =>
      decide (y.1 = x.1 ∧ y.2.1 = x.2.1 ∧ y.2.2.1 = x.2.2.1)).length) ∧
    ¬∃ x ∈ (staged true true true 2).mesh.failed, 2 < ((staged true true true 2).mesh.failed.eraseDups.filter fun y =>
      decide (y.1 = x.1 ∧ y.2.1 = x.2.1 ∧ y.2.2.1 = x.2.2.1)).length := by decide +kernel

theorem test_meets_BringupAndFeatures_lock : (stageAt 6 1 1).fld Reg.kpFeatstatLocked = 1 ∧
    (stageAt 5 1 0).fld Reg.kpFeatstatLocked = 0 ∧
    (stageAt 5 1 0).fld (Reg.kpFeataccBits 0) % 2 = 1 ∧ (stageAt 5 0 0).fld (Reg.kpFeataccBits 0) % 2 ≠ 1 ∧
    (∀ k, k < 16 → ∀ b, b < 32 → bits ((stageAt 5 1 0).fld (Reg.kpFeataccBits k)) b 1 = 1 →
      bits ((stageAt 5 1 0).reg (0x10 + 4 * k)).toNat b 1 = 1) := by decide +kernel

/-- The bytes other than 0 of an image of one context, one span, one course a frame and nothing else; CRC worked out by
hand from 16 R440. -/
def imageBytes : List Host.Cell :=
  [(0, 84), (1, 72), (2, 67), (3, 72), (4, 1), (6, 7), (8, 132), (9, 2), (12, 194), (13, 203), (14, 110), (15, 181),
   (128, 1), (133, 1), (136, 64), (140, 1), (144, 2), (148, 128), (149, 1), (152, 8), (156, 1), (160, 3), (165, 2),
   (176, 4), (181, 2), (192, 6), (197, 2), (200, 4), (208, 10), (213, 2), (224, 15), (228, 128), (229, 2), (232, 4),
   (236, 1), (384, 1), (512, 1), (641, 64), (642, 8)]

/-- A module at an image state, with that image in its memory. -/
def holding (stage st : Nat) : State := { withRegs [(4, stage), (0x1001C, st)] with mem := imageBytes }

/-- A fold whose value is worked out at each element. -/
def eager {α : Type} (f : Nat → α → Nat) : List α → Nat → Nat
  | [], c => c
  | x :: t, c =>
    match f c x with
    | 0 => eager f t 0
    | n + 1 => eager f t (n + 1)

theorem eager_eq {α : Type} (f : Nat → α → Nat) : ∀ (l : List α) (c : Nat), eager f l c = l.foldl f c
  | [], _ => rfl
  | x :: t, c => by
    rw [List.foldl_cons, eager]
    split <;> rename_i h <;> rw [h, eager_eq f t]

/-- A fold in pieces, with its value after each. -/
def foldsTo {α : Type} (f : Nat → α → Nat) : List (List α × Nat) → Nat → Bool
  | [], _ => true
  | (l, v) :: t, c => decide (eager f l c = v) && foldsTo f t v

theorem foldl_of_pieces {α : Type} (f : Nat → α → Nat) : ∀ (l : List (List α × Nat)) (c : Nat), foldsTo f l c = true →
    (l.flatMap Prod.fst).foldl f c = (l.map Prod.snd).getLastD c
  | [], _, _ => rfl
  | (x, v) :: t, c, h => by
    simp only [foldsTo, Bool.and_eq_true, decide_eq_true_eq, eager_eq] at h
    rw [List.flatMap_cons, List.foldl_append, h.1, foldl_of_pieces f t v h.2]
    cases t with
    | nil => rfl
    | cons a r => simp [List.getLastD]

/-- The CRC register after each 28 bytes of that image. -/
def crcPieces : List (List Nat × Nat) :=
  ([268474424, 2079858033, 3289633925, 817062721, 580655608, 3946394780, 132755824, 774795017, 299387230, 506618080,
    1219530316, 48805648, 1438677217, 4035560153, 1625656448, 2804328697, 400533975, 259585361, 99827219, 2213807400,
    444192230, 3331316816, 1251030077].zipIdx).map fun (v, i) => (List.range' (28 * i) 28, v)

theorem crc_pieces : foldsTo (fun c i => crc32cByte c (if 12 ≤ i ∧ i < 16 then 0 else (holding 6 0).img i 1)) crcPieces
    0xFFFFFFFF = true := by decide +kernel
theorem crc_range : crcPieces.flatMap Prod.fst = List.range 644 := by decide +kernel

theorem imageCrc_of_pieces (s : State) (size : Nat) (l : List (List Nat × Nat))
    (h : foldsTo (fun c i => crc32cByte c (if 12 ≤ i ∧ i < 16 then 0 else s.img i 1)) l 0xFFFFFFFF = true)
    (r : l.flatMap Prod.fst = List.range size) :
    s.imageCrc size = (l.map Prod.snd).getLastD 0xFFFFFFFF ^^^ 0xFFFFFFFF := by
  rw [State.imageCrc, ← r, foldl_of_pieces _ _ _ h]

theorem crc_of_image : (holding 6 0).imageCrc 644 = 0xB56ECBC2 :=
  (imageCrc_of_pieces (holding 6 0) 644 crcPieces crc_pieces crc_range).trans (by decide +kernel)

theorem firstOf_none (l : List (Option Refuse)) (h : ∀ x ∈ l, x = none) : firstOf l = none := by
  unfold firstOf
  induction l with
  | nil => rfl
  | cons x t ih => rw [List.foldl_cons, h x (by simp)]; exact ih fun y hy => h y (by simp [hy])

theorem check02_none (s : State) (size crc : Nat) (hs : s.img 8 4 = size) (hc : s.img 12 4 = crc)
    (h : s.imageCrc size = crc) : s.check02 = none := by
  rw [State.check02, hs, hc, h, if_pos rfl]

theorem admission_none (s : State) (h1 : s.check01 = none) (h2 : s.check02 = none) (h3 : s.check03 = none)
    (h : s.checkTables s.readImage = none) : s.admission = none := by
  rw [State.admission, h1, h2, h3, h]
  rfl

theorem test_image_tables : (holding 6 0).checkTables (holding 6 0).readImage = none := by
  refine firstOf_none _ ?_
  simp only [List.forall_mem_cons, List.not_mem_nil, false_imp_iff, implies_true, and_true]
  and_intros <;> decide +kernel

theorem test_image_admitted : (holding 6 0).admission = none :=
  admission_none _ (by decide +kernel)
    (check02_none _ 644 0xB56ECBC2 (by decide +kernel) (by decide +kernel) crc_of_image) (by decide +kernel)
    test_image_tables

/-- The same module with its image loaded, or running with no task. -/
def loaded (st : Nat) : State := { holding 6 st with image := some image }

theorem test_meets_Images : (holding 6 0).up = true ∧ (holding 6 0).reach .bus = true ∧
    (holding 6 0).fld Reg.kpReadyStage = 6 ∧ (holding 6 0).fld Reg.kpImgstatState = 0 ∧
    (holding 6 4).fld Reg.kpImgstatState = 4 ∧ ¬((holding 5 0).fld Reg.kpReadyStage = 6) ∧
    (holding 7 3).fld Reg.kpImgstatState = 3 := by decide +kernel

theorem test_meets_Images_ends :
    (loaded 2).image = some image ∧ (loaded 2).fld Reg.kpImgstatState = 2 ∧ 0 < image.queues.length ∧
    (loaded 5).fld Reg.kpImgstatState = 5 ∧ (loaded 5).anyRunning = false := by decide +kernel

/-- Memory that holds no image: the header is refused. -/
theorem test_image_refused : (stageAt 6 1 1).admission = some ⟨1, 0xFF, 0⟩ := by
  have h : (stageAt 6 1 1).check01 = some ⟨1, 0xFF, 0⟩ := by decide +kernel
  rw [State.admission, h]
  rfl

/-- A module before its power comes, or in Dormer-3. -/
def unpowered : State := State.reset
def standby : State := { on with power := { on.power with rails := 1, released := false, dormer3 := true } }

/-- In Dormer-3 with service access open. -/
def openStandby : State := standby.setFld Reg.flSvcstatOpen 1

theorem test_meets_InputPower : unpowered.power.input = false ∧ (pins 63).slotId < 64 ∧ 1 ≤ 6 ∧
    standby.power.dormer3 = true ∧ unpowered.power.dormer3 = false ∧ on.power.input = true ∧
    standby.powered 31 = true ∧ openStandby.service = true ∧ openStandby.power.dormer3 = true := by decide +kernel

/-- A span number, a die and a bay under a reset's key. -/
def kpReset (kind span die bay : Nat) : Word := BitVec.ofNat 32 (0x5A * 2 ^ 24 + kind + span * 2 ^ 4 + die * 2 ^ 9 + bay * 2 ^ 14)

/-- A module that runs an image, with a warm reset at a step and span resets waiting. -/
def resetting (warm : Nat) (spans : List Nat) : State :=
  { running with transit := { Transit.idle with warm := warm, spans := spans } }

/-- Each kind with its key, no kind, and a wrong key. -/
theorem test_meets_Resets_key : (kpReset 1 0 0 0).toNat / 2 ^ 24 = 0x5A ∧ (kpReset 1 0 0 0).toNat % 16 = 1 ∧
    (kpReset 2 0 0 0).toNat % 16 = 2 ∧ (kpReset 4 0 0 0).toNat % 16 = 4 ∧ (kpReset 8 0 23 8).toNat % 16 = 8 ∧
    (∀ k ∈ [1, 2, 4, 8], (kpReset 3 0 0 0).toNat % 16 ≠ k) ∧
    (kpReset 3 0 0 0 - 0x1000000).toNat / 2 ^ 24 ≠ 0x5A := by decide +kernel

theorem test_meets_Resets : running.transit.entering = false ∧ running.fld Reg.kpDormerState = 0 ∧
    running.transit.warm = 0 ∧ running.image = some image ∧ running.fld Reg.kpImgstatState = 3 ∧
    (kpReset 4 0 0 0).toNat / 16 % 32 < image.spans.length ∧
    (⟨(kpReset 8 0 23 8).toNat / 2 ^ 9 % 32, (kpReset 8 0 23 8).toNat / 2 ^ 14 % 16⟩ : PBay) = ⟨23, 8⟩ ∧
    PBay.wf ⟨23, 8⟩ = true ∧ on.spareOf 23 = some ⟨23, 8⟩ := by decide +kernel

/-- A warm reset and two span resets that wait for their ends; the lanes of a mesh that trains and of one that does not
are those of start-up. -/
theorem test_meets_Resets_waiting : (resetting 2 []).up = true ∧ (resetting 2 []).transit.warm = 2 ∧
    (resetting 0 [1, 0]).image = some image ∧ 0 ∈ (resetting 0 [1, 0]).transit.spans ∧
    ((resetting 0 [1, 0]).bays.map Prod.fst).Nodup ∧ on.powered 31 = true := by decide +kernel

theorem test_meets_Resets_empty : ({ on with transit := { Transit.idle with warm := 2 } } : State).image = none := by
  decide +kernel

theorem test_meets_Resets_carried : on.Carries .host 0xA0 ∧ running.Carries .bus 0xA0 :=
  ⟨⟨by decide, by decide⟩, by decide, by decide⟩

theorem test_meets_Resets_spanIdle (b : PBay) (r : Running) : r ∉ ((resetting 0 [1, 0]).bay b).running := by
  simp [resetting, running, State.bay, BayState.empty, Store.get]

theorem test_meets_Resets_pinLow : ({ on with power := { on.power with pinLow := true } } : State).power.pinLow = true ∧
    ({ on with power := { on.power with pinLow := true } } : State).powered 31 = true := by decide +kernel

/-- A module in a dormer state, with an image state. -/
def dormer (st : Nat) : State := withRegs [(0xA4, st * 4), (0x1001C, 0)]

theorem test_meets_DormerStates : (dormer 0).fld Reg.kpDormerState = 0 ∧ (dormer 0).fld Reg.kpImgstatState = 0 ∧
    (dormer 1).fld Reg.kpDormerState = 1 ∧ (dormer 2).fld Reg.kpDormerState = 2 ∧ (dormer 3).fld Reg.kpDormerState = 3 ∧
    (holding 7 3).fld Reg.kpImgstatState = 3 ∧ (dormer 0).up = true ∧ standby.powered 31 = true ∧
    standby.power.dormer3 = true := by decide +kernel

/-- A boundary at which a requested state is entered or left, and a Dormer-3 with service access open. -/
theorem test_meets_DormerStates_boundary :
    ({ on with transit := { Transit.idle with entering := true } } : State).anyRunning = false ∧
    ({ on with transit := { Transit.idle with leaving := true } } : State).transit.entering = false ∧
    openStandby.powered 31 = true ∧ openStandby.service = true := by decide +kernel

theorem test_meets_DormerStates_carried : (dormer 0).Carries .bus 0xA4 ∧ (dormer 2).Carries .host 0xA4 ∧
    (holding 7 3).Carries .host 0xA4 := ⟨⟨by decide, by decide⟩, ⟨by decide, by decide⟩, by decide, by decide⟩

theorem test_meets_PmBus : on.powered 31 = true ∧ 65535 < 2 ^ 16 ∧ 255 < 256 ∧ 31 < 32 := by decide +kernel

/-- The alerts that are 1, and those enabled. -/
def alerting (alerts enabled : Nat) : State := withRegs [(0x100104, alerts), (0x100108, enabled)]

theorem test_meets_ManagementBus : (alerting 0x40 0x40).powered 31 = true ∧
    (6 < 7 ∧ bits ((alerting 0x40 0x40).reg 0x100104).toNat 6 1 = 1 ∧
      bits ((alerting 0x40 0x40).fld Reg.flAlertenEn) 6 1 = 1) ∧
    ∀ i, i < 7 → bits ((alerting 0x40 0x3F).reg 0x100104).toNat i 1 = 1 →
      bits ((alerting 0x40 0x3F).fld Reg.flAlertenEn) i 1 = 0 := by decide +kernel

/-- FL_ILK, the contacts made and the units whose hold runs; port 24 UP. -/
def lasers (ilk presence hold : Nat) : State :=
  { withRegs [(0x100110, ilk), ((Reg.eavStateState 24).off, 2)] with
    mgmt := { on.mgmt with presence := presence, hold := hold } }

theorem test_meets_Lasers : (lasers 0x1F 15 0).powered 31 = true ∧ 1000 ≤ 1000 ∧
    (lasers 0x1F 15 0).fld Reg.flIlkClosed = 1 ∧ bits ((lasers 0x1F 15 0).fld Reg.flIlkLit) (24 / 8) 1 = 1 ∧
    (lasers 0x1F 15 0).pstate 24 = 2 ∧ 3000 ≤ 3000 ∧ (lasers 0 15 0).fld Reg.flIlkClosed = 0 ∧
    bits (lasers 1 7 0).mgmt.presence 3 1 = 0 ∧ bits (lasers 1 15 8).mgmt.hold 3 1 = 1 ∧
    (lasers 1 15 8).power.rails = 0x7F ∧ (lasers 1 15 8).fld Reg.flIlkClosed = 1 := by decide +kernel

theorem test_meets_Firmware : on.up = true ∧ on.transit.selfRefresh = false ∧ on.mgmt.fwRun ≤ 0x20 ∧
    on.fld Reg.flFwstatSvn ≤ 0 ∧ 0 < (withRegs [(0x180040, 0x100)]).fld Reg.flFwstatSvn := by decide +kernel

theorem test_meets_Firmware_carried : on.Carries .bus 0x180044 := ⟨by decide, by decide⟩

/-- FL_SVCSTAT and FL_SVCLEN. -/
def service (stat len : Nat) : State := withRegs [(0x180000, stat), (0x180008, len)]

/-- A TRY that runs, with tries left, locked out or not. -/
def trying (stat : Nat) (h : Option Nat) : State :=
  { service stat 8 with mgmt := { on.mgmt with svcCmd := 2, pwHash := h } }

theorem test_meets_ServiceAccess_buffer : (service 0x50 8).fld Reg.flSvcstatBusy = 0 ∧ (service 0x50 8).fld Reg.flSvcstatPwset = 0 ∧
    8 ≤ (service 0x50 8).fld Reg.flSvclenLen ∧ (service 0x50 32).fld Reg.flSvclenLen ≤ 32 ∧
    (service 0x52 8).fld Reg.flSvcstatPwset = 1 ∧ (service 0x50 7).fld Reg.flSvclenLen < 8 ∧
    32 < (service 0x50 33).fld Reg.flSvclenLen ∧ (service 0x54 8).fld Reg.flSvcstatBusy = 1 ∧
    (service 0x50 96).mgmt.challenge = false ∧ (service 0x50 96).fld Reg.flSvclenLen = 96 := by decide +kernel

theorem test_meets_ServiceAccess :
    (trying 0x56 none).powered 31 = true ∧ (trying 0x56 none).fld Reg.flSvcstatBusy = 1 ∧
    (trying 0x56 none).mgmt.svcCmd = 2 ∧ (trying 0x56 none).fld Reg.flSvcstatLockout = 0 ∧
    (trying 0x56 none).mgmt.pwHash ≠ some (Config.passwordHash (trying 0x56 none).svcBytes) ∧
    (trying 0x16 none).fld Reg.flSvcstatTries ≤ 1 ∧ (trying 0x0E none).fld Reg.flSvcstatLockout = 1 := by
  and_intros <;> decide +kernel

theorem test_meets_ServiceAccess_right : ∃ h, (trying 0x56 h).mgmt.pwHash =
    some (Config.passwordHash (trying 0x56 h).svcBytes) := ⟨some (Config.passwordHash (trying 0x56 none).svcBytes), rfl⟩

theorem test_meets_ServiceAccess_carried : (service 0x50 8).Carries .host 0x180004 ∧ (service 0x54 8).Carries .bus 0x180004 :=
  ⟨⟨by decide, by decide⟩, by decide, by decide⟩

theorem foldl_keeps_poison (s : State) (l : List Nat) (f : State → Nat → State)
    (hf : ∀ t x, t.poison = [] → (f t x).poison = []) (h : s.poison = []) : (l.foldl f s).poison = [] := by
  induction l generalizing s with
  | nil => exact h
  | cons x r ih => exact ih (f s x) (hf s x h)

theorem poisonedIn_none (t : State) (h : t.poison = []) (a n : Nat) : t.poisonedIn a n = [] := by
  unfold State.poisonedIn
  rw [h]
  simp

/-- A clean store is read clean, whatever the length of what is read. -/
theorem noteRead_clean (s : State) (h : s.poison = []) (src : Source) (a n : Nat) : (s.noteRead src a n).2 = false := by
  unfold State.noteRead
  dsimp only
  rw [poisonedIn_none]
  · rfl
  · refine foldl_keeps_poison _ _ _ (fun t x ht => ?_) ?_
    · by_cases c : t.retired x = true
      · rw [if_pos c]; exact ht
      · rw [if_neg c]; exact ht
    · split
      · exact h
      · exact h

theorem test_meets_Firmware_clean : (on.noteRead ⟨31, 2⟩ on.fwAddr Config.firmwareLength).2 = false :=
  noteRead_clean on rfl _ _ _

/-- Whatever an image's version is (an open function of its bytes), one of the first two clauses has its hypotheses. -/
theorem test_meets_Firmware_version (v : Option Nat) : v = none ∨ ∃ n, v = some n ∧ on.fld Reg.flFwstatSvn ≤ n := by
  cases v with
  | none => exact .inl rfl
  | some n => exact .inr ⟨n, rfl, by rw [show on.fld Reg.flFwstatSvn = 0 by decide +kernel]; exact Nat.zero_le n⟩

/-- 15 R425's own figures: at the largest BUDGET a shift on X carries 2 MiB, and no more than 2.24 MB;
2 MiB take 5.592 µs beside two hops of 1.5 µs, 13,679.1 cycles. -/
theorem test_collective_time : tooSlow 14289 (2 * 2 ^ 20) (hopCount 4 8) 0 = false ∧
    tooSlow 14289 2240000 (hopCount 4 8) 0 = false ∧ tooSlow 14289 2250000 (hopCount 4 8) 0 = true ∧
    tooSlow 13679 (2 * 2 ^ 20) (hopCount 4 8) 0 = true ∧ tooSlow 13680 (2 * 2 ^ 20) (hopCount 4 8) 0 = false := by decide +kernel

end Sys2Proof.Tests
end

section
/-! SUPPORT. Bit fields that stand side by side in a word: what each reads, and that the fields of every register of
the map stand so. -/

namespace Sys2Proof.Machine

/-! ### Bit fields -/

/-- A field that lies below bit `k` does not see the bits from `k` up. -/
theorem bits_mod_two_pow (x : Nat) {lo n k : Nat} (h : lo + n ≤ k) : bits (x % 2 ^ k) lo n = bits x lo n := by
  obtain ⟨j, rfl⟩ := Nat.exists_eq_add_of_le h
  unfold bits
  rw [Nat.pow_add, Nat.pow_add, Nat.mul_assoc, Nat.mod_mul_right_div_self, Nat.mod_mul_right_mod]

/-- A field of a 32-bit word made from a number is that of the number. -/
theorem bits_toNat_ofNat (x : Nat) {lo n : Nat} (h : lo + n ≤ 32) : bits (BitVec.ofNat 32 x).toNat lo n = bits x lo n := by
  rw [BitVec.toNat_ofNat, bits_mod_two_pow x h]

/-- A bit of a field is a bit of the number. -/
theorem bits_bits (x lo n : Nat) {i : Nat} (h : i < n) : bits (bits x lo n) i 1 = bits x (lo + i) 1 := by
  show bits (x / 2 ^ lo % 2 ^ n) i 1 = _
  rw [bits_mod_two_pow _ (Nat.succ_le_of_lt h)]
  unfold bits
  rw [Nat.div_div_eq_div_mul, ← Nat.pow_add]

theorem bits_zero (lo n : Nat) : bits 0 lo n = 0 := by simp [bits]

theorem bits_of_lt {x lo : Nat} (n : Nat) (h : x < 2 ^ lo) : bits x lo n = 0 := by
  simp [bits, Nat.div_eq_of_lt h]

/-- A value shifted into its place reads back. -/
theorem bits_mul_two_pow {x n : Nat} (lo : Nat) (h : x < 2 ^ n) : bits (x * 2 ^ lo) lo n = x := by
  rw [bits, Nat.mul_div_cancel _ (Nat.two_pow_pos lo), Nat.mod_eq_of_lt h]

/-- Adding a value in the place of a clear field writes the field. -/
theorem add_eq_putBits {x v lo n : Nat} (hx : bits x lo n = 0) (hv : v < 2 ^ n) :
    v * 2 ^ lo + x = putBits x lo n v := by
  rw [putBits, hx, Nat.mod_eq_of_lt hv]
  omega

/-! ### Fields side by side -/

/-- Two fields of a register share no bit. -/
abbrev FieldSpec.Apart (f g : FieldSpec) : Prop := f.lo + f.width ≤ g.lo ∨ g.lo + g.width ≤ f.lo

/-- The fields of a register lie in its 32 bits and share none. -/
abbrev FieldsFit (fs : List FieldSpec) : Prop :=
  (∀ f ∈ fs, f.lo + f.width ≤ 32) ∧ fs.Pairwise FieldSpec.Apart

/-- A number holds nothing outside a field. -/
def FieldSpec.Holds (f : FieldSpec) (x : Nat) : Prop := ∃ v, v < 2 ^ f.width ∧ x = v * 2 ^ f.lo

section
variable {c : FieldSpec → Nat} {fs : List FieldSpec} (hc : ∀ f ∈ fs, f.Holds (c f)) (hp : fs.Pairwise FieldSpec.Apart)
include hc hp

/-- A word put together from its fields is 0 where none of them lies. -/
theorem bits_sum_outside (a m : Nat) (h : ∀ f ∈ fs, a + m ≤ f.lo ∨ f.lo + f.width ≤ a) :
    bits (fs.map c).sum a m = 0 := by
  induction fs generalizing a m with
  | nil => exact bits_zero a m
  | cons f rest ih =>
    obtain ⟨v, hv, e⟩ := hc f List.mem_cons_self
    have ih := ih (fun g hg => hc g (List.mem_cons_of_mem _ hg)) hp.of_cons
    have clear : bits (rest.map c).sum f.lo f.width = 0 := ih _ _ fun g hg => List.rel_of_pairwise_cons hp hg
    rw [List.map_cons, List.sum_cons, e, add_eq_putBits clear hv, bits_putBits_other _ _ _ _ _ _ (h f List.mem_cons_self)]
    exact ih a m fun g hg => h g (List.mem_cons_of_mem _ hg)

/-- A word put together from its fields reads each of them back. -/
theorem bits_sum_field {f : FieldSpec} (hf : f ∈ fs) : bits (fs.map c).sum f.lo f.width = bits (c f) f.lo f.width := by
  induction fs with
  | nil => cases hf
  | cons g rest ih =>
    obtain ⟨v, hv, e⟩ := hc g List.mem_cons_self
    have hrest : ∀ f ∈ rest, f.Holds (c f) := fun f hf => hc f (List.mem_cons_of_mem _ hf)
    have apart : ∀ f ∈ rest, g.Apart f := fun f hf => List.rel_of_pairwise_cons hp hf
    have clear := bits_sum_outside hrest hp.of_cons g.lo g.width apart
    rw [List.map_cons, List.sum_cons, e, add_eq_putBits clear hv]
    rcases List.mem_cons.1 hf with rfl | hf
    · rw [bits_putBits_self, e, bits_mul_two_pow _ hv, Nat.mod_eq_of_lt hv]
    · rw [bits_putBits_other _ _ _ _ _ _ (apart f hf).symm]
      exact ih hrest hp.of_cons hf

end

/-! ### A sum of chosen bits -/

/-- The number whose bit `i` is 1 where `set i` holds. -/
theorem bits_foldl_two_pow (set : Nat → Prop) [DecidablePred set] (n : Nat) :
    let w := (List.range n).foldl (fun w i => w + (if set i then 2 ^ i else 0)) 0
    w < 2 ^ n ∧ ∀ i, i < n → bits w i 1 = if set i then 1 else 0 := by
  induction n with
  | zero => simp
  | succ k ih =>
    obtain ⟨hlt, hbit⟩ := ih
    simp only [List.range_succ, List.foldl_append, List.foldl_cons, List.foldl_nil]
    generalize (List.range k).foldl (fun w i => w + (if set i then 2 ^ i else 0)) 0 = w at *
    have hone : (if set k then 1 else 0) < 2 ^ 1 := by split <;> decide
    have e : w + (if set k then 2 ^ k else 0) = putBits w k 1 (if set k then 1 else 0) := by
      rw [← add_eq_putBits (bits_of_lt 1 hlt) hone, Nat.add_comm]
      split <;> simp
    refine ⟨by split <;> omega, fun i hi => ?_⟩
    rw [e]
    rcases Nat.lt_succ_iff_lt_or_eq.1 hi with hi | rfl
    · rw [bits_putBits_other _ _ _ _ _ _ (.inl hi), hbit i hi]
    · rw [bits_putBits_self, Nat.mod_eq_of_lt hone]

theorem bits_one_eq (x lo : Nat) : bits x lo 1 = 0 ∨ bits x lo 1 = 1 := by
  have := bits_lt x lo 1
  omega

/-! ### The register map -/

/-- The tables of the register map. -/
def RegMap.tables : List (List RegSpec) :=
  [RegMap.kingpost, RegMap.flashing, RegMap.vly, RegMap.bay, RegMap.loft, RegMap.hbm, RegMap.und, RegMap.wth,
   RegMap.die, RegMap.port, RegMap.engine]

/-- A register of the map stands in one of its tables: each branch looks one table up, or answers none. -/
theorem RegMap.at?_eq_find {off : Nat} {r : RegSpec} (h : RegMap.at? off = some r) :
    ∃ t ∈ RegMap.tables, ∃ o, RegMap.find t o = some r := by
  unfold RegMap.at? at h
  dsimp only at h
  repeat' split at h
  all_goals first | contradiction | exact ⟨_, by simp [RegMap.tables], _, h⟩

theorem RegMap.tables_fit : ∀ t ∈ RegMap.tables, ∀ r ∈ t, FieldsFit r.fields := by decide +kernel

/-- The fields of every register of the map lie in its word and share no bit. -/
theorem RegMap.fieldsFit {off : Nat} {r : RegSpec} (h : RegMap.at? off = some r) : FieldsFit r.fields := by
  obtain ⟨t, ht, o, h⟩ := RegMap.at?_eq_find h
  exact RegMap.tables_fit t ht r (List.mem_of_find?_eq_some h)

end Sys2Proof.Machine
end

section
/-! SUPPORT. Writes of BAR0 registers: the word that a write by access code leaves, field by field, and what a carried,
a refused, a malformed and an unreached write do (00 R5 to R10, 01 R29, R30, 16 R451, 19 R501). -/

namespace Sys2Proof.Machine

/-! ### The word of one field -/

section
variable (f : FieldSpec) (old value hwSet added : Nat) (unlocked : Bool)

/-- A written field stays in its place. -/
theorem writeField_holds : f.Holds (writeField f old value hwSet added unlocked) := by
  refine ⟨_, ?_, rfl⟩
  have hold := bits_lt old f.lo f.width
  have hval := bits_lt value f.lo f.width
  cases f.acc with
  | ro => exact hold
  | rw =>
    dsimp only
    split
    · unfold satTo
      have := Nat.two_pow_pos f.width
      omega
    · exact hval
  | rws => exact hval
  | w1c => exact (bits_foldl_two_pow _ f.width).1
  | wo => exact hold
  | rwl =>
    dsimp only
    split
    · exact hval
    · exact hold

theorem bits_writeField_ro (h : f.acc = .ro ∨ f.acc = .wo) :
    bits (writeField f old value hwSet added unlocked) f.lo f.width = bits old f.lo f.width := by
  rcases h with h | h <;> simp [writeField, h, bits_mul_two_pow _ (bits_lt _ _ _)]

theorem bits_writeField_rws (h : f.acc = .rws) :
    bits (writeField f old value hwSet added unlocked) f.lo f.width = bits value f.lo f.width := by
  simp [writeField, h, bits_mul_two_pow _ (bits_lt _ _ _)]

/-- Without a count of the same cycle an RW field takes the written bits, counting or not (00 R9, 03 R90). -/
theorem bits_writeField_rw (h : f.acc = .rw) :
    bits (writeField f old value hwSet 0 unlocked) f.lo f.width = bits value f.lo f.width := by
  have := bits_lt value f.lo f.width
  have hsat : satTo (2 ^ f.width - 1) (bits value f.lo f.width) = bits value f.lo f.width := by
    unfold satTo
    omega
  simp [writeField, h, hsat, bits_mul_two_pow _ (bits_lt _ _ _)]

theorem bits_writeField_rwl (h : f.acc = .rwl) : bits (writeField f old value hwSet added unlocked) f.lo f.width =
    if unlocked then bits value f.lo f.width else bits old f.lo f.width := by
  cases unlocked <;> simp [writeField, h, bits_mul_two_pow _ (bits_lt _ _ _)]

/-- Bit by bit, a W1C field is set by hardware, else cleared by 1, else kept (00 R9, R10). -/
theorem bits_writeField_w1c (h : f.acc = .w1c) {i : Nat} (hi : i < f.width) :
    bits (bits (writeField f old value hwSet added unlocked) f.lo f.width) i 1 =
      if bits hwSet (f.lo + i) 1 = 1 then 1 else if bits value (f.lo + i) 1 = 1 then 0 else bits old (f.lo + i) 1 := by
  obtain ⟨hlt, hbit⟩ := bits_foldl_two_pow (fun i => bits hwSet (f.lo + i) 1 = 1 ∨
    (bits (bits old f.lo f.width) i 1 = 1 ∧ bits (bits value f.lo f.width) i 1 = 0)) f.width
  simp only [writeField, h]
  rw [bits_mul_two_pow _ hlt, hbit i hi, bits_bits _ _ _ hi, bits_bits _ _ _ hi]
  rcases bits_one_eq old (f.lo + i) with ho | ho <;> rcases bits_one_eq value (f.lo + i) with hv | hv <;>
    simp [ho, hv]

end

/-! ### The word of a register -/

/-- A write that counts nothing puts the register's fields side by side. -/
theorem writeWord_nil (fs : List FieldSpec) (old value hwSet : Nat) (unlocked : Bool) :
    writeWord fs old value hwSet [] unlocked = (fs.map fun f => writeField f old value hwSet 0 unlocked).sum := by
  induction fs with
  | nil => rfl
  | cons f rest ih => simp [writeWord, ih]

/-- A field of a written register is the written field. -/
theorem bits_writeWord {fs : List FieldSpec} (hfit : FieldsFit fs) {f : FieldSpec} (hf : f ∈ fs)
    (old value hwSet : Nat) (unlocked : Bool) :
    bits (BitVec.ofNat 32 (writeWord fs old value hwSet [] unlocked)).toNat f.lo f.width =
      bits (writeField f old value hwSet 0 unlocked) f.lo f.width := by
  rw [bits_toNat_ofNat _ (hfit.1 f hf), writeWord_nil,
    bits_sum_field (fun g _ => writeField_holds g old value hwSet 0 unlocked) hfit.2 hf]

/-! ### Writes of a register by access code -/

section
variable (s : State) (p : Path) {off : Nat} {r : RegSpec} (value hwSet : Nat) (added : List Nat)

/-- A write by access code changes no store. -/
theorem State.writeCode_sameBytes : s.SameBytes (s.writeCode p off value hwSet added) := by
  unfold State.writeCode
  split
  · exact ⟨rfl, rfl, rfl, rfl, rfl⟩
  · dsimp only
    split <;> exact ⟨rfl, rfl, rfl, rfl, rfl⟩

/-- The state after a write by access code, but for the record that a closed RWL register raises. -/
theorem State.writeCode_eq (hr : RegMap.at? off = some r) : s.writeCode p off value hwSet added =
    let t := s.setReg off (BitVec.ofNat 32 (writeWord r.fields (s.reg off).toNat value hwSet added s.service))
    if (!s.service && r.fields.any fun f => decide (f.acc = .rwl)) then t.accessEvent p 0x0A off else t := by
  unfold State.writeCode
  rw [hr]

theorem State.writeCode_reg (hr : RegMap.at? off = some r) : (s.writeCode p off value hwSet added).reg off =
    BitVec.ofNat 32 (writeWord r.fields (s.reg off).toNat value hwSet added s.service) := by
  rw [State.writeCode_eq s p value hwSet added hr]
  dsimp only
  split <;> simp [State.accessEvent]

/-- A write by access code changes no other register. -/
theorem State.writeCode_sameRegs (hr : RegMap.at? off = some r) :
    s.SameRegs (s.writeCode p off value hwSet added) [off] := by
  intro o ho
  have ho : o ≠ off := by simpa using ho
  rw [State.writeCode_eq s p value hwSet added hr]
  dsimp only
  split <;> simp [State.accessEvent, State.reg_setReg_other _ _ ho]

/-- A write of an open register, or of one without an RWL field, raises nothing. -/
theorem State.writeCode_raised_open (hr : RegMap.at? off = some r)
    (h : s.service = true ∨ ∀ f ∈ r.fields, f.acc ≠ .rwl) :
    (s.writeCode p off value hwSet added).raised = s.raised := by
  have hl : (!s.service && r.fields.any fun f => decide (f.acc = .rwl)) = false := by
    rcases h with h | h
    · simp [h]
    · simpa using fun _ => h
  rw [State.writeCode_eq s p value hwSet added hr, hl]
  rfl

/-- A write of a closed RWL register raises an access-refused event (00 R9). -/
theorem State.writeCode_raised_closed (hr : RegMap.at? off = some r)
    (h : s.service = false) (hf : ∃ f ∈ r.fields, f.acc = .rwl) :
    (s.writeCode p off value hwSet added).raised = (s.raise (srcPath p) 0xC 0x0A (off / 16)).raised := by
  have hl : (!s.service && r.fields.any fun f => decide (f.acc = .rwl)) = true := by
    simpa [h] using hf
  rw [State.writeCode_eq s p value hwSet added hr, hl]
  rfl

/-- The field that a write by access code leaves. -/
theorem State.writeCode_bits (hr : RegMap.at? off = some r) {f : FieldSpec} (hf : f ∈ r.fields) :
    bits ((s.writeCode p off value hwSet []).reg off).toNat f.lo f.width =
      bits (writeField f (s.reg off).toNat value hwSet 0 s.service) f.lo f.width := by
  rw [State.writeCode_reg s p value hwSet [] hr, bits_writeWord (RegMap.fieldsFit hr) hf]

end

/-! ### Carried, refused and unreached accesses -/

theorem State.access_carried {s : State} {p : Path} {off : Nat} (h : s.Carries p off) (effect : State → State) :
    s.access p off effect = effect s := by
  obtain ⟨hreach, hrefuses⟩ := h
  simp [State.access, hreach, hrefuses]

theorem State.access_refused {s : State} {p : Path} {off num : Nat} (h : s.reach p = true)
    (hn : s.refuses off = some num) (effect : State → State) : s.access p off effect = s.accessEvent p num off := by
  simp [State.access, h, hn]

theorem State.access_unreached {s : State} {p : Path} (h : s.reach p = false) (off : Nat) (effect : State → State) :
    s.access p off effect = s := by
  simp [State.access, h]

/-- A path that is down carries no write, of any width. -/
theorem State.writeN_unreached {s : State} {p : Path} (h : s.reach p = false) (off width value : Nat) :
    s.writeN p off width value = s := by
  simp [State.writeN, State.write32, State.access_unreached h, h]

/-- A write through one path alone. -/
theorem exec_registerWrite_alone (p : Path) (off width : Nat) (v : BitVec 64) (s : State) :
    exec (.registerWrite p off width ⟨v, none⟩) s = .next (s.writeN p off width v.toNat) := rfl

/-- Writes of both paths in one cycle, with the host port's as the command's own. -/
theorem exec_registerWrite_host (off width : Nat) (v v' : BitVec 64) (s : State) :
    exec (.registerWrite .host off width ⟨v, some v'⟩) s = .next (s.writeBoth off width v v') := rfl

/-- Writes of both paths in one cycle, with the management bus's as the command's own. -/
theorem exec_registerWrite_bus (off width : Nat) (v v' : BitVec 64) (s : State) :
    exec (.registerWrite .bus off width ⟨v', some v⟩) s = .next (s.writeBoth off width v v') := rfl

/-- A 32-bit write at an aligned offset, through one path alone. -/
theorem exec_registerWrite_aligned (p : Path) {off : Nat} (h : off % 4 = 0) (v : BitVec 64) (s : State) :
    exec (.registerWrite p off 4 ⟨v, none⟩) s = .next (s.write32 p off v.toNat) := by
  rw [exec_registerWrite_alone, State.writeN, if_pos ⟨rfl, h⟩]

/-- A 64-bit write at an aligned offset, through one path alone (00 R5). -/
theorem exec_registerWrite_wide (p : Path) {off : Nat} (h : off % 8 = 0) (v : BitVec 64) (s : State) :
    exec (.registerWrite p off 8 ⟨v, none⟩) s =
      .next ((s.write32 p off v.toNat).write32 p (off + 4) (v.toNat / 2 ^ 32)) := by
  rw [exec_registerWrite_alone, State.writeN, if_neg (by omega), if_pos ⟨rfl, h⟩]

/-- A write that is not 4 or 8 bytes wide, or not aligned to its width, is recorded and ignored (00 R6). -/
theorem exec_registerWrite_malformed {s : State} {p : Path} (hreach : s.reach p = true) {off width : Nat}
    (h4 : ¬(width = 4 ∧ off % 4 = 0)) (h8 : ¬(width = 8 ∧ off % 8 = 0)) (v : BitVec 64) :
    exec (.registerWrite p off width ⟨v, none⟩) s = .next (s.accessEvent p 0x07 off) := by
  rw [exec_registerWrite_alone, State.writeN, if_neg h4, if_neg h8, if_pos hreach]

/-- A register without a rule of its own is written by access code. -/
theorem State.writeOne_eq_writeCode {s : State} {p : Path} {off value : Nat} (hs : s.writeSpecial p off value = none)
    (ha : RegMap.arbBlock off = none) (h0 : undDie 0 off = none) (h4 : undDie 4 off = none) :
    s.writeOne p off value = s.writeCode p off value 0 [] := by
  unfold State.writeOne
  rw [hs, ha, h0, h4]

/-- Of two numbers one has bit 0 set and one bit 1. -/
theorem bits_of_mod_mul_ne_zero (a b : Nat) (h : (a % 2 + b % 2) * (a / 2 % 2 + b / 2 % 2) ≠ 0) :
    (bits a 0 1 = 1 ∨ bits b 0 1 = 1) ∧ (bits a 1 1 = 1 ∨ bits b 1 1 = 1) := by
  obtain ⟨hlow, hnext⟩ := Nat.mul_ne_zero_iff.1 h
  simp only [bits, Nat.pow_zero, Nat.pow_one, Nat.div_one]
  omega

/-- Writes of one cycle that do not bring LOAD and UNLOAD together follow each other, BAR0's first (19 R501). -/
theorem State.writeBoth_in_turn {s : State} {off width : Nat} {host bus : BitVec 64}
    (h : s.imgctlClash off width host bus = false) : s.writeBoth off width host bus =
      (s.writeN .host off width host.toNat).writeN .bus off width bus.toNat := by
  rw [State.writeBoth, h, if_neg (by decide)]

/-- LOAD and UNLOAD that come in one cycle are neither taken, and recorded (16 R451). -/
theorem State.writeBoth_clash {s : State} {width : Nat} {host bus : BitVec 64} (hw : width = 4 ∨ width = 8)
    (hhost : s.reach .host = true) (hbus : s.reach .bus = true) (hcar : s.Carries .host 0x10018)
    (h : (host.toNat % 2 + bus.toNat % 2) * (host.toNat / 2 % 2 + bus.toNat / 2 % 2) ≠ 0) :
    s.writeBoth 0x10018 width host bus = s.raise (srcPath .host) 0xC 0x07 (0x10018 / 16) := by
  obtain ⟨hload, hunload⟩ := bits_of_mod_mul_ne_zero _ _ h
  have hclash : s.imgctlClash 0x10018 width host bus = true := by
    simp [State.imgctlClash, Reg.kpImgctlLoad, hw, hhost, hbus, hload, hunload]
  rw [State.writeBoth, if_pos hclash, State.imgctlNeither, if_pos hhost]
  exact State.access_carried hcar _

end Sys2Proof.Machine
end

section
/-! SUPPORT. Reads of BAR0 registers: what a read changes, that it does not depend on the last answer, what it shows
of each field, and what a carried, a refused, a malformed and an unreached read do (00 R5 to R9, 01 R29, R30). -/

namespace Sys2Proof.Machine

/-! ### What a read changes -/

/-- The offset alone fixes what a carried read changes: a latch, a measurement that restarts, an open value taken, or
nothing. -/
theorem State.readEffect_cases (p : Path) (off : Nat) {P : (State → State) → Prop}
    (latchCourse : P fun s => s.latchCourse p) (latchOfs : P fun s => s.latchOfs p)
    (pinPeak : P fun s => s.restartPinPeak) (openValue : P fun s => { s with free := s.free + 1 })
    (arbWait : ∀ blk, P fun s => s.restartArbWait blk) (bayWait : ∀ b, P fun s => s.restartBayWait b)
    (peak : ∀ die, P fun s => s.restartPeak die) (credMin : ∀ port, P fun s => s.restartCredMin port)
    (nothing : P fun s => s) : P fun s => s.readEffect p off := by
  unfold State.readEffect
  dsimp only
  split
  · exact latchCourse
  split
  · exact latchOfs
  split
  · exact pinPeak
  split
  · exact openValue
  split
  next blk _ =>
    split
    · exact arbWait blk
    · exact nothing
  next =>
    split
    · exact nothing
    next die _ =>
      split
      · split
        · exact bayWait _
        split
        · exact peak die
        · exact nothing
      · split
        · exact credMin _
        · exact nothing

/-- The stores, the records and the rails of the module are the same. -/
structure State.ReadKeeps (s t : State) : Prop where
  sameBytes : s.SameBytes t
  raised : t.raised = s.raised
  power : t.power = s.power

/-- The state with another answer of the last read. -/
def State.answer (s : State) (x : Resp) : State := { s with resp := x }

section
variable (s : State) (p : Path) (off : Nat) (x : Resp)

theorem State.readKeeps_setFld {s t : State} (h : s.ReadKeeps t) (f : Field) (v : Nat) : s.ReadKeeps (t.setFld f v) :=
  ⟨h.sameBytes, h.raised, h.power⟩

theorem State.readKeeps_latchCourse : s.ReadKeeps (s.latchCourse p) := by
  cases p <;> exact ⟨⟨rfl, rfl, rfl, rfl, rfl⟩, rfl, rfl⟩

theorem State.readKeeps_latchOfs : s.ReadKeeps (s.latchOfs p) := by
  cases p <;> exact ⟨⟨rfl, rfl, rfl, rfl, rfl⟩, rfl, rfl⟩

theorem State.readKeeps_refl : s.ReadKeeps s := ⟨⟨rfl, rfl, rfl, rfl, rfl⟩, rfl, rfl⟩

/-- A carried read changes no store, raises nothing and leaves the rails. -/
theorem State.readKeeps_readEffect : s.ReadKeeps (s.readEffect p off) := by
  have restart (f : Field) (v : Nat) : s.ReadKeeps (s.setFld f v) := State.readKeeps_setFld s.readKeeps_refl f v
  refine State.readEffect_cases p off (P := fun effect => s.ReadKeeps (effect s)) ?latchCourse ?latchOfs ?pinPeak
    ?openValue ?arbWait ?bayWait ?peak ?credMin ?nothing
  case latchCourse => exact s.readKeeps_latchCourse p
  case latchOfs => exact s.readKeeps_latchOfs p
  case pinPeak => exact restart _ _
  case openValue => exact ⟨⟨rfl, rfl, rfl, rfl, rfl⟩, rfl, rfl⟩
  case arbWait => exact fun _ => State.readKeeps_setFld (restart _ _) _ _
  case bayWait => exact fun _ => State.readKeeps_setFld (restart _ _) _ _
  case peak => exact fun _ => restart _ _
  case credMin => exact fun _ => restart _ _
  case nothing => exact s.readKeeps_refl

/-! ### A read beside the answer of the last one -/

@[simp] theorem State.setFld_answer (f : Field) (v : Nat) : (s.answer x).setFld f v = (s.setFld f v).answer x := (rfl)
@[simp] theorem State.occupancy_answer (n : Nat) : (s.answer x).occupancy n = s.occupancy n := (rfl)
@[simp] theorem State.port_answer (n : Nat) : (s.answer x).port n = s.port n := (rfl)
@[simp] theorem State.refuses_answer : (s.answer x).refuses off = s.refuses off := (rfl)
@[simp] theorem State.view_answer : (s.answer x).view p off = s.view p off := (rfl)
@[simp] theorem State.accessEvent_answer (num : Nat) :
    (s.answer x).accessEvent p num off = (s.accessEvent p num off).answer x := (rfl)

theorem State.latchCourse_answer : (s.answer x).latchCourse p = (s.latchCourse p).answer x := by
  cases p <;> rfl

theorem State.latchOfs_answer : (s.answer x).latchOfs p = (s.latchOfs p).answer x := by
  cases p <;> rfl

/-- What a read changes does not depend on what the last read answered. -/
@[simp] theorem State.readEffect_answer : (s.answer x).readEffect p off = (s.readEffect p off).answer x := by
  refine State.readEffect_cases p off (P := fun effect => effect (s.answer x) = (effect s).answer x) ?latchCourse
    ?latchOfs ?pinPeak ?openValue ?arbWait ?bayWait ?peak ?credMin ?nothing
  case latchCourse => exact s.latchCourse_answer p x
  case latchOfs => exact s.latchOfs_answer p x
  case pinPeak => exact s.setFld_answer x _ _
  case openValue => rfl
  case arbWait => simp [State.restartArbWait]
  case bayWait => simp [State.restartBayWait]
  case peak => simp [State.restartPeak]
  case credMin => simp [State.restartCredMin]
  case nothing => rfl

/-- A 32-bit read does not depend on what the last read answered. -/
theorem State.read32_answer :
    (s.answer x).read32 p off = ((s.read32 p off).1, (s.read32 p off).2.answer x) := by
  unfold State.read32
  rw [State.refuses_answer]
  cases s.refuses off <;> simp

/-- A 32-bit read leaves the power of the module, so that a path stays up. -/
theorem State.reach_read32 (q : Path) : (s.read32 p off).2.reach q = s.reach q := by
  have h : (s.read32 p off).2.power = s.power := by
    unfold State.read32
    cases s.refuses off with
    | none => exact (s.readKeeps_readEffect p off).power
    | some num => rfl
  cases q <;> simp [State.reach, State.up, State.powered, h]

end

/-! ### Carried, refused and unreached reads -/

/-- A carried 32-bit read at an aligned offset. -/
theorem State.read32_carried {s : State} {p : Path} {off : Nat} (h : s.refuses off = none) :
    s.read32 p off = (s.view p off, s.readEffect p off) := by
  simp [State.read32, h]

/-- A refused 32-bit read answers all ones and is recorded (01 R29, R30). -/
theorem State.read32_refused {s : State} {off num : Nat} (h : s.refuses off = some num) (p : Path) :
    s.read32 p off = (allOnes, s.accessEvent p num off) := by
  simp [State.read32, h]

/-- A read through one path alone. -/
theorem exec_registerRead_alone (p : Path) (off width : Nat) (s : State) :
    exec (.registerRead p off ⟨width, none⟩) s = .next (s.readInto p off width) := rfl

/-- A 32-bit read at an aligned offset, through a path that is up. -/
theorem exec_registerRead_aligned {s : State} {p : Path} (hreach : s.reach p = true) {off : Nat} (h : off % 4 = 0) :
    exec (.registerRead p off ⟨4, none⟩) s =
      .next ((s.read32 p off).2.answer (.word (s.read32 p off).1)) := by
  rw [exec_registerRead_alone, State.readInto, if_pos hreach, State.readN, if_pos ⟨rfl, h⟩]
  rfl

/-- A 64-bit read at an aligned offset reads the lower half, then the upper half (00 R5). -/
theorem exec_registerRead_wide {s : State} {p : Path} (hreach : s.reach p = true) {off : Nat} (h : off % 8 = 0) :
    exec (.registerRead p off ⟨8, none⟩) s =
      .next (((s.read32 p off).2.read32 p (off + 4)).2.answer
        (.word ((s.read32 p off).1 + ((s.read32 p off).2.read32 p (off + 4)).1 * 2 ^ 32))) := by
  rw [exec_registerRead_alone, State.readInto, if_pos hreach, State.readN, if_neg (by omega), if_pos ⟨rfl, h⟩]
  rfl

/-- A read that is not 4 or 8 bytes wide, or not aligned to its width, answers all ones and is recorded (00 R6). -/
theorem exec_registerRead_malformed {s : State} {p : Path} (hreach : s.reach p = true) {off width : Nat}
    (h4 : ¬(width = 4 ∧ off % 4 = 0)) (h8 : ¬(width = 8 ∧ off % 8 = 0)) :
    exec (.registerRead p off ⟨width, none⟩) s =
      .next ((s.accessEvent p 0x07 off).answer (.word (2 ^ (8 * width) - 1))) := by
  rw [exec_registerRead_alone, State.readInto, if_pos hreach, State.readN, if_neg h4, if_neg h8]
  rfl

/-- A path that is down carries no read. -/
theorem exec_registerRead_unreached {s : State} {p : Path} (h : s.reach p = false) (off width : Nat) :
    exec (.registerRead p off ⟨width, none⟩) s = .next s := by
  rw [exec_registerRead_alone, State.readInto, h]
  rfl

/-! ### What a read shows -/

/-- What a read shows of one field (00 R7, R9). -/
def FieldSpec.shownBits (f : FieldSpec) (unlocked : Bool) (w : Nat) : Nat :=
  match f.acc with
  | .wo => 0
  | .rwl => if unlocked then bits w f.lo f.width else 0
  | _ => bits w f.lo f.width

theorem FieldSpec.shownBits_lt (f : FieldSpec) (unlocked : Bool) (w : Nat) : f.shownBits unlocked w < 2 ^ f.width := by
  unfold FieldSpec.shownBits
  split
  · exact Nat.two_pow_pos _
  · split
    · exact bits_lt _ _ _
    · exact Nat.two_pow_pos _
  · exact bits_lt _ _ _

/-- A read shows the register's fields side by side. -/
theorem State.shown_eq_sum (s : State) (r : RegSpec) (w : Nat) :
    s.shown r w = (r.fields.map fun f => f.shownBits s.service w * 2 ^ f.lo).sum := by
  rw [List.sum_eq_foldl, List.foldl_map, State.shown]
  congr 1
  funext v f
  cases h : f.acc <;> simp only [FieldSpec.shownBits, h, Nat.zero_mul, Nat.add_zero]
  split <;> simp

/-- A read of a populated register shows its word as it stands at that instant. -/
theorem State.view_populated {s : State} {p : Path} {off : Nat} {r : RegSpec} (hr : RegMap.at? off = some r) :
    s.view p off = s.shown r (s.computed p off (s.reg off).toNat) := by
  simp [State.view, hr]

/-- Outside the registers that follow from other state the word shown is the stored one. -/
theorem State.computed_stored (s : State) (p : Path) {off : Nat} (h : derivedReg off = false) (w : Nat) :
    s.computed p off w = w := by
  simp only [derivedReg, Bool.or_eq_false_iff, decide_eq_false_iff_not, List.mem_cons, List.not_mem_nil, or_false,
    not_or] at h
  obtain ⟨⟨⟨h0, h1, h2, h3, h4, hnext, hgpio⟩, hslot⟩, hrest⟩ := h
  unfold State.computed
  rw [if_neg h0, if_neg h1, if_neg h2, if_neg h3, if_neg h4, if_neg hslot, if_neg hnext, if_neg hgpio]
  cases hb : RegMap.arbBlock off with
  | some blk =>
    simp only [hb, decide_eq_false_iff_not, not_or] at hrest
    obtain ⟨hstat, hmasked⟩ := hrest
    simp only [if_neg hstat, if_neg hmasked]
  | none =>
    simp only [hb] at hrest
    cases hd : RegMap.dieOf off with
    | none => rfl
    | some die =>
      simp only [hd] at hrest
      dsimp only
      split at hrest
      next hr =>
        simp only [decide_eq_false_iff_not, not_or] at hrest
        rw [if_pos hr, if_neg hrest.1, if_neg hrest.2]
      next hr =>
        rw [if_neg hr]
        split at hrest
        next he => rw [if_pos he, if_neg (by simpa using hrest)]
        next he =>
          rw [if_neg he]
          split
          next hg =>
            obtain ⟨heng, hsess⟩ := not_or.1 fun e => of_decide_eq_false hrest ⟨hg, e⟩
            rw [if_neg heng, if_neg hsess]
          next => rfl

end Sys2Proof.Machine
end

section
/-! SUPPORT. The statements of chapter 00 settled: what reset leaves, refused and wide accesses, reads and writes by
access code. -/

namespace Sys2Proof.Machine

/-- Settles O7: the write is one by access code, field by field. -/
theorem writeByCode : Obligations.WriteByCode := by
  unfold Obligations.WriteByCode
  intro p off v s r hcar hoff hr hspecial harb hund0 hund4
  refine ⟨s.writeCode p off (v.toNat % 2 ^ 32) 0 [], ?_, s.writeCode_sameBytes p _ _ _, s.writeCode_sameRegs p _ _ _ hr,
    ?_, s.writeCode_raised_open p _ _ _ hr, fun h => s.writeCode_raised_closed p _ _ _ hr h.1 h.2⟩
  · rw [exec_registerWrite_aligned p hoff, State.write32, State.access_carried hcar,
      State.writeOne_eq_writeCode hspecial harb hund0 hund4]
  · intro f hf
    have hv := bits_mod_two_pow v.toNat ((RegMap.fieldsFit hr).1 f hf)
    have hnew := s.writeCode_bits p (v.toNat % 2 ^ 32) 0 hr hf
    dsimp only [State.fld]
    rw [hnew, ← hv]
    split
    next hacc => exact bits_writeField_ro _ _ _ _ _ _ (.inl hacc)
    next hacc => exact bits_writeField_ro _ _ _ _ _ _ (.inr hacc)
    next hacc => exact bits_writeField_rw _ _ _ _ _ hacc
    next hacc => exact bits_writeField_rws _ _ _ _ _ _ hacc
    next hacc =>
      intro i hi
      rw [bits_writeField_w1c _ _ _ _ _ _ hacc hi]
      simp [bits_bits _ _ _ hi, bits_zero]
    next hacc => exact bits_writeField_rwl _ _ _ _ _ _ hacc

/-- Settles O8: a read shows the register's fields side by side, and what it changes is no store and no record. -/
theorem readByCode : Obligations.ReadByCode := by
  unfold Obligations.ReadByCode
  intro p off s r hcar hoff hr
  obtain ⟨hreach, hrefuses⟩ := hcar
  have hfit := RegMap.fieldsFit hr
  have hkeeps := s.readKeeps_readEffect p off
  have hholds (w : Nat) : ∀ f ∈ r.fields, f.Holds (f.shownBits s.service w * 2 ^ f.lo) :=
    fun f _ => ⟨_, f.shownBits_lt _ _, rfl⟩
  refine ⟨(s.readEffect p off).answer (.word (s.view p off)), s.view p off, ?_, rfl, hkeeps.sameBytes, hkeeps.raised,
    ?_, fun hd => s.computed_stored p hd _, ?_⟩
  · rw [exec_registerRead_aligned hreach hoff, State.read32_carried hrefuses]
  · intro f hf
    rw [State.view_populated hr, State.shown_eq_sum, bits_sum_field (hholds _) hfit.2 hf]
    exact bits_mul_two_pow _ (f.shownBits_lt _ _)
  · intro i _ hi
    rw [State.view_populated hr, State.shown_eq_sum]
    exact bits_sum_outside (hholds _) hfit.2 i 1 fun f hf => (hi f hf).imp Nat.succ_le_of_lt id

/-- Settles O10: each W1C field takes its bits one by one. -/
theorem w1cClear : Obligations.W1cClear := by
  unfold Obligations.W1cClear
  intro p off v hw s r hcar hr
  refine ⟨s.writeCode p off v.toNat hw.toNat [], ?_, s.writeCode_sameBytes p _ _ _, s.writeCode_sameRegs p _ _ _ hr, ?_⟩
  · exact congrArg Host.Outcome.next (State.access_carried hcar _)
  · intro f hf hacc i hi
    rw [← bits_bits _ _ _ hi, s.writeCode_bits p _ _ hr hf, bits_writeField_w1c _ _ _ _ _ _ hacc hi]

/-- Settles O4: every field of the reset state is written out, and its fields of KP_APERTURE and KP_IDENT evaluate. -/
theorem resetState : Obligations.ResetState := by
  unfold Obligations.ResetState
  refine ⟨⟨rfl, rfl, rfl, rfl⟩, rfl, rfl, rfl, rfl, rfl, rfl, rfl, fun _ => rfl, fun _ _ => rfl, fun _ => rfl, ?_⟩
  decide

/-- The cause of a refused access: a die without power before an unpopulated offset. -/
theorem State.refuses_eq_some {s : State} {off num : Nat}
    (h : (∃ die, RegMap.dieOf off = some die ∧ s.powered die = false ∧ num = 0x09) ∨
      (RegMap.at? off = none ∧ num = 0x08 ∧ ∀ die, RegMap.dieOf off = some die → s.powered die = true)) :
    s.refuses off = some num := by
  unfold State.refuses
  rcases h with ⟨die, hd, hp, rfl⟩ | ⟨hr, rfl, hp⟩
  · simp [hd, hp]
  · cases hd : RegMap.dieOf off with
    | none => rfl
    | some die => simp [hp die hd, hr]

/-- Settles O5: a malformed access first, then the cause for which the offset is refused. -/
theorem accessRefused : Obligations.AccessRefused := by
  unfold Obligations.AccessRefused
  intro p off width v s hreach
  refine ⟨fun h4 h8 => ⟨exec_registerRead_malformed hreach h4 h8, exec_registerWrite_malformed hreach h4 h8 v⟩, ?_⟩
  rintro rfl hoff num hnum
  have hrefuses := State.refuses_eq_some hnum
  constructor
  · rw [exec_registerRead_aligned hreach hoff, State.read32_refused hrefuses]
    rfl
  · rw [exec_registerWrite_aligned p hoff, State.write32, State.access_refused hreach hrefuses]
    rfl

/-- Settles O6: both halves of a wide access and both paths of a cycle are the same accesses in turn; the answer that
the lower half leaves does not reach the upper half. -/
theorem wideAccess : Obligations.WideAccess := by
  unfold Obligations.WideAccess
  intro p off v s h8
  have h4 : off % 4 = 0 := by omega
  have hup : (off + 4) % 4 = 0 := by omega
  refine ⟨⟨_, exec_registerWrite_aligned p h4 v s, ?wideWrite⟩, fun hreach => ?wideRead,
    fun v' width s1 hs1 => ⟨fun hclash => ?writesInTurn, ?writeThenRead⟩,
    fun v' width hw hhost hbus hcar h => ?clash, fun width s1 hs1 => ?readThenWrite, fun hreach width => ?down⟩
  case wideWrite =>
    rw [exec_registerWrite_wide p h8, exec_registerWrite_aligned p hup, BitVec.toNat_ushiftRight,
      Nat.shiftRight_eq_div_pow]
  case wideRead =>
    have hreach1 : ((s.read32 p off).2.answer (.word (s.read32 p off).1)).reach p = true :=
      (s.reach_read32 p off p).trans hreach
    refine ⟨_, _, _, ((s.read32 p off).2.read32 p (off + 4)).1, exec_registerRead_aligned hreach h4, rfl,
      exec_registerRead_aligned hreach1 hup, ?_, ?_⟩
    · rw [State.read32_answer]
      rfl
    · rw [exec_registerRead_wide hreach h8, State.read32_answer]
      rfl
  case writesInTurn =>
    cases hs1
    rw [exec_registerWrite_host, exec_registerWrite_bus, State.writeBoth_in_turn hclash]
    exact ⟨rfl, rfl⟩
  case writeThenRead =>
    cases hs1
    rfl
  case clash =>
    rw [exec_registerWrite_host, exec_registerWrite_bus, State.writeBoth_clash hw hhost hbus hcar h]
    exact ⟨rfl, rfl⟩
  case readThenWrite =>
    cases hs1
    rfl
  case down =>
    rw [exec_registerRead_unreached hreach, exec_registerWrite_alone, State.writeN_unreached hreach]
    exact ⟨rfl, rfl⟩

end Sys2Proof.Machine
end

section
/-! SUPPORT. Writes of counting fields in a cycle that counts (03 R90): what the word holds at each counting field, and
BAY_CVT0 and BAY_CVT1 among the registers of a bay. -/

namespace Sys2Proof.Machine

/-! ### A field beside the rest of its word -/

section
variable {f : FieldSpec} {x y : Nat} (hx : f.Holds x) (hy : bits y f.lo f.width = 0)
include hx hy

/-- A field put into a clear place reads back. -/
theorem FieldSpec.Holds.bits_add_self : bits (x + y) f.lo f.width = bits x f.lo f.width := by
  obtain ⟨v, hv, rfl⟩ := hx
  rw [add_eq_putBits hy hv, bits_putBits_self, bits_mul_two_pow _ hv, Nat.mod_eq_of_lt hv]

/-- Away from the field the word reads as it did. -/
theorem FieldSpec.Holds.bits_add_apart {a m : Nat} (h : a + m ≤ f.lo ∨ f.lo + f.width ≤ a) :
    bits (x + y) a m = bits y a m := by
  obtain ⟨v, hv, rfl⟩ := hx
  rw [add_eq_putBits hy hv, bits_putBits_other _ _ _ _ _ _ h]

end

/-! ### The word of a register whose fields count -/

/-- A counting RW field holds the written value plus the cycle's count, saturated at all ones (03 R90). -/
theorem bits_writeField_counting {f : FieldSpec} (hcnt : f.cnt = true) (hacc : f.acc = .rw)
    (old value hwSet added : Nat) (unlocked : Bool) :
    bits (writeField f old value hwSet added unlocked) f.lo f.width =
      min (2 ^ f.width - 1) (bits value f.lo f.width + added) := by
  have hlt : min (2 ^ f.width - 1) (bits value f.lo f.width + added) < 2 ^ f.width := by
    have := Nat.two_pow_pos f.width
    omega
  simp only [writeField, hacc, hcnt, satTo, if_true, Nat.min_comm _ (2 ^ f.width - 1)]
  exact bits_mul_two_pow _ hlt

section
variable (old value hwSet : Nat) (unlocked : Bool)

/-- A field that counts takes the first of the counts; the others go to the fields after it. -/
theorem writeWord_cons (f : FieldSpec) (rest : List FieldSpec) (added : List Nat) :
    writeWord (f :: rest) old value hwSet added unlocked =
      writeField f old value hwSet (if f.cnt then added.headD 0 else 0) unlocked +
        writeWord rest old value hwSet (if f.cnt then added.tail else added) unlocked := by
  rw [writeWord]
  split <;> rfl

/-- A written word is 0 where none of the register's fields lies. -/
theorem bits_writeWord_outside {fs : List FieldSpec} (hp : fs.Pairwise FieldSpec.Apart) (added : List Nat) (a m : Nat)
    (h : ∀ f ∈ fs, a + m ≤ f.lo ∨ f.lo + f.width ≤ a) :
    bits (writeWord fs old value hwSet added unlocked) a m = 0 := by
  induction fs generalizing added a m with
  | nil => exact bits_zero a m
  | cons f rest ih =>
    obtain ⟨hf, hrest⟩ := List.forall_mem_cons.1 h
    have clear := ih hp.of_cons (if f.cnt then added.tail else added) f.lo f.width fun g hg =>
      List.rel_of_pairwise_cons hp hg
    rw [writeWord_cons, (writeField_holds ..).bits_add_apart clear hf, ih hp.of_cons _ a m hrest]

/-- The counts stand in the order of the counting fields: the `k`-th of these is written with the `k`-th count. -/
theorem bits_writeWord_counting {fs : List FieldSpec} (hp : fs.Pairwise FieldSpec.Apart) (added : List Nat) {k : Nat}
    {f : FieldSpec} (hk : (fs.filter fun g => g.cnt)[k]? = some f) :
    bits (writeWord fs old value hwSet added unlocked) f.lo f.width =
      bits (writeField f old value hwSet (added.getD k 0) unlocked) f.lo f.width := by
  induction fs generalizing added k with
  | nil => simp at hk
  | cons g rest ih =>
    have apart : ∀ f ∈ rest, g.Apart f := fun f hf => List.rel_of_pairwise_cons hp hf
    have clear := bits_writeWord_outside old value hwSet unlocked hp.of_cons (if g.cnt then added.tail else added)
      g.lo g.width apart
    have later {n : Nat} (hn : (rest.filter fun g => g.cnt)[n]? = some f) :
        bits (writeWord (g :: rest) old value hwSet added unlocked) f.lo f.width =
          bits (writeField f old value hwSet ((if g.cnt then added.tail else added).getD n 0) unlocked) f.lo f.width := by
      have hf : f ∈ rest := (List.mem_filter.1 (List.mem_of_getElem? hn)).1
      rw [writeWord_cons, (writeField_holds ..).bits_add_apart clear (apart f hf).symm, ih hp.of_cons _ hn]
    by_cases hg : g.cnt = true
    · rw [List.filter_cons_of_pos hg] at hk
      cases k with
      | zero =>
        obtain rfl : g = f := by simpa using hk
        rw [writeWord_cons, (writeField_holds ..).bits_add_self clear, if_pos hg]
        cases added <;> rfl
      | succ n =>
        rw [later (by simpa using hk), if_pos hg]
        cases added <;> rfl
    · rw [List.filter_cons_of_neg hg] at hk
      rw [later hk, if_neg hg]

end

/-! ### The registers of a bay -/

/-- The window of a Rafter die holds its bays' sub-windows (01 R27, R28). -/
theorem RegMap.dieOf_bay {b : PBay} (hb : b.wf = true) {r : Nat} (hr : r < 0x10000) :
    RegMap.dieOf (bayBase b + r) = some b.die := by
  obtain ⟨hdie, hbay⟩ := of_decide_eq_true hb
  have hw : (bayBase b + r) / 0x100000 = b.die + 16 := by
    unfold bayBase rafterBase
    omega
  unfold RegMap.dieOf
  dsimp only
  rw [hw, if_neg (by omega), if_neg (by omega), if_pos (by omega), Nat.add_sub_cancel]

/-- The bays' sub-windows lie below the arbiter blocks of their die (11 R294). -/
theorem RegMap.arbBlock_rafter {off die : Nat} (hd : RegMap.dieOf off = some die) (hdie : die < 24)
    (hk : off % 0x100000 / 0x10000 < 9) : RegMap.arbBlock off = none := by
  unfold RegMap.arbBlock
  rw [hd]
  dsimp only
  rw [if_pos hdie, if_neg (by omega)]

/-- A register in the first nine sub-windows of a Rafter die is one of the bays' table. -/
theorem RegMap.at?_rafter {off die : Nat} (hd : RegMap.dieOf off = some die) (hdie : die < 24)
    (hk : off % 0x100000 / 0x10000 < 9) :
    RegMap.at? off = RegMap.find RegMap.bay (off % 0x100000 % 0x10000) := by
  unfold RegMap.at?
  rw [hd, RegMap.arbBlock_rafter hd hdie hk]
  dsimp only
  rw [if_neg (by omega), if_neg (by omega), if_pos hdie, if_pos hk]

/-- The register at an offset of a bay's sub-window. -/
theorem RegMap.at?_bay {b : PBay} (hb : b.wf = true) {r : Nat} (hr : r < 0x10000) :
    RegMap.at? (bayBase b + r) = RegMap.find RegMap.bay r := by
  obtain ⟨hdie, hbay⟩ := of_decide_eq_true hb
  have hplace : (bayBase b + r) % 0x100000 / 0x10000 < 9 ∧ (bayBase b + r) % 0x100000 % 0x10000 = r := by
    unfold bayBase rafterBase
    omega
  obtain ⟨hk, ho⟩ := hplace
  rw [RegMap.at?_rafter (RegMap.dieOf_bay hb hr) hdie hk, ho]

/-- A 16-bit field that a host writes and that counts. -/
def FieldSpec.count16 (lo : Nat) : FieldSpec := ⟨lo, 16, .rw, 0, true⟩

/-- A counting field of 16 bits at the head of a register, written (03 R90). -/
theorem writeWord_count16 (lo : Nat) (rest : List FieldSpec) (old value hwSet n : Nat) (added : List Nat)
    (unlocked : Bool) : writeWord (.count16 lo :: rest) old value hwSet (n :: added) unlocked =
      min 0xFFFF (value / 2 ^ lo % 2 ^ 16 + n) * 2 ^ lo + writeWord rest old value hwSet added unlocked := by
  rw [Nat.min_comm]
  rfl

/-- BAY_CVT0: saturations, and NaN results. -/
theorem RegMap.at?_bayCvt0 {b : PBay} (hb : b.wf = true) :
    RegMap.at? (Reg.bayCvt0Sat b).off = some ⟨0xe010, 4, 1, [.count16 0, .count16 16]⟩ :=
  RegMap.at?_bay hb (by decide)

/-- BAY_CVT1: flushes to zero. -/
theorem RegMap.at?_bayCvt1 {b : PBay} (hb : b.wf = true) :
    RegMap.at? (Reg.bayCvt1Flush b).off = some ⟨0xe014, 4, 1, [.count16 0]⟩ :=
  RegMap.at?_bay hb (by decide)

/-! ### The statement -/

/-- A carried counter write is a write by access code with the cycle's counts. -/
theorem exec_counterFieldWrite_carried {s : State} {p : Path} {off : Nat} (h : s.Carries p off) (v : Word)
    (added : List Nat) :
    exec (.counterFieldWrite p off v added) s = .next (s.writeCode p off v.toNat 0 added) :=
  congrArg Host.Outcome.next (State.access_carried h _)

/-- Of a register without an RWL field such a write changes the word alone. -/
theorem exec_counterFieldWrite_open {s : State} {p : Path} {off : Nat} {r : RegSpec} (h : s.Carries p off)
    (hr : RegMap.at? off = some r) (hopen : ∀ f ∈ r.fields, f.acc ≠ .rwl) (v : Word) (added : List Nat) :
    exec (.counterFieldWrite p off v added) s =
      .next (s.setReg off (BitVec.ofNat 32 (writeWord r.fields (s.reg off).toNat v.toNat 0 added s.service))) := by
  have hunlocked : (r.fields.any fun f => decide (f.acc = .rwl)) = false := by simpa using hopen
  rw [exec_counterFieldWrite_carried h, State.writeCode_eq s p _ _ _ hr, hunlocked, Bool.and_false]
  rfl

/-- Settles O9: the words of BAY_CVT0 and BAY_CVT1 written out, and each counting field of any register by its place
among them. -/
theorem counterFieldWrite : Obligations.CounterFieldWrite := by
  unfold Obligations.CounterFieldWrite
  intro p b v n0 n1 s hb
  refine ⟨fun hcar => ?cvt0, fun hcar => ?cvt1, fun off r added hcar hr => ?every⟩
  case cvt0 =>
    have hhigh : v.toNat / 2 ^ 16 % 2 ^ 16 = v.toNat / 2 ^ 16 :=
      Nat.mod_eq_of_lt (Nat.div_lt_of_lt_mul v.isLt)
    rw [exec_counterFieldWrite_open hcar (RegMap.at?_bayCvt0 hb) (by decide)]
    simp only [writeWord_count16, hhigh, writeWord_nil, List.map_nil, List.sum_nil, Nat.pow_zero, Nat.div_one, Nat.mul_one, Nat.add_zero]
  case cvt1 =>
    rw [exec_counterFieldWrite_open hcar (RegMap.at?_bayCvt1 hb) (by decide)]
    simp only [writeWord_count16, writeWord_nil, List.map_nil, List.sum_nil, Nat.pow_zero, Nat.div_one, Nat.mul_one, Nat.add_zero]
  case every =>
    obtain ⟨hfit, hapart⟩ := RegMap.fieldsFit hr
    refine ⟨_, exec_counterFieldWrite_carried hcar v added, s.writeCode_sameBytes p _ _ _,
      s.writeCode_sameRegs p _ _ _ hr, fun h => s.writeCode_raised_open p _ _ _ hr (.inr h), fun k f hk hacc => ?_⟩
    obtain ⟨hf, hcnt⟩ := List.mem_filter.1 (List.mem_of_getElem? hk)
    rw [s.writeCode_reg p _ _ _ hr, bits_toNat_ofNat _ (hfit f hf), bits_writeWord_counting _ _ _ _ hapart added hk,
      bits_writeField_counting hcnt hacc]

end Sys2Proof.Machine
end

section
/-! SUPPORT. The frames of the peg counts at completion and at a start check speak of every number, and a number past the
65,536 pegs addresses another register: the statements that hold them fail there. -/

namespace Sys2Proof.Machine

/-! ### Numbers past the pegs -/

/-- The number whose PEG_COUNT would stand at an offset (11 R306 numbers the pegs 0 to 65535 alone). -/
def pegNumberAt (off : Nat) : Nat := (off - 0x40000) / 4

/-- Read as a peg's count, the register at an offset past PEG_COUNT 0 is its whole word. -/
theorem State.peg_pegNumberAt (s : State) {off : Nat} (hlow : 0x40000 ≤ off) (halign : off % 4 = 0) :
    s.peg (pegNumberAt off) = (s.reg off).toNat := by
  have hoff : (Reg.pegCountCount (pegNumberAt off)).off = off := by
    simp only [Reg.pegCountCount, pegNumberAt]
    omega
  unfold State.peg State.fld
  rw [hoff]
  simp only [Reg.pegCountCount, bits, Nat.pow_zero, Nat.div_one]
  exact Nat.mod_eq_of_lt (s.reg off).isLt

/-! ### Completion -/

/-- A task whose descriptor is all zeros, so that it neither signals nor asks for its status, and of which bay 0 of die 0
raised INEXACT. -/
def inexactTask : Running :=
  { task := { queue := 0, pos := 0, desc := [], bwd := [], wait := 0 }, half := 2, course := 0, outs := [], flags := 0,
    sflags := [(⟨0, 0⟩, 1)], slipped := false, waiting := false, phase := 0, got := 0, tags := [], overlaps := false,
    coll := none }

/-- The module after reset, with that task running on bay 0 of die 0. -/
def inexactRuns : State := { State.reset with bays := [(0, { BayState.empty with running := [inexactTask] })] }

/-- Refutes O38: a task that does not signal keeps the count of every number, also of the number 0x3F3808 that is no peg's
and addresses BAY_SFLAGS of bay 0, where the same statement has the INEXACT flag of the task appear. -/
theorem not_taskComplete : ¬ Obligations.TaskComplete := by
  unfold Obligations.TaskComplete
  intro h
  obtain ⟨-, hcompletes⟩ := h ⟨0, 0⟩ 0 0 0 ⟨0, 0⟩ inexactRuns (by decide)
  obtain ⟨-, -, -, -, hrest, r, hr, -, t, -, -, -, hpegs, -, -, -, -, -, -, hflags, -⟩ :=
    hcompletes inexactTask (by decide)
  have hdrained : inexactRuns.drainTask inexactTask = inexactRuns := hrest (by decide)
  rw [hdrained] at hr hpegs hflags
  have hr' : r = inexactTask := Option.some.inj (hr.symm.trans (by decide))
  subst hr'
  have hkept : (t.reg 0x100E020).toNat = (inexactRuns.reg 0x100E020).toNat := by
    rw [← State.peg_pegNumberAt t (by decide) (by decide), ← State.peg_pegNumberAt _ (by decide) (by decide)]
    exact (hpegs (by decide)).2 _
  have hinexact : bits (t.reg 0x100E020).toNat 0 1 = 1 :=
    hflags ⟨0, 0⟩ 0 (by decide) (by decide) (.inr (.inl ⟨(⟨0, 0⟩, 1), by decide, rfl, by decide⟩))
  rw [hkept] at hinexact
  exact absurd hinexact (by decide)

/-! ### A start check -/

/-- A GEMM task that asks for its status at address 0, of a queue that the image does not bind. -/
def unboundTask : Task := { queue := 0, pos := 0, desc := [1, 4], bwd := [], wait := 0 }

/-- An image that binds nothing. -/
def bareImage : Image :=
  { excl := false, reqFeat := [], contexts := [], spans := [], queues := [], plans := [], descs := [], frame := 1,
    courses := [], pegs := [], ties := [], arbs := [], ranges := [], tables := [], streams := [], sessions := [],
    cascade := none, swapMax := 0, beq := 0, lcHold := 0, und := [] }

/-- The module after reset with that image, and that task selected on bay 0 of die 0. -/
def unboundSelected : State :=
  { State.reset with
    image := some bareImage
    bays := [(0, { BayState.empty with selected := [unboundTask] })] }

/-- The state once the sequencer has read the task. -/
def unboundRead : State := (unboundSelected.readTask ⟨0, 0⟩ unboundTask).1

theorem readTask_unbound :
    unboundSelected.readTask ⟨0, 0⟩ unboundTask = (unboundRead, .malformed none, false) :=
  Prod.ext rfl (by decide)

/-- The status of the task is the first entry of the Underlay of stack 0: UND_STAT.PEAK of its controller rises to 1. -/
theorem undStat_unbound :
    ((unboundRead.endAtCheck ⟨0, 0⟩ unboundTask (.malformed none)).reg 0x10C0008).toNat = 512 := by decide +kernel

/-- Refutes O37: a task that a check stops keeps the count of every number, also of the number 0x420002 that is no peg's
and addresses UND_STAT of die 0, which its own status changes on its way into the Underlay. -/
theorem not_taskStoppedByCheck : ¬ Obligations.TaskStoppedByCheck := by
  unfold Obligations.TaskStoppedByCheck
  intro h
  obtain ⟨-, -, -, -, -, -, -, -, -, -, -, -, -, -, -, -, -, -, -, -, -, -, -, -, -, -, -, -, -, -, -, hpegs⟩ :=
    h ⟨0, 0⟩ 0 ⟨0, none⟩ (opGemm, 0) ⟨0, 0⟩ unboundTask unboundSelected unboundRead (.malformed none) false (by decide)
      readTask_unbound (.inl (by decide))
  have hkept := (hpegs (by decide)).1 (pegNumberAt 0x10C0008)
  rw [State.peg_pegNumberAt _ (by decide) (by decide), State.peg_pegNumberAt _ (by decide) (by decide),
    undStat_unbound] at hkept
  exact absurd hkept (by decide)

end Sys2Proof.Machine
end

section
/-! SUPPORT. What the operations of a task's start and of a fault leave alone: the counters of a task, the abort of a
running task, and the finding of a bay fault. -/

namespace Sys2Proof.Machine

/-! ### Registers and bays after an update -/

/-- Setting a field leaves every other register. -/
theorem State.reg_setFld_other (s : State) {f : Field} {off : Nat} (v : Nat) (h : off ≠ f.off) :
    (s.setFld f v).reg off = s.reg off := State.reg_setReg_other s _ h

/-- Counting leaves every other register. -/
theorem State.reg_bump_other (s : State) {f : Field} {off : Nat} (n : Nat) (h : off ≠ f.off) :
    (s.bump f n).reg off = s.reg off := s.reg_setFld_other _ h

/-- Counting leaves the other fields of its register. -/
theorem State.fld_bump_bits (s : State) (f g : Field) (n : Nat) (h : f.lo + f.width ≤ 32)
    (hd : g.lo + g.width ≤ f.lo ∨ f.lo + f.width ≤ g.lo) : (s.bump f n).fld g = s.fld g :=
  s.fld_setFld_bits f g _ h hd

/-- A field reads the same where its register does. -/
theorem State.fld_eq_of_reg {s t : State} {f : Field} (h : t.reg f.off = s.reg f.off) : t.fld f = s.fld f := by
  unfold State.fld
  rw [h]

/-- What a bay holds after one has been replaced: bays of one key are one bay. -/
theorem State.bay_setBay (s : State) (b x : PBay) (v : BayState) :
    (s.setBay b v).bay x = if bayKey x = bayKey b then v else s.bay x := Store.get_set _ _ _ _ _

theorem State.bay_eq_of_key (s : State) {b x : PBay} (h : bayKey x = bayKey b) : s.bay x = s.bay b := by
  unfold State.bay
  rw [h]

/-! ### What a task counts -/

/-- Counts added to counting fields, in order. -/
def State.bumpAll (s : State) (l : List (Field × Nat)) : State := l.foldl (fun (s : State) x => s.bump x.1 x.2) s

theorem State.bumpAll_reg_other (s : State) {l : List (Field × Nat)} {off : Nat} (h : ∀ x ∈ l, off ≠ x.1.off) :
    (s.bumpAll l).reg off = s.reg off := by
  induction l generalizing s with
  | nil => rfl
  | cons x l ih =>
    exact (ih (s.bump x.1 x.2) fun y hy => h y (List.mem_cons_of_mem _ hy)).trans
      (s.reg_bump_other _ (h x List.mem_cons_self))

/-- Counting changes registers alone. -/
theorem State.bumpAll_eq (s : State) (l : List (Field × Nat)) : ∃ regs, s.bumpAll l = { s with regs := regs } := by
  induction l generalizing s with
  | nil => exact ⟨_, rfl⟩
  | cons x l ih =>
    obtain ⟨regs, h⟩ := ih (s.bump x.1 x.2)
    exact ⟨regs, h⟩

/-- The fields in which a bay counts what its tasks do, with the counts of a task. -/
def countedIn (b : PBay) (c : Cnt) : List (Field × Nat) :=
  [(Reg.bayCvt0Sat b, c.cvtSat), (Reg.bayCvt0Nanz b, c.cvtNanz), (Reg.bayCvt1Flush b, c.cvtFlush),
   (Reg.bayFast0Flush b, c.fflush), (Reg.bayFast0Sat b, c.fsat), (Reg.bayFast1Nan b, c.fnan),
   (Reg.bayFast1Iovf b, c.iovf), (Reg.bayRowst0Clamp b, c.clamp), (Reg.bayRowst0Sumsat b, c.sumsat),
   (Reg.bayRowst1Varneg b, c.varneg), (Reg.bayRowst1Nanrow b, c.nanrow), (Reg.bayAttn0Skip b, c.skip),
   (Reg.bayAttn1Run b, c.run)]

theorem State.addCnt_eq_bumpAll (s : State) (b : PBay) (c : Cnt) : s.addCnt b c = s.bumpAll (countedIn b c) := rfl

theorem off_mem_countRegs {b : PBay} {c : Cnt} {x : Field × Nat} (h : x ∈ countedIn b c) : x.1.off ∈ countRegs b := by
  simp only [countedIn, List.mem_cons, List.not_mem_nil, or_false] at h
  rcases h with rfl | rfl | rfl | rfl | rfl | rfl | rfl | rfl | rfl | rfl | rfl | rfl | rfl <;>
    simp [countRegs, Reg.bayCvt0Sat, Reg.bayCvt0Nanz, Reg.bayFast0Sat, Reg.bayFast0Flush, Reg.bayFast1Nan,
      Reg.bayFast1Iovf, Reg.bayRowst0Clamp, Reg.bayRowst0Sumsat, Reg.bayRowst1Varneg, Reg.bayRowst1Nanrow]

/-- What the parts of a task count is counted on their bays. -/
def partCounts (parts : Parts) : List (Field × Nat) := parts.flatMap fun p => countedIn p.1 p.2.cnt

theorem State.foldl_addCnt (s : State) (parts : Parts) :
    parts.foldl (fun (s : State) p => s.addCnt p.1 p.2.cnt) s = s.bumpAll (partCounts parts) := by
  unfold State.bumpAll partCounts
  rw [List.foldl_flatMap]
  rfl

theorem off_ne_of_not_mem_countRegs {parts : Parts} {off : Nat} (h : ∀ p ∈ parts, off ∉ countRegs p.1) :
    ∀ x ∈ partCounts parts, off ≠ x.1.off := by
  rintro x hx rfl
  obtain ⟨p, hp, hx⟩ := List.mem_flatMap.1 hx
  exact h p hp (off_mem_countRegs hx)

theorem bayBase_mod (b : PBay) : bayBase b % 0x10000 = 0 := by
  unfold bayBase rafterBase
  omega

/-- No counting register of a bay stands where BAY_ECC does in a bay's window, or the first two registers of a die's
common block in theirs. -/
theorem not_mem_countRegs (b : PBay) {off : Nat} (h : off % 0x10000 = 0xE078 ∨ off % 0x10000 < 8) :
    off ∉ countRegs b := by
  have hplace : ∀ o ∈ [0xe010, 0xe014, 0xe018, 0xe01c, 0xe050, 0xe054, 0xe060, 0xe064],
      8 ≤ o ∧ o < 0x10000 ∧ o ≠ 0xE078 := by decide
  intro hmem
  obtain ⟨o, ho, rfl⟩ := List.mem_map.1
    (show off ∈ [0xe010, 0xe014, 0xe018, 0xe01c, 0xe050, 0xe054, 0xe060, 0xe064].map (bayBase b + ·) from hmem)
  have hbase := bayBase_mod b
  have ho := hplace o ho
  omega

/-! ### What an abort and a fault leave -/

/-- Every byte store, the records, what runs on each bay, what it has aborted and whether it is faulty stand, and so do
BAY_ECC of each bay, BAY_SPARE and BAY_FAULT of each die. -/
structure State.TasksStand (s t : State) : Prop where
  bytes   : s.SameBytes t
  raised  : t.raised = s.raised
  running : ∀ y, (t.bay y).running = (s.bay y).running
  aborted : ∀ y, (t.bay y).aborted = (s.bay y).aborted
  faulty  : ∀ y, (t.bay y).faulty = (s.bay y).faulty
  regs    : ∀ off, off < 0x3000000 → off % 0x10000 = 0xE078 ∨ off % 0x10000 < 8 → t.reg off = s.reg off

theorem State.SameBytes.trans {s t u : State} (h : s.SameBytes t) (h' : t.SameBytes u) : s.SameBytes u := by
  obtain ⟨hm, hu, hp, hl, hs⟩ := h
  obtain ⟨hm', hu', hp', hl', hs'⟩ := h'
  exact ⟨hm'.trans hm, hu'.trans hu, hp'.trans hp, hl'.trans hl, hs'.trans hs⟩

theorem State.TasksStand.rfl' (s : State) : s.TasksStand s :=
  ⟨⟨rfl, rfl, rfl, rfl, rfl⟩, rfl, fun _ => rfl, fun _ => rfl, fun _ => rfl, fun _ _ _ => rfl⟩

theorem State.TasksStand.trans {s t u : State} (h : s.TasksStand t) (h' : t.TasksStand u) : s.TasksStand u :=
  ⟨h.bytes.trans h'.bytes, h'.raised.trans h.raised, fun y => (h'.running y).trans (h.running y),
    fun y => (h'.aborted y).trans (h.aborted y), fun y => (h'.faulty y).trans (h.faulty y),
    fun off hlow hoff => (h'.regs off hlow hoff).trans (h.regs off hlow hoff)⟩

theorem State.TasksStand.foldl {α : Type} {f : State → α → State} (hf : ∀ (s : State) x, s.TasksStand (f s x)) (l : List α)
    (s : State) : s.TasksStand (l.foldl f s) := by
  induction l generalizing s with
  | nil => exact .rfl' s
  | cons x l ih => exact (hf s x).trans (ih (f s x))

/-- A bay gets a record in which the same runs, was aborted and is faulty. -/
theorem State.tasksStand_setBay (s : State) (b : PBay) (v : BayState) (hr : v.running = (s.bay b).running)
    (ha : v.aborted = (s.bay b).aborted) (hf : v.faulty = (s.bay b).faulty) : s.TasksStand (s.setBay b v) := by
  have hbay {α : Type} (g : BayState → α) (hg : g v = g (s.bay b)) (y : PBay) : g ((s.setBay b v).bay y) = g (s.bay y) := by
    rw [s.bay_setBay]
    split
    next hkey => rw [hg, s.bay_eq_of_key hkey]
    next => rfl
  exact ⟨⟨rfl, rfl, rfl, rfl, rfl⟩, rfl, hbay _ hr, hbay _ ha, hbay _ hf, fun _ _ _ => rfl⟩

/-- A field is set in a register of none of these. -/
theorem State.tasksStand_setFld (s : State) (f : Field) (v : Nat)
    (h : f.off < 0x3000000 → f.off % 0x10000 ≠ 0xE078 ∧ 8 ≤ f.off % 0x10000) : s.TasksStand (s.setFld f v) := by
  refine ⟨⟨rfl, rfl, rfl, rfl, rfl⟩, rfl, fun _ => rfl, fun _ => rfl, fun _ => rfl, fun off hlow hoff => ?_⟩
  refine s.reg_setFld_other _ ?_
  rintro rfl
  have := h hlow
  omega

/-- The place of a register in the window of its bay. -/
theorem bayOffset_mod (b : PBay) {o : Nat} (h : o < 0x10000) : (bayBase b + o) % 0x10000 = o := by
  have := bayBase_mod b
  omega

theorem State.tasksStand_setPort (s : State) (port : Nat) (v : Port) : s.TasksStand (s.setPort port v) :=
  ⟨⟨rfl, rfl, rfl, rfl, rfl⟩, rfl, fun _ => rfl, fun _ => rfl, fun _ => rfl, fun _ _ _ => rfl⟩

theorem State.tasksStand_setQueue (s : State) (q : Nat) (v : QueueState) : s.TasksStand (s.setQueue q v) :=
  ⟨⟨rfl, rfl, rfl, rfl, rfl⟩, rfl, fun _ => rfl, fun _ => rfl, fun _ => rfl, fun _ _ _ => rfl⟩

theorem State.tasksStand_trussWord (s : State) (b : PBay) : s.TasksStand (s.trussWord b) := by
  have hfld (s : State) (f : Field) (v : Nat) (hf : f.off = bayBase b + 0xe044) : s.TasksStand (s.setFld f v) :=
    s.tasksStand_setFld f v fun _ => by rw [hf, bayOffset_mod b (by decide)]; decide
  unfold State.trussWord State.setFlag
  dsimp only
  exact (((hfld _ (Reg.bayTrussBusy b) _ rfl).trans (hfld _ (Reg.bayTrussSplit b) _ rfl)).trans
    (hfld _ (Reg.bayTrussTally b) _ rfl)).trans (hfld _ (Reg.bayTrussClass b) _ rfl)

theorem State.tasksStand_emptyHalf (s : State) (b : PBay) (half : Nat) : s.TasksStand (s.emptyHalf b half) := by
  unfold State.emptyHalf
  refine .trans (s.tasksStand_setBay b _ ?_ ?_ ?_) (State.tasksStand_trussWord _ b) <;> rfl

theorem State.tasksStand_voidQueue (s : State) (port queue : Nat) : s.TasksStand (s.voidQueue port queue) := by
  unfold State.voidQueue State.bump
  dsimp only
  refine (State.tasksStand_setPort s port _).trans (State.tasksStand_setFld _ _ _ fun hlow => ?_)
  simp only [Reg.eavTagVoid, portBase] at hlow
  omega

theorem State.tasksStand_unselect (s : State) (b : PBay) (p : Task → Bool) : s.TasksStand (s.unselect b p).2 := by
  unfold State.unselect
  dsimp only
  split
  next => exact .rfl' s
  next => refine .foldl (fun s e => s.tasksStand_setBay _ _ ?_ ?_ ?_) _ s <;> rfl

theorem State.tasksStand_putBack (s : State) (ts : List Task) : s.TasksStand (s.putBack ts) :=
  .foldl (fun s _ => s.tasksStand_setQueue _ _) ts s

theorem State.tasksStand_releaseSelected (s : State) (b : PBay) : s.TasksStand (s.releaseSelected b) :=
  (s.tasksStand_unselect b _).trans (State.tasksStand_putBack _ _)

/-! ### The abort of a task -/

/-- The record in which a bay moves a running task to the aborted ones. -/
def BayState.moveAborted (v : BayState) (b : PBay) (r : Running) (cause : Nat) : BayState :=
  { v with running := v.running.filter fun x => x ≠ r, aborted := v.aborted ++ [r.aborted b cause] }

/-- Before a task is moved to the aborted ones its halves of the arrays are emptied, and the pieces it has taken wait
for its re-run. -/
def State.beforeAbort (s : State) (r : Running) : State :=
  let s := r.bays.foldl (fun (s : State) x => s.emptyHalf x r.half) s
  { s with held := s.held ++ r.taken.map fun (h : Held) => { h with spent := true } }

/-- After it its transfers are voided, and the tasks of its queue that were selected return. -/
def State.afterAbort (s : State) (r : Running) : State :=
  let s := (s.portsWith r.task.queue).foldl (fun (s : State) p => s.voidQueue p r.task.queue) s
  s.bays.foldl (fun (s : State) e =>
    let (ts, s) := s.unselect ⟨e.1 / 9, e.1 % 9⟩ fun t => decide (t.queue = r.task.queue)
    s.putBack ts) s

theorem State.abortTask_eq (s : State) (b : PBay) (r : Running) (cause : Nat) :
    let v := s.beforeAbort r
    s.abortTask b r cause = (v.setBay b ((v.bay b).moveAborted b r cause)).afterAbort r := rfl

theorem State.tasksStand_beforeAbort (s : State) (r : Running) : s.TasksStand (s.beforeAbort r) :=
  have h := State.TasksStand.foldl (fun s x => s.tasksStand_emptyHalf x r.half) r.bays s
  ⟨h.bytes, h.raised, h.running, h.aborted, h.faulty, h.regs⟩

theorem State.tasksStand_afterAbort (s : State) (r : Running) : s.TasksStand (s.afterAbort r) :=
  .trans (.foldl (fun s p => s.tasksStand_voidQueue p r.task.queue) _ s)
    (.foldl (fun s _ => (s.tasksStand_unselect _ _).trans (State.tasksStand_putBack _ _)) _ _)

section
variable (s : State) (b : PBay) (r : Running) (cause : Nat)

theorem State.abortTask_running :
    ((s.abortTask b r cause).bay b).running = (s.bay b).running.filter fun x => x ≠ r := by
  rw [s.abortTask_eq, (State.tasksStand_afterAbort _ r).running, State.bay_setBay_self]
  exact congrArg (List.filter _) ((s.tasksStand_beforeAbort r).running b)

/-- An aborted task stands among those of its bay, to be performed again. -/
theorem State.mem_abortTask_aborted : r.aborted b cause ∈ ((s.abortTask b r cause).bay b).aborted := by
  rw [s.abortTask_eq, (State.tasksStand_afterAbort _ r).aborted, State.bay_setBay_self]
  exact List.mem_append_right _ List.mem_cons_self

theorem State.abortTask_faulty (y : PBay) : ((s.abortTask b r cause).bay y).faulty = (s.bay y).faulty := by
  rw [s.abortTask_eq, (State.tasksStand_afterAbort _ r).faulty, State.bay_setBay]
  split
  next hkey => exact ((s.tasksStand_beforeAbort r).faulty b).trans (congrArg BayState.faulty (s.bay_eq_of_key hkey).symm)
  next => exact (s.tasksStand_beforeAbort r).faulty y

theorem State.abortTask_sameBytes : s.SameBytes (s.abortTask b r cause) :=
  (s.tasksStand_beforeAbort r).bytes.trans (State.tasksStand_afterAbort _ r).bytes

theorem State.abortTask_raised : (s.abortTask b r cause).raised = s.raised :=
  (State.tasksStand_afterAbort _ r).raised.trans (s.tasksStand_beforeAbort r).raised

theorem State.abortTask_reg {off : Nat} (hlow : off < 0x3000000) (h : off % 0x10000 = 0xE078 ∨ off % 0x10000 < 8) :
    (s.abortTask b r cause).reg off = s.reg off :=
  ((State.tasksStand_afterAbort _ r).regs off hlow h).trans ((s.tasksStand_beforeAbort r).regs off hlow h)

end

/-! ### The finding of a bay fault -/

theorem State.tasksStand_reliab (s : State) (x : Reliab) : s.TasksStand { s with reliab := x } :=
  ⟨⟨rfl, rfl, rfl, rfl, rfl⟩, rfl, fun _ => rfl, fun _ => rfl, fun _ => rfl, fun _ _ _ => rfl⟩

theorem State.tasksStand_loseSave (s : State) (b : PBay) (l : Nat) : s.TasksStand (s.loseSave b l) := by
  unfold State.loseSave
  split
  next w hw =>
    split
    next c hc =>
      dsimp only
      split
      next => exact .rfl' s
      next => exact s.tasksStand_reliab _
    next => exact .rfl' s
  next => exact .rfl' s

theorem State.tasksStand_spareFault (s : State) (b : PBay) : s.TasksStand (s.spareFault b) := by
  unfold State.spareFault
  dsimp only
  split
  next => exact s.tasksStand_reliab _
  next => exact s.tasksStand_reliab _

theorem State.tasksStand_callSpare (s : State) (b : PBay) (l cause : Nat) : s.TasksStand (s.callSpare b l cause) := by
  unfold State.callSpare
  dsimp only
  split
  next => exact s.tasksStand_reliab _
  next => exact s.tasksStand_reliab _

/-- The record of a bay that is found faulty: its swap ends where it leaves service. -/
def BayState.found (v : BayState) (cause l : Nat) (swap : Option Swap) : BayState :=
  { v with faulty := some (cause, l), swap := swap }

/-- A bay is marked faulty. -/
def State.markFound (s : State) (b : PBay) (cause l : Nat) (swap : Option Swap) : State :=
  s.setBay b ((s.bay b).found cause l swap)

theorem State.leaveBay_eq (s : State) (b : PBay) (l : Nat) {cause : Nat} (hcause : cause ≠ 3) :
    s.leaveBay b l cause = ((s.loseSave b l).markFound b cause l none).releaseSelected b := by
  simp only [State.leaveBay, if_neg hcause, State.markFound, BayState.found]

theorem State.bayFault_eq_self (s : State) (b : PBay) (cause : Nat)
    (h : ¬((s.bay b).faulty = none ∧ s.bayRetired b = false)) : s.bayFault b cause = s := by
  unfold State.bayFault
  rw [if_pos]
  cases hf : (s.bay b).faulty with
  | some x => exact .inl rfl
  | none => exact .inr (Bool.not_eq_false _ ▸ fun hr => h ⟨hf, hr⟩)

/-- A bay that is found faulty for another cause than weathering is recorded in BAY_FAULT and marked; what is done besides
leaves the tasks as they are. -/
theorem State.bayFault_stands (s : State) (b : PBay) {cause : Nat} (hcause : cause ≠ 3) (hf : (s.bay b).faulty = none)
    (hr : s.bayRetired b = false) :
    ∃ v l swap, (s.recordFault b cause).TasksStand v ∧ (v.markFound b cause l swap).TasksStand (s.bayFault b cause) := by
  have hnew : ¬((s.bay b).faulty.isSome = true ∨ s.bayRetired b = true) := by
    rw [hf, hr]
    decide
  cases hl : (s.recordFault b cause).logical b with
  | none =>
    refine ⟨_, 8, ((s.recordFault b cause).bay b).swap, .rfl' _, ?_⟩
    simp only [State.bayFault, if_neg hnew, hl]
    split
    next => exact State.tasksStand_spareFault _ b
    next => exact .rfl' _
  | some l =>
    refine ⟨_, l.lbay, none, State.tasksStand_loseSave _ b l.lbay, ?_⟩
    simp only [State.bayFault, if_neg hnew, hl]
    rw [State.leaveBay_eq _ _ _ hcause]
    exact (State.tasksStand_releaseSelected _ b).trans (State.tasksStand_callSpare _ b _ _)

/-! ### The record of a fault -/

section
variable (s : State) (b : PBay) (cause : Nat)

theorem State.recordFault_sameBytes : s.SameBytes (s.recordFault b cause) := by
  unfold State.recordFault State.SameBytes
  simp

theorem State.recordFault_raised : (s.recordFault b cause).raised = s.raised := by
  unfold State.recordFault
  simp

theorem State.recordFault_bay (x : PBay) : (s.recordFault b cause).bay x = s.bay x := by
  unfold State.recordFault
  simp

/-- The record of a fault stands in BAY_FAULT alone. -/
theorem State.recordFault_reg_other {off : Nat} (h : off ≠ (Reg.bayFaultPbay b.die).off) :
    (s.recordFault b cause).reg off = s.reg off := by
  unfold State.recordFault
  dsimp only
  iterate 4 refine .trans (State.reg_setFld_other _ _ h) ?_
  rfl

theorem State.recordFault_cause : (s.recordFault b cause).fld (Reg.bayFaultCause b.die) = cause % 8 := by
  have habove (s : State) (f : Field) (v : Nat) (hf : f = Reg.bayFaultValid b.die ∨ f = Reg.bayFaultCourse b.die) :
      (s.setFld f v).fld (Reg.bayFaultCause b.die) = s.fld (Reg.bayFaultCause b.die) := by
    rcases hf with rfl | rfl <;>
      exact s.fld_setFld_bits _ _ v (Nat.le_of_ble_eq_true rfl) (.inl (Nat.le_of_ble_eq_true rfl))
  unfold State.recordFault
  dsimp only
  rw [habove _ _ _ (.inr rfl), habove _ _ _ (.inl rfl), State.fld_setFld_self _ _ _ (Nat.le_of_ble_eq_true rfl)]
  rfl

theorem State.recordFault_pbay : (s.recordFault b cause).fld (Reg.bayFaultPbay b.die) = b.pbay % 16 := by
  have habove (s : State) (f : Field) (v : Nat) (hf : f = Reg.bayFaultCause b.die ∨ f = Reg.bayFaultValid b.die ∨
      f = Reg.bayFaultCourse b.die) : (s.setFld f v).fld (Reg.bayFaultPbay b.die) = s.fld (Reg.bayFaultPbay b.die) := by
    rcases hf with rfl | rfl | rfl <;>
      exact s.fld_setFld_bits _ _ v (Nat.le_of_ble_eq_true rfl) (.inl (Nat.le_of_ble_eq_true rfl))
  unfold State.recordFault
  dsimp only
  rw [habove _ _ _ (.inr (.inr rfl)), habove _ _ _ (.inr (.inl rfl)), habove _ _ _ (.inl rfl),
    State.fld_setFld_self _ _ _ (Nat.le_of_ble_eq_true rfl)]
  rfl

end

/-! ### What a bay fault leaves, and what it finds -/

/-- BAY_ECC lies in the window of its bay, below the windows of the ports. -/
theorem bayEcc_place {x : PBay} (hx : x.wf = true) :
    (Reg.bayEccCorr x).off < 0x3000000 ∧ (Reg.bayEccCorr x).off % 0x10000 = 0xE078 := by
  obtain ⟨hdie, hpbay⟩ := of_decide_eq_true hx
  refine ⟨?_, bayOffset_mod x (by decide)⟩
  simp only [Reg.bayEccCorr, bayBase, rafterBase]
  omega

/-- BAY_SPARE and BAY_FAULT are the first registers of a die's common block, below the windows of the ports. -/
theorem bayFault_place {die : Nat} (hdie : die < 24) : (Reg.bayFaultPbay die).off < 0x3000000 ∧
    (Reg.bayFaultPbay die).off % 0x10000 = 4 ∧ (Reg.baySpareRetired die).off < 0x3000000 ∧
    (Reg.baySpareRetired die).off % 0x10000 = 0 := by
  simp only [Reg.bayFaultPbay, Reg.baySpareRetired, rafterBase]
  omega

section
variable (s : State) {b : PBay} {cause : Nat}

/-- Every byte store, the records and the tasks of each bay stand, and so do the faults of the other bays and BAY_ECC of
each bay. -/
structure State.StandsBut (s t : State) (b : PBay) : Prop where
  bytes   : s.SameBytes t
  raised  : t.raised = s.raised
  running : ∀ y, (t.bay y).running = (s.bay y).running
  aborted : ∀ y, (t.bay y).aborted = (s.bay y).aborted
  faulty  : ∀ y, bayKey y ≠ bayKey b → (t.bay y).faulty = (s.bay y).faulty
  ecc     : ∀ off, off < 0x3000000 → off % 0x10000 = 0xE078 → t.reg off = s.reg off

theorem State.bayFault_standsBut (hb : b.wf = true) (hcause : cause ≠ 3) : s.StandsBut (s.bayFault b cause) b := by
  by_cases h : (s.bay b).faulty = none ∧ s.bayRetired b = false
  next =>
    obtain ⟨v, l, swap, hv, ht⟩ := s.bayFault_stands b hcause h.1 h.2
    have hbay {α : Type} (g : BayState → α) (hg : ∀ v : BayState, g (v.found cause l swap) = g v) (y : PBay) :
        g ((v.markFound b cause l swap).bay y) = g (v.bay y) := by
      rw [State.markFound, State.bay_setBay]
      split
      next hkey => rw [hg, v.bay_eq_of_key hkey]
      next => rfl
    refine ⟨((s.recordFault_sameBytes b cause).trans hv.bytes).trans ht.bytes,
      (ht.raised.trans hv.raised).trans (s.recordFault_raised b cause), fun y => ?_, fun y => ?_, fun y hy => ?_,
      fun off hlow hoff => ?_⟩
    · rw [ht.running, hbay BayState.running fun _ => rfl, hv.running, s.recordFault_bay]
    · rw [ht.aborted, hbay BayState.aborted fun _ => rfl, hv.aborted, s.recordFault_bay]
    · rw [ht.faulty, State.markFound, State.bay_setBay_other _ _ hy, hv.faulty, s.recordFault_bay]
    · rw [ht.regs off hlow (.inl hoff)]
      refine (hv.regs off hlow (.inl hoff)).trans (s.recordFault_reg_other b cause ?_)
      have := bayFault_place (of_decide_eq_true hb).1
      omega
  next =>
    rw [s.bayFault_eq_self b cause h]
    exact ⟨⟨rfl, rfl, rfl, rfl, rfl⟩, rfl, fun _ => rfl, fun _ => rfl, fun _ _ => rfl, fun _ _ _ => rfl⟩

/-- A bay in service that is not yet faulty is so from now on, and BAY_FAULT of its die names it and the cause. -/
theorem State.bayFault_found (hb : b.wf = true) (hcause : cause ≠ 3) (hf : (s.bay b).faulty = none)
    (hr : s.bayRetired b = false) : ((s.bayFault b cause).bay b).faulty.map Prod.fst = some cause ∧
    (s.bayFault b cause).fld (Reg.bayFaultCause b.die) = cause % 8 ∧
    (s.bayFault b cause).fld (Reg.bayFaultPbay b.die) = b.pbay := by
  obtain ⟨hdie, hpbay⟩ := of_decide_eq_true hb
  obtain ⟨v, l, swap, hv, ht⟩ := s.bayFault_stands b hcause hf hr
  obtain ⟨hlow, hmod, -, -⟩ := bayFault_place hdie
  have hreg : (s.bayFault b cause).reg (Reg.bayFaultPbay b.die).off = (s.recordFault b cause).reg (Reg.bayFaultPbay b.die).off :=
    (ht.regs _ hlow (.inr (by omega))).trans (hv.regs _ hlow (.inr (by omega)))
  refine ⟨?_, ?_, ?_⟩
  · rw [ht.faulty, State.markFound, State.bay_setBay_self]
    rfl
  · exact (State.fld_eq_of_reg (f := Reg.bayFaultCause b.die) hreg).trans (s.recordFault_cause b cause)
  · rw [State.fld_eq_of_reg hreg, s.recordFault_pbay]
    omega

end

end Sys2Proof.Machine
end

section
/-! SUPPORT. The start of a task whose outputs follow from its operands alone, and the statement O34. -/

namespace Sys2Proof.Machine

/-! ### The start of a task -/

/-- A task that passes its checks starts to run with its parts, and then the words of its bays are checked. -/
theorem State.startPlain_of_starts {s a : State} {l : Bay} {op : Nat} {b : PBay} {t : Task} (h : s.Starts l (op, 0) b t a)
    (f : State → PBay → Task → Parts) (m : Nat) (e : Sram) :
    ∃ ov, s.startPlain l op f m e = (a.runParts b t ov (f a b t)).sramRead b ((s.teamOf b t).getD m b) t e := by
  obtain ⟨hfront, c, hread, hstale, hnote⟩ := h
  refine ⟨c.overlapsOf b t, ?_⟩
  simp only [State.startPlain, State.startTask, hfront, hread, hstale, State.runTask, hnote, Bool.false_eq_true, if_false]

/-- The state after the counts of a task's parts, with the task last among the running ones of its bay. -/
theorem State.runParts_eq (s : State) (b : PBay) (t : Task) (ov : Bool) (parts : Parts) :
    ∃ regs, s.runParts b t ov parts = State.setBay { s with regs := regs } b
        { s.bay b with running := (s.bay b).running ++ [newRunning s t ov parts] } ∧
      ∀ off, (∀ p ∈ parts, off ∉ countRegs p.1) → ({ s with regs := regs } : State).reg off = s.reg off := by
  obtain ⟨regs, hregs⟩ := s.bumpAll_eq (partCounts parts)
  refine ⟨regs, ?_, fun off hoff => ?_⟩
  · unfold State.runParts
    dsimp only
    rw [s.foldl_addCnt, hregs]
    rfl
  · rw [← hregs]
    exact s.bumpAll_reg_other (off_ne_of_not_mem_countRegs hoff)

/-! ### Without a bad word -/

theorem State.sramRead_clean (s : State) (b x : PBay) (t : Task) {e : Sram} (he : e.bad = none) :
    s.sramRead b x t e = s.bump (Reg.bayEccCorr x) e.corrected := by
  simp [State.sramRead, State.badWord, he]

/-- Without a bad word the task runs with its parts, and the corrected words are counted. -/
theorem State.runsWith_of_clean (a : State) (b x : PBay) (t : Task) (ov : Bool) (parts : Parts) {e : Sram}
    (he : e.bad = none) : a.RunsWith ((a.runParts b t ov parts).sramRead b x t e) b x t parts e.corrected := by
  obtain ⟨regs, hrun, hreg⟩ := a.runParts_eq b t ov parts
  rw [State.sramRead_clean _ b x t he, hrun]
  refine ⟨by simp [State.SameBytes], by simp, ?_, ⟨newRunning a t ov parts, ?_, rfl, rfl, rfl, rfl, rfl, rfl⟩,
    fun y hy => ?_, fun off hparts hecc => ?_, fun hx _ => ?_, by simp, by simp, by simp, by simp⟩
  · rw [State.bump_bay, State.bay_setBay_self]
  · rw [State.bump_bay, State.bay_setBay_self]
  · rw [State.bump_bay, State.bay_setBay_other _ _ hy]
    rfl
  · rw [State.reg_bump_other _ _ hecc, State.setBay_reg]
    exact hreg off hparts
  · have hecc := hreg (Reg.bayEccCorr x).off fun p _ => not_mem_countRegs p.1 (.inl (bayEcc_place hx).2)
    refine ⟨?_, ?_⟩
    · rw [State.fld_bump_self _ _ _ (Nat.le_of_ble_eq_true rfl), State.setBay_fld, State.fld_eq_of_reg hecc, Nat.min_comm]
      rfl
    · rw [State.fld_bump_bits _ _ _ _ (Nat.le_of_ble_eq_true rfl) (.inr (Nat.le_of_ble_eq_true rfl)), State.setBay_fld]
      exact State.fld_eq_of_reg hecc

/-! ### With a bad word -/

/-- The state in which the words of a task's bays have been counted, an uncorrectable one with its record. -/
def State.noteWords (s : State) (x : PBay) (e : Sram) : State := (s.bump (Reg.bayEccCorr x) e.corrected).badWord x e.bad

section
variable (s : State) (x : PBay) {e : Sram} {word : Nat} (he : e.bad = some word)
include he

theorem State.noteWords_eq : s.noteWords x e =
    ((s.bump (Reg.bayEccCorr x) e.corrected).bump (Reg.bayEccUncorr x) 1).raise (srcBay x) 0x3 0x03
      (satTo 0xFFFFFF word) := by
  simp only [State.noteWords, State.badWord, he]

theorem State.noteWords_bay (y : PBay) : (s.noteWords x e).bay y = s.bay y := by
  simp only [s.noteWords_eq x he, State.bay, State.raise_bays, State.bump_bays]

theorem State.noteWords_sameBytes : s.SameBytes (s.noteWords x e) := by
  simp [s.noteWords_eq x he, State.SameBytes]

/-- A bad word is recorded by its bay, with its index. -/
theorem State.mem_noteWords_raised : ∃ v ∈ (s.noteWords x e).raised, v.src = srcBay x ∧ v.cls = 0x3 ∧ v.num = 0x03 ∧
    v.detail = min word 0xFFFFFF := by
  refine ⟨_, by rw [s.noteWords_eq x he, State.raise_raised]; exact List.mem_append_right _ List.mem_cons_self, rfl, rfl,
    rfl, ?_⟩
  simp only [satTo]
  omega

theorem State.noteWords_reg_other {off : Nat} (h : off ≠ (Reg.bayEccCorr x).off) :
    (s.noteWords x e).reg off = s.reg off := by
  rw [s.noteWords_eq x he, State.raise_reg]
  exact (State.reg_bump_other (f := Reg.bayEccUncorr x) _ _ h).trans (State.reg_bump_other _ _ h)

/-- A bad word is counted (10 R286, R287). -/
theorem State.noteWords_uncorr :
    (s.noteWords x e).fld (Reg.bayEccUncorr x) = min 0xFFFF (s.fld (Reg.bayEccUncorr x) + 1) := by
  rw [s.noteWords_eq x he, State.raise_fld, State.fld_bump_self _ _ _ (Nat.le_of_ble_eq_true rfl),
    State.fld_bump_bits _ _ _ _ (Nat.le_of_ble_eq_true rfl) (.inr (Nat.le_of_ble_eq_true rfl)), Nat.min_comm]
  rfl

theorem State.sramRead_bad (b : PBay) (t : Task) {r : Running}
    (hr : (s.bay b).running.find? (fun r => decide (r.task = t)) = some r) :
    s.sramRead b x t e = ((s.noteWords x e).abortTask b r 0).bayFault x 0 := by
  have hbay := s.noteWords_bay x he b
  rw [State.noteWords, he] at hbay ⊢
  simp only [State.sramRead, hbay, hr, he, Option.isNone_some, Bool.false_eq_true, if_false]

end

/-- The task that a start adds to those that run on its bay, when none of them is the same. -/
theorem find?_started {l : List Running} {r : Running} (h : ∀ x ∈ l, x.task ≠ r.task) :
    (l ++ [r]).find? (fun x => decide (x.task = r.task)) = some r := by
  rw [List.find?_append, List.find?_eq_none.2 (by simpa using h)]
  simp

/-- Taken away again, it leaves those that ran before. -/
theorem filter_started {l : List Running} {r : Running} (h : ∀ x ∈ l, x.task ≠ r.task) :
    ((l ++ [r]).filter fun x => x ≠ r) = l := by
  have hold : (l.filter fun x => x ≠ r) = l :=
    List.filter_eq_self.2 fun x hx => decide_eq_true fun heq => h x hx (congrArg Running.task heq)
  rw [List.filter_append, hold]
  simp

/-- A task is aborted as it was when it started. -/
theorem newRunning_aborted_task (s : State) (t : Task) (ov : Bool) (parts : Parts) (b : PBay) (cause : Nat) :
    ((newRunning s t ov parts).aborted b cause).task = t := by
  simp [Running.aborted, Running.hasActed, newRunning]

/-- A started task changes no byte and makes no bay faulty. -/
theorem State.runParts_stands (s : State) (b : PBay) (t : Task) (ov : Bool) (parts : Parts) :
    s.SameBytes (s.runParts b t ov parts) ∧
      ((s.runParts b t ov parts).bay b).running = (s.bay b).running ++ [newRunning s t ov parts] ∧
      (∀ y, ((s.runParts b t ov parts).bay y).faulty = (s.bay y).faulty) ∧
      ∀ off, off % 0x10000 = 0xE078 ∨ off % 0x10000 < 8 → (s.runParts b t ov parts).reg off = s.reg off := by
  obtain ⟨regs, hrun, hreg⟩ := s.runParts_eq b t ov parts
  rw [hrun]
  refine ⟨by simp [State.SameBytes], by rw [State.bay_setBay_self], fun y => ?_, fun off hoff => ?_⟩
  · rw [State.bay_setBay]
    split
    next hkey => rw [s.bay_eq_of_key hkey]
    next => rfl
  · rw [State.setBay_reg]
    exact hreg off fun p _ => not_mem_countRegs p.1 hoff

/-- With a bad word the started task is the one aborted, and the bay of the word is found faulty for cause 0. -/
theorem State.wordFault_of_bad (a : State) (b : PBay) {x : PBay} (hx : x.wf = true) (t : Task) (ov : Bool) (parts : Parts)
    {e : Sram} {word : Nat} (he : e.bad = some word) (hnew : ∀ r ∈ (a.bay b).running, r.task ≠ t) :
    a.WordFault ((a.runParts b t ov parts).sramRead b x t e) b x t word := by
  obtain ⟨hbytes, hrunning, hfaulty, hreg⟩ := a.runParts_stands b t ov parts
  obtain ⟨hlow, hecc⟩ := bayEcc_place hx
  obtain ⟨-, -, hlow', hspare⟩ := bayFault_place (of_decide_eq_true hx).1
  rw [State.sramRead_bad _ x he b t
    (by rw [hrunning]; exact find?_started (r := newRunning a t ov parts) hnew)]
  generalize a.runParts b t ov parts = v at hbytes hrunning hfaulty hreg
  have hstands := ((v.noteWords x e).abortTask b (newRunning a t ov parts) 0).bayFault_standsBut hx (by decide : 0 ≠ 3)
  have haborted := (v.noteWords x e).mem_abortTask_aborted b (newRunning a t ov parts) 0
  have hfaulty' (y : PBay) :
      (((v.noteWords x e).abortTask b (newRunning a t ov parts) 0).bay y).faulty = (a.bay y).faulty := by
    rw [State.abortTask_faulty, v.noteWords_bay x he, hfaulty]
  refine ⟨?bytes, ?running, ?aborted, ?recorded, ?counted, fun hf hr => ?found, fun y hy => ?others⟩
  case bytes =>
    exact ((hbytes.trans (v.noteWords_sameBytes x he)).trans (State.abortTask_sameBytes _ _ _ _)).trans hstands.bytes
  case running =>
    rw [hstands.running, State.abortTask_running, v.noteWords_bay x he, hrunning]
    exact filter_started (r := newRunning a t ov parts) hnew
  case aborted =>
    rw [hstands.aborted]
    exact ⟨_, haborted, newRunning_aborted_task a t ov parts b 0, rfl⟩
  case recorded =>
    rw [hstands.raised, State.abortTask_raised]
    exact v.mem_noteWords_raised x he
  case counted =>
    have hreg' := (hstands.ecc _ hlow hecc).trans (State.abortTask_reg _ _ _ _ hlow (.inl hecc))
    rw [State.fld_eq_of_reg (f := Reg.bayEccUncorr x) hreg', v.noteWords_uncorr x he,
      State.fld_eq_of_reg (f := Reg.bayEccUncorr x) (hreg _ (.inl hecc))]
  case found =>
    have hreg' := ((State.abortTask_reg (v.noteWords x e) b (newRunning a t ov parts) 0 hlow' (.inr (by omega))).trans
      (v.noteWords_reg_other x he fun h => by omega)).trans (hreg _ (.inr (by omega)))
    refine State.bayFault_found _ hx (by decide) ((hfaulty' x).trans hf) ?_
    rw [State.bayRetired, State.fld_eq_of_reg hreg']
    exact hr
  case others => rw [hstands.faulty y hy, hfaulty']

/-! ### The statement -/

/-- What the start of a task leads to whose parts a function of its operands gives. -/
theorem State.startPlain_runs {s a : State} {l : Bay} {op : Nat} {b : PBay} {t : Task} (f : State → PBay → Task → Parts)
    (m : Nat) (e : Sram) (h : s.Starts l (op, 0) b t a) :
    let x := (s.teamOf b t).getD m b
    let u := s.startPlain l op f m e
    (e.bad = none → a.RunsWith u b x t (f a b t) e.corrected) ∧
    (∀ word, e.bad = some word → x.wf = true → (∀ r ∈ (a.bay b).running, r.task ≠ t) → a.WordFault u b x t word) := by
  obtain ⟨ov, hu⟩ := State.startPlain_of_starts h f m e
  dsimp only
  rw [hu]
  exact ⟨fun he => a.runsWith_of_clean b _ t ov _ he, fun word he hx hnew => a.wordFault_of_bad b hx t ov _ he hnew⟩

/-- Settles O34: each of the ten rows starts its task with the parts that its function gives. -/
theorem taskRuns : Obligations.TaskRuns := by
  unfold Obligations.TaskRuns
  intro l m e b t a s x runs
  have hruns (i : Instr) (op : Nat) (f : State → PBay → Task → Parts)
      (hi : exec i s = .next (s.startPlain l op f m e)) : runs i op (f a b t) := fun h =>
    have ⟨hclean, hbad⟩ := State.startPlain_runs f m e h
    ⟨fun he => ⟨_, hi, hclean he⟩, fun word he hx hnew => ⟨_, hi, hbad word he hx hnew⟩⟩
  exact ⟨hruns _ _ gemmParts rfl, hruns _ _ convParts rfl, hruns _ _ dwconvParts rfl, hruns _ _ attnParts rfl,
    hruns _ _ elemParts rfl, hruns _ _ sfuParts rfl, hruns _ _ normParts rfl, hruns _ _ poolParts rfl,
    hruns _ _ moveParts rfl, hruns _ _ kvappendParts rfl⟩

end Sys2Proof.Machine
end
